-- ==== Sys2Proof/Word.lean ====
section
/-! DEFINITION. The word types of the node: every register is 64 bits wide (R6), every multi-byte field is
little-endian (R5). -/

namespace Sys2Proof

/-- One byte. -/
abbrev Byte := BitVec 8
/-- A 16-bit field: tags, BF16 values, counts of two bytes. -/
abbrev W16 := BitVec 16
/-- A 32-bit field: FP32 values, fabric identifiers. -/
abbrev W32 := BitVec 32
/-- A register (R6) or an eight-byte field. -/
abbrev W64 := BitVec 64

end Sys2Proof
end

