-- ==== Sys2Proof/Data.lean ====
section
/-! DEFINITION. The structured data that commands carry and State holds: images, generations, messages, cartridge
records. Where the spec gives a byte layout the fields follow its table; where it gives none (a section's body, a
generation's body) the structure is the model's (log 5). -/

namespace Sys2Proof


/-- A queue pair: function and pair number (R235, R236). Pair 0 is the admin pair. -/
structure QRef where
  fn  : Nat
  qid : Nat
deriving DecidableEq, Repr

/-- Stage kinds, Table 2-4; `other` is a reserved code. -/
inductive StageKind where
  | encode | route | rinse | press | select | merge | score | pool | update
  | other (code : Nat)
deriving DecidableEq, Repr

/-- One stage of a pipeline graph: its kind, its 64-byte parameter block (Tables 4-4, 7-8, 8-3) and its successors. The
spec gives no offset for a MERGE stage's scope: `crossing` says that it crosses nodes (R69). -/
structure Stage where
  kind     : StageKind
  par      : List Byte := []
  succ     : List Nat := []
  crossing : Bool := false
deriving DecidableEq, Repr

/-- A pipeline graph: at most 32 stages (R26). -/
structure Graph where
  stages : List Stage
deriving DecidableEq, Repr

/-- Quantisation table, Table 5-7. `rsv` is its eight reserved bytes. -/
structure Quant where
  rhoQuery : W16 := 0x3F80
  rhoStore : W16 := 0x3F80
  rhoAct   : W16 := 0x3F80
  clipThr  : W16 := 0x0080
  rsv      : W64 := 0
deriving DecidableEq, Repr

/-- Model descriptor, Table 7-2. `rhos` is the ρ array at `RHO_OFF`, one per layer; empty: none. -/
structure ModelDesc where
  model   : Nat
  kind    : Nat
  blocks  : Nat
  dModel  : Nat
  ffn     : Nat
  heads   : Nat
  headDim : Nat
  vocab   : Nat
  maxSeq  : Nat
  outDim  : Nat
  pool    : Nat
  flags   : Nat
  window  : Nat
  rsv     : Nat := 0
  lnEps   : W32
  rhos    : List W16 := []
deriving DecidableEq, Repr

/-- A matrix layout of a section's layout tables (R96, R100): element format in bits (1, 2, 4, 8), shape, orientation
(Table 5-5) and inner dimension. -/
structure MatLayout where
  bits   : Nat
  rows   : Nat
  cols   : Nat
  orient : Nat
  inner  : Nat
deriving DecidableEq, Repr

/-- The arrays of a generation that make one object each (Table 9-5): sketches, attribute records, block summaries and tombstones; routing graph and list
descriptors; codes and scales; IDs and ID map. -/
inductive GenPart where
  | rinse | graph | codes | ids
deriving DecidableEq, Repr, Inhabited

/-- A partition section (Table 2-3). `place` holds the placement policies it gives for parts of a generation (chapter 09). `mountAll` is its factory-mount rule: every collection found on the fitted cartridges is mounted (R39). `digest` is the SHA-384 of its bytes. -/
structure PtnSection where
  ptn      : Nat
  graphs   : List (Nat × Graph) := []
  quant    : Quant := {}
  models   : List ModelDesc := []
  layouts  : List MatLayout := []
  sapPool  : Nat := 4096
  place    : List (GenPart × W64) := []
  mountAll : Bool := false
  digest   : Nat := 0
deriving DecidableEq, Repr

/-- Partition map entry, Table 13-1. -/
structure PtnEntry where
  cores   : W64 := 0
  stks  : BitVec 8 := 0
  valid   : Bool := false
  t2      : W16 := 0
  threads : Nat := 0
deriving DecidableEq, Repr

/-- Node QoS defaults (Table 2-3): the image values of the QOS_ registers. Index 8f + c for `shape`, 8p + c for `svc`, f for
the policer words. -/
structure QosDefaults where
  shape   : List W64 := []
  svc     : List W64 := []
  polRate : List W64 := []
  polCfg  : List W64 := []
deriving DecidableEq, Repr

/-- The node section (Table 2-3, R282, R283). `digest` is the SHA-384 of its bytes. -/
structure NodeSection where
  map        : List PtnEntry
  fnMap      : List Nat
  totalVfs   : Nat := 63
  numVfs     : Nat := 0
  qos        : QosDefaults := {}
  reserve    : Nat × Nat := (0, 0)
  bankLevel  : Nat := 0
  digest     : Nat := 0
deriving DecidableEq, Repr

/-- What the bytes of a node section hold (Table 2-3). The partition map and the function map are read from the section's bytes in the layouts of Table 13-1 and R283, at the offsets
given here; the rest has no layout in the spec (log 5). -/
structure NodeForm where
  mapOff     : Nat := 0
  fnOff      : Nat := 256
  totalVfs   : Nat := 63
  numVfs     : Nat := 0
  qos        : QosDefaults := {}
  reserve    : Nat × Nat := (0, 0)
  bankLevel  : Nat := 0
deriving DecidableEq, Repr

/-- What the bytes of a partition section hold. The quantisation table and the model descriptors are read from the section's bytes in the layouts of Tables 5-7 and 7-2, at the offsets
given here; the rest has no layout in the spec (log 5). -/
structure PtnForm where
  graphs   : List (Nat × Graph) := []
  quantOff : Nat := 0
  models   : List Nat := []
  layouts  : List MatLayout := []
  sapPool  : Nat := 4096
  place    : List (GenPart × W64) := []
  mountAll : Bool := false
deriving DecidableEq, Repr

/-- The sections of an image: the node section's, and those of the partition sections in directory order. -/
structure ImageForm where
  node  : NodeForm := {}
  parts : List PtnForm := []
deriving DecidableEq, Repr

/-- Section directory entry, Table 2-2. -/
structure DirEntry where
  kind   : Nat
  ptn    : Nat
  offset : Nat := 0
  length : Nat := 0
  digest : Nat := 0
deriving DecidableEq, Repr

/-- A Kyxel image as its bytes decode (Tables 2-1 to 2-3). `rsaOk` and `slhOk` say whether the signature and its certificate
chain verify against the Beysar roots (R24): no root key is in the spec. -/
structure Image where
  magic      : W32 := 0x4C58594B
  hdrVer     : W16 := 1
  proto      : Nat := 4
  fmt        : Nat := 4
  secVer     : W32 := 1
  sections   : Nat := 2
  flags      : W16 := 0
  imageVer   : W64 := 1
  imageLen   : Nat := 0
  sigOffset  : Nat := 0
  targetPart : W16 := 0x0760
  targetStep : BitVec 8 := 0xB1
  dir        : List DirEntry := []
  node       : NodeSection
  parts      : List PtnSection := []
  rsaOk      : Bool := true
  slhOk      : Bool := true
deriving DecidableEq, Repr

/-- The repair map (R29): retired physical cores, each with the core that took its number (0xFF: none), lanes replaced (core, slice, lane), banks replaced (channel, position),
link lanes engaged (bundle, failed lane), rows (channel, position, row) and SRAM rows (partition, row). -/
structure RepairMap where
  cores  : List (Nat × Nat) := []
  lanes  : List (Nat × Nat × Nat) := []
  banks  : List (Nat × Nat) := []
  links  : List (Nat × Nat) := []
  rows   : List (Nat × Nat × Nat) := []
  sram   : List (Nat × Nat) := []
deriving DecidableEq, Repr

/-- A body entry of a list (R45, R46): its sketch (bit k of the sketch is bit k of the number), N4 codes, BF16 row scale,
ID, attribute record and tombstone bit. -/
structure BodyEntry where
  id     : W64
  attr   : W64 := 0
  tag    : W16 := 0
  sketch : Nat := 0
  codes  : List Int := []
  scale  : W16 := 0
  tomb   : Bool := false
deriving DecidableEq, Repr

/-- A Sapling record, Table 3-8. -/
structure SapRec where
  id      : W64
  seq     : Nat
  attr    : W64 := 0
  tag     : W16 := 0
  valid   : Bool := true
  deleted : Bool := false
  scale   : W16 := 0
  sketch  : Nat := 0
  codes   : List Int := []
deriving DecidableEq, Repr

/-- One list of a generation: its routing-graph node (Table 3-7), its list descriptor's counts (Table 3-6), its body and its
Sapling. `chan` is the position of the list's first channel (R192). `badNode`, `badBlocks` and `badRows` are the records
that an uncorrectable word has made unreadable (R63). -/
structure GList where
  waypoint  : Bool := false
  cscale    : W16 := 0
  nbr       : List Nat := []
  centroid  : List Int := []
  csketch   : Nat := 0
  body      : List BodyEntry := []
  sap       : List SapRec := []
  live      : Nat := 0
  chan      : Nat := 0
  chunks    : List Nat := []
  badNode   : Bool := false
  badBlocks : List Nat := []
  badRows   : List Nat := []
deriving DecidableEq, Repr

/-- Generation header, Table 3-9. -/
structure GenHeader where
  magic     : W32
  fmt       : Nat
  skw       : Nat
  metric    : Nat
  nEntry    : Nat
  gen       : W64
  collId    : W64
  baseSeq   : Nat
  projSeed  : W64
  dim       : Nat
  lists     : Nat
  entries   : Nat
  entryNode : List Nat
  digest    : Nat
deriving DecidableEq, Repr

/-- Where one list lies in the bytes of a generation that `GENERATION_LOAD` carries (log 137: the spec prints the layouts of the records and arrays and no
order of them): offsets of its routing-graph node, sketch, attribute, code, scale and ID arrays, and its entries. -/
structure ListPart where
  node    : Nat
  entries : Nat := 0
  sketch  : Nat := 0
  attr    : Nat := 0
  code    : Nat := 0
  scale   : Nat := 0
  ids     : Nat := 0
deriving DecidableEq, Repr

/-- A generation: header, lists by number, ID map (ID, location word of R47), the bytes it takes on flash, the flash object that holds them and where each list lies there. -/
structure Gen where
  hdr   : GenHeader
  lists : List (Nat × GList)
  idMap : List (Nat × Nat) := []
  size  : Nat := 0
  store : Nat := 0
  parts : List (Nat × ListPart) := []
deriving DecidableEq, Repr

/-- Where a record of a shard lies, for a damage report (R63, R188) or a restoration. -/
inductive RecLoc where
  | node  (list : Nat)
  | block (list blk : Nat)
  | row   (list idx : Nat)
  | sap   (list pos : Nat)
deriving DecidableEq, Repr

/-- A Juolo message: header of Table 12-5 and body bytes. `ptn` holds the source partition in [2:0] and the destination
partition in [6:4]; `lastSeg` and `resend` are its FLAGS. -/
structure Msg where
  dst     : W32
  src     : W32
  kind    : Nat
  level   : Nat
  hops    : Nat := 0
  srcPtn  : Nat := 0
  dstPtn  : Nat := 0
  resend  : Bool := false
  lastSeg : Bool := true
  segment : Nat := 0
  seq     : Nat := 0
  body    : List Byte := []
deriving DecidableEq, Repr

/-- A flit as the receiver has it after Reed-Solomon correction (R265): the bytes and the corrected symbols, or `none` where
correction failed. The generator of the code is not in the spec, so the outcome of correction comes with the flit
(log 20). -/
structure RxFlit where
  bytes     : Option (List Byte)
  corrected : Nat := 0
deriving DecidableEq, Repr

/-- A capability record exchanged in NEGOTIATE (R259). -/
structure CapRec where
  nodeId   : W32
  link     : Nat
  proto    : Nat
  protoMin : Nat
  fmt      : Nat
  fmtMin   : Nat
  imageVer : W64
deriving DecidableEq, Repr

/-- A DIMM at a tier-2 channel as training finds it (R180). -/
inductive Dimm where
  | empty
  | failed (gib : Nat)
  | active (gib : Nat)
deriving DecidableEq, Repr

/-- Cartridge identity record, Table 10-2 (R205). -/
structure IdRecord where
  magic     : W32 := 0x544C454D
  recVer    : Nat := 1
  model     : Nat := 0x0C64
  serial    : Nat := 0
  channels  : Nat := 8
  dies      : Nat := 16
  planes    : Nat := 4
  blocks    : Nat := 5015
  spares    : Nat := 48
  pagesQlc  : Nat := 1536
  pages1bit : Nat := 384
  peRated   : Nat := 1500
  lblocks   : Nat := 13671875000
  bufGb     : Nat := 640
  dieDigest : Nat := 0
deriving DecidableEq, Repr

/-- What a die's ONFI parameter page gives of Table 10-1: its layout is ONFI's, not the spec's, so the values stand here decoded (log 20). -/
structure ParamPage where
  planes    : Nat := 4
  blocks    : Nat := 5015
  pageBytes : Nat := 16384
  pagesQlc  : Nat := 1536
  pages1bit : Nat := 384
  peRated   : Nat := 1500
deriving DecidableEq, Repr

/-- Life record, Table 10-4. -/
structure LifeRec where
  seq        : Nat := 0
  wear       : Nat := 0
  hostSect   : Nat := 0
  nandSect   : Nat := 0
  retired    : Nat := 0
  unsafeCnt  : Nat := 0
  openFlag   : Bool := false
  sanPending : Bool := false
  unsanit    : Bool := false
  nodeFp     : Nat := 0
deriving DecidableEq, Repr

/-- Kind of work a log record describes. -/
inductive RecKind where
  | insert | delete | upsert
deriving DecidableEq, Repr, Inhabited

/-- A record of a collection's update log (R315): the sequence, the kind, the list placed and the Sapling record. -/
structure LogRec where
  seq   : Nat
  kind  : RecKind
  id    : W64
  list  : Nat := 0
  sap   : Option SapRec := none
  epoch : Nat := 0
deriving DecidableEq, Repr

/-- A training record (R315): epoch, row index, combined delta; `write`: the elements of a `TABLE_WRITE` instead (log 38). -/
structure TrainRec where
  epoch : Nat
  row   : Nat
  delta : List W32
  write : Bool := false
deriving DecidableEq, Repr

/-- A block set (R203, R219, R220): whether QLC, its phase (0 free, 1 open, 2 closed, 3 retired, 4 erase pending, 5 being emptied by the
Wringer), erase count and how many of those were in one-bit mode, the time it was opened and then closed, refresh mark, sectors taken, and the spare blocks that have replaced blocks
of its own as (plane, block) (R223). The die of set i is ⌊i / 4,967⌋, and its own block on each plane is i mod 4,967. -/
structure BSet where
  qlc     : Bool := true
  phase   : Nat := 0
  erases  : Nat := 0
  ones    : Nat := 0
  at_     : Nat := 0
  refresh : Bool := false
  used    : Nat := 0
  repl    : List (Nat × Nat) := []
deriving DecidableEq, Repr, Inhabited

/-- A physical sector that holds (or held) a block of an object: cartridge slot, block set and the position there in the order of programming (log 158), data, one-bit or QLC, mapped or
stale, version of the write it carries, and what a read of it meets (R221): 0 decodes, 1 decodes with more than three quarters of the correction limit, 2 to 8
after 1 to 7 retries, 9 or more lost. A set number from 635,776 on names a retired block by its place in the cartridge's record of retirements (R226). -/
structure Copy where
  cart   : Nat
  set_   : Nat
  obj    : Nat
  blk    : Nat
  data   : List Byte
  onebit : Bool
  mapped : Bool
  ver    : Nat := 0
  ecc    : Nat := 0
  pos    : Nat := 0
deriving DecidableEq, Repr

/-- A flash object (R212): owner partition, blocks, the serials of the cartridges it spans in mask order, DENSE, and on each of them the
first logical block. -/
structure FObj where
  ptn    : Nat := 0
  blocks : Nat := 0
  carts  : List Nat := []
  dense  : Bool := false
  base   : List Nat := []
deriving DecidableEq, Repr, Inhabited

/-- Collection descriptor, Table 3-1. -/
structure CollDesc where
  name     : List Byte := []
  dim      : Nat := 0
  skw      : Nat := 0
  metric   : Nat := 0
  fmt      : Nat := 2
  keepOrig : Bool := true
  spill    : Nat := 4
  sapCap   : Nat := 4096
  projSeed : W64 := 0
  collId   : W64 := 0
deriving DecidableEq, Repr, Inhabited

/-- A collection as a cartridge directory holds it (R39, R61, R211): where it was, its descriptor, the generation that its root record names, its log and its originals. -/
structure FoundColl where
  ptn     : Nat
  slot    : Nat
  desc    : CollDesc
  root    : Option Gen := none
  log     : List LogRec := []
  logFrom : Nat := 1
  orig    : List (Nat × Nat × List W32) := []
deriving DecidableEq, Repr

/-- What an identified cartridge reads (R206): the channels that trained, each die's parameter page and unique ID in channel and then die order, the identity device: its record's 128
bytes, the verdict of the two signatures (log 5) and the two life record copies; whether its directory names this node (none: no directory), and what the directory, the map, the block
summaries and the journal hold: objects, collections, sectors, block sets, sets still to sanitise, spare blocks by plane, retired blocks as (die, plane, block), sets lost, journal
entries. Of a cartridge that stayed seated the node's own record of these holds. -/
structure CartIdent where
  trained   : BitVec 8 := 0xFF
  dies      : List (ParamPage × List Byte) := []
  idAnswers : Bool := true
  record    : List Byte := []
  rsaOk     : Bool := true
  slhOk     : Bool := true
  lifeA     : List Byte := []
  lifeB     : List Byte := []
  dirOurs   : Option Bool := none
  dirSeq    : Nat := 0
  objs      : List (Nat × FObj) := []
  colls     : List FoundColl := []
  copies    : List Copy := []
  sets      : List (Nat × BSet) := []
  toErase   : List Nat := []
  spares    : List (Nat × List Nat) := []
  retired   : List (Nat × Nat × Nat) := []
  lost      : Nat := 0
  journal   : List (Nat × Nat) := []
deriving DecidableEq, Repr

/-- SPDM transports (R40): I3C to the board management controller, and PCIe vendor-defined messages. -/
inductive Transport where
  | i3c | vdm
deriving DecidableEq, Repr

/-- SPDM signature algorithms (R40). -/
inductive SigAlg where
  | rsa | slh
deriving DecidableEq, Repr

/-- A host read that fails: a fetch of submission entries, the data of the fetched command (R234), or, of a pair being reset, the entry behind `ahead` others that are still to be
aborted (R244). -/
inductive ReadWhat where
  | fetch | data
  | aborted (ahead : Nat)
deriving DecidableEq, Repr

/-- An object named by kind and number: ownership and durability (R307). -/
inductive ObjKind where
  | coll | table
deriving DecidableEq, Repr

/-- A store of a memory word: a word of an object's page, a tier-1 row without object, or on-die SRAM (R190). -/
inductive MemLoc where
  | obj (ptn obj off : Nat)
  | shard (ptn coll : Nat) (gen : W64) (loc : RecLoc)
  | row (ptn tbl row elem : Nat)
  | sram (ptn where_ : Nat)
  | ctx (ptn idx : Nat)
deriving DecidableEq, Repr

/-- A codeword in error (R187): the place, the bits in error, the tier-1 channel, chain position and row. -/
structure Finding where
  loc  : MemLoc
  bits : Nat
  chan : Nat := 0
  pos  : Nat := 0
  row  : Nat := 0
deriving DecidableEq, Repr

/-- What passed outside since the previous step (log 1, log 3): `dt` CTL cycles elapsed, the host stored `host` (address, bytes) into its own memory, and bits of the node's memory
went wrong as `errs` says (log 109). Every command carries one. -/
structure Env where
  dt   : Nat := 0
  host : List (Nat × List Byte) := []
  errs : List Finding := []
deriving DecidableEq, Repr

/-- An AVSBus response (R340): good, no acknowledgement, bad CRC, and voltage done with the rail's status. -/
inductive AvsResp where
  | ack | noAck | badCrc | done (mv : Nat)
deriving DecidableEq, Repr

/-- What a register access hits: BAR0 (doorbells), BAR2 (registers) or BAR4 (MSI-X table) of Table 11-3, or configuration space (R232). -/
inductive Bar where
  | bar0 | bar2 | bar4 | config
deriving DecidableEq, Repr

/-- A register write of 64 bits, or of one 32-bit half (R6). -/
inductive Width where
  | full | lo | hi
deriving DecidableEq, Repr

/-- Which part of a `MODEL_LOAD` a step is: all of it or its fetch and start, of the queue pair named, or its end for a model of a partition (log 157). -/
inductive LoadPhase where
  | whole (q : QRef)
  | start (q : QRef)
  | finish (p m : Nat)
deriving DecidableEq, Repr
/-- A record of a generation (R63). -/
structure RecRef where
  gen : W64
  loc : RecLoc
deriving DecidableEq, Repr
/-- A program or a block set, and the plane of its block that failed (R222, R223, log 39). -/
structure OnPlane where
  num   : Nat
  plane : Nat
deriving DecidableEq, Repr
/-- Corrected errors that a physical core has not reported yet, each by its age in cycles (R301, log 63). -/
structure CoreErrs where
  core : Nat
  ages : List Nat := []
deriving DecidableEq, Repr
/-- What a host link that trains brings: its rate (1 to 5: 2.5 to 32 GT/s) and width (R231, log 166). -/
structure LinkUp extends Env where
  rate  : Nat := 5
  width : Nat := 16
deriving DecidableEq, Repr
/-- An entry in progress: the node's, or a partition's shut-down (R330, R331). -/
inductive EntryRef where
  | node | ptn (p : Nat)
deriving DecidableEq, Repr

end Sys2Proof
end

