-- ==== Sys2Proof/Syntax.lean ====
section
/-! DEFINITION. The commands of the block: one constructor per row of spec/opcode_table.json. Each is one whole,
indivisible step (95_what_each_step_holds.md). The first operand says what passed outside since the previous step
(log 1). A host command names its queue; its operands are in the submission entry that the node fetches (Table 11-7). -/

namespace Sys2Proof

inductive Instr where
  /-- `PERST_N_ASSERT` (R352). -/
  | perstNAssert (e : Env)
  /-- `PERST_N_DEASSERT` (R30). -/
  | perstNDeassert (e : Env) (straps : BitVec 4)
  /-- `VR_PG_RISE` (R356). -/
  | vrPgRise (e : Env) (rail : Nat)
  /-- `VR_PG_TIMEOUT` (R357). -/
  | vrPgTimeout (e : Env) (rail : Nat)
  /-- `VR_PG_FALL` (R357). -/
  | vrPgFall (e : Env) (rail : Nat)
  /-- `IMAGE_READ_DONE` (R30). -/
  | imageReadDone (e : Env)
  /-- `IMAGE_VERIFIED` (R31). -/
  | imageVerified (e : Env)
  /-- `REPAIR_MAP_APPLIED` (R29). -/
  | repairMapApplied (e : Env)
  /-- `NODE_SECTION_APPLIED` (R30). -/
  | nodeSectionApplied (e : Env)
  /-- `TIER1_TRAINED` (R30). -/
  | tier1Trained (e : Env)
  /-- `TIER2_TRAINED` (R180). -/
  | tier2Trained (e : Env) (dimms : List Dimm)
  /-- `REPAIR_TEST_END` (R29). -/
  | repairTestEnd (e : Env) (found : RepairMap)
  /-- `READY` (R32). -/
  | readyStep (e : Env)
  /-- `TRIAL_TIMEOUT` (R33). -/
  | trialTimeout (e : Env)
  /-- `COLLECTION_MOUNT` (R61). -/
  | collectionMount (e : Env) (p c : Nat) (readable : Bool)
  /-- `QUEUE_CREATE` (R237). -/
  | queueCreate (e : Env) (q : QRef)
  /-- `QUEUE_DELETE` (R240). -/
  | queueDelete (e : Env) (q : QRef)
  /-- `QUEUE_RESET` (R244). -/
  | queueReset (e : Env) (q : QRef)
  /-- `QUEUE_RESET_DONE` (R244). -/
  | queueResetDone (e : Env) (q : QRef)
  /-- `SESSION_OPEN_PHASE_0` (R251). -/
  | sessionOpenPhase0 (e : Env) (q : QRef)
  /-- `SESSION_OPEN_PHASE_1` (R251). -/
  | sessionOpenPhase1 (e : Env) (q : QRef)
  /-- `SESSION_LOCKOUT_END` (R251). -/
  | sessionLockoutEnd (e : Env) (slot : Nat)
  /-- `SESSION_CLOSE` (R252). -/
  | sessionClose (e : Env) (q : QRef)
  /-- `SESSION_KEY_SET` (R252). -/
  | sessionKeySet (e : Env) (q : QRef)
  /-- `SESSION_KEY_ERASE` (R252). -/
  | sessionKeyErase (e : Env) (q : QRef)
  /-- `ATTN_ACK` (R249). -/
  | attnAck (e : Env) (q : QRef)
  /-- `IMAGE_WRITE` (R34). -/
  | imageWrite (e : Env) (q : QRef) (form : ImageForm)
  /-- `IMAGE_VERIFY` (R34). -/
  | imageVerify (e : Env) (q : QRef)
  /-- `IMAGE_SELECT` (R34). -/
  | imageSelect (e : Env) (q : QRef)
  /-- `IMAGE_COMMIT` (R35). -/
  | imageCommit (e : Env) (q : QRef)
  /-- `PARTITION_IMAGE_LOAD` (R36). -/
  | partitionImageLoad (e : Env) (q : QRef)
  /-- `LIVE_LOAD_DRAIN_END` (R37). -/
  | liveLoadDrainEnd (e : Env) (p : Nat)
  /-- `DRAIN_LIMIT` (R37). -/
  | drainLimit (e : Env) (p : Nat)
  /-- `SPDM_GET_VERSION` (R40). -/
  | spdmGetVersion (e : Env) (tr : Transport)
  /-- `SPDM_GET_CAPABILITIES` (R40). -/
  | spdmGetCapabilities (e : Env) (tr : Transport)
  /-- `SPDM_NEGOTIATE_ALGORITHMS` (R40). -/
  | spdmNegotiateAlgorithms (e : Env) (tr : Transport) (algs : List SigAlg)
  /-- `SPDM_GET_DIGESTS` (R40). -/
  | spdmGetDigests (e : Env) (tr : Transport)
  /-- `SPDM_GET_CERTIFICATE` (R40). -/
  | spdmGetCertificate (e : Env) (tr : Transport) (off len : Nat)
  /-- `SPDM_CHALLENGE` (R40). -/
  | spdmChallenge (e : Env) (tr : Transport) (nonce : List Byte)
  /-- `SPDM_GET_MEASUREMENTS` (R41). -/
  | spdmGetMeasurements (e : Env) (tr : Transport) (index : Nat) (nonce : List Byte)
  /-- `COLLECTION_CREATE` (R42). -/
  | collectionCreate (e : Env) (q : QRef)
  /-- `COLLECTION_DROP` (R66). -/
  | collectionDrop (e : Env) (q : QRef)
  /-- `GENERATION_LOAD` (R58). -/
  | generationLoad (e : Env) (q : QRef) (parts : List ListPart)
  /-- `GENERATION_SWAP` (R59). -/
  | generationSwap (e : Env) (q : QRef)
  /-- `SWAP_FREEZE` (R59). -/
  | swapFreeze (e : Env) (p c : Nat)
  /-- `SWAP_COMMIT` (R59). -/
  | swapCommit (e : Env) (p c : Nat)
  /-- `SWAP_LIMIT` (R59). -/
  | swapLimit (e : Env) (p c : Nat)
  /-- `GENERATION_DISCARD` (R61). -/
  | generationDiscard (e : Env) (q : QRef)
  /-- `SHARD_EXPORT` (R254). -/
  | shardExport (e : Env) (q : QRef)
  /-- `INSERT` (R51). -/
  | insertCmd (e : Env) (q : QRef)
  /-- `DELETE` (R53). -/
  | deleteCmd (e : Env) (q : QRef)
  /-- `UPSERT` (R55). -/
  | upsertCmd (e : Env) (q : QRef)
  /-- `COMMIT_POINT` (R54). -/
  | commitPoint (e : Env) (p c seq : Nat)
  /-- `RECORD_RESTORE` (R63). -/
  | recordRestore (e : Env) (p c : Nat) (r : RecRef)
  /-- `SEARCH` (R67). -/
  | search (e : Env) (q : QRef)
  /-- `AUDIT` (R92). -/
  | audit (e : Env) (q : QRef)
  /-- `ROUTE_EXPANSION` (R71). -/
  | routeExpansion (e : Env) (p qy : Nat)
  /-- `GATHER_DEADLINE` (R81). -/
  | gatherDeadline (e : Env) (p : Nat)
  /-- `PASS_LAUNCH` (R82). -/
  | passLaunch (e : Env) (p core : Nat)
  /-- `PASS_END` (R76). -/
  | passEnd (e : Env) (p pass : Nat)
  /-- `PRESS_UNIT` (R79). -/
  | pressUnit (e : Env) (p pass blk core : Nat)
  /-- `SELECT` (R80). -/
  | selectTop (e : Env) (p qy : Nat)
  /-- `FANOUT` (R370). -/
  | fanout (e : Env) (link : Nat) (m : Msg)
  /-- `PARTIAL` (R132). -/
  | partialResult (e : Env) (link : Nat) (m : Msg)
  /-- `MERGE_WAIT_EXPIRY` (R132). -/
  | mergeWaitExpiry (e : Env) (p inst : Nat)
  /-- `CLOSURE` (R136). -/
  | closure (e : Env) (link : Nat) (m : Msg)
  /-- `MODEL_BATCH_LAUNCH` (R152). -/
  | modelBatchLaunch (e : Env) (p model : Nat)
  /-- `MODEL_LAYER_FETCHED` (R154). -/
  | modelLayerFetched (e : Env) (p model : Nat)
  /-- `MODEL_BATCH_END` (R153). -/
  | modelBatchEnd (e : Env) (p batch : Nat)
  /-- `MODEL_LOAD` (R150). -/
  | modelLoad (e : Env) (ph : LoadPhase)
  /-- `TABLE_CREATE` (R158). -/
  | tableCreate (e : Env) (q : QRef)
  /-- `TABLE_DROP` (R161). -/
  | tableDrop (e : Env) (q : QRef)
  /-- `TABLE_WRITE` (R160). -/
  | tableWrite (e : Env) (q : QRef)
  /-- `TABLE_READ` (R160). -/
  | tableRead (e : Env) (q : QRef)
  /-- `POOL` (R163). -/
  | poolCmd (e : Env) (q : QRef)
  /-- `UPDATE` (R171). -/
  | updateCmd (e : Env) (q : QRef)
  /-- `ADD_APPLIED` (R172). -/
  | addApplied (e : Env) (p add : Nat)
  /-- `MIGRATION_COPY_WRITTEN` (R174). -/
  | migrationCopyWritten (e : Env) (p t row : Nat)
  /-- `MIGRATION_CUTOVER` (R174). -/
  | migrationCutover (e : Env) (p t row : Nat)
  /-- `HOT_ROW_BACKOFF_MOVE` (R174). -/
  | hotRowBackoffMove (e : Env) (p t row : Nat)
  /-- `OBJECT_ALLOC` (R186). -/
  | objectAlloc (e : Env) (q : QRef)
  /-- `OBJECT_FREE` (R186). -/
  | objectFree (e : Env) (q : QRef)
  /-- `OBJECT_POLICY` (R186). -/
  | objectPolicy (e : Env) (q : QRef)
  /-- `OBJECT_WRITE` (R186). -/
  | objectWrite (e : Env) (q : QRef)
  /-- `OBJECT_READ` (R186). -/
  | objectRead (e : Env) (q : QRef)
  /-- `HEAT_AGE` (R182). -/
  | heatAge (e : Env)
  /-- `PAGE_MIGRATION_CUTOVER` (R181). -/
  | pageMigrationCutover (e : Env) (page : Nat)
  /-- `PATROL_SCRUB` (R191). -/
  | patrolScrub (e : Env) (finds : List Finding)
  /-- `HELD_ACCESS` (R195). -/
  | heldAccess (e : Env) (p : Nat)
  /-- `STACK_BUDGET_WINDOW` (R198). -/
  | stackBudgetWindow (e : Env) (stack temp : Nat)
  /-- `DARNER_BACKOFF` (R199). -/
  | darnerBackoff (e : Env) (chan waited : Nat)
  /-- `CART_PRESENT` (R361). -/
  | cartPresent (e : Env) (slot : Nat)
  /-- `CART_IDENTIFIED` (R206). -/
  | cartIdentified (e : Env) (slot : Nat) (id : CartIdent)
  /-- `CART_REMOVED` (R210). -/
  | cartRemoved (e : Env) (slot : Nat)
  /-- `LIFE_RECORD_WRITE` (R207). -/
  | lifeRecordWrite (e : Env) (slot : Nat)
  /-- `CART_RELEASE` (R209). -/
  | cartRelease (e : Env) (q : QRef)
  /-- `CART_ADOPT` (R211). -/
  | cartAdopt (e : Env) (q : QRef)
  /-- `FLASH_ALLOC` (R212). -/
  | flashAlloc (e : Env) (q : QRef)
  /-- `FLASH_FREE` (R212). -/
  | flashFree (e : Env) (q : QRef)
  /-- `FLASH_WRITE` (R215). -/
  | flashWrite (e : Env) (q : QRef)
  /-- `FLASH_READ` (R212). -/
  | flashRead (e : Env) (q : QRef)
  /-- `MAP_PAGE_READ` (R214). -/
  | mapPageRead (e : Env) (slot page : Nat)
  /-- `MAP_PAGE_WRITEBACK` (R214). -/
  | mapPageWriteback (e : Env) (slot page : Nat)
  /-- `WRITE_STAGE_FLUSH` (R215). -/
  | writeStageFlush (e : Env) (obj blk set : Nat)
  /-- `PROGRAM_DONE` (R216). -/
  | programDone (e : Env) (prog : Nat)
  /-- `PROGRAM_FAILURE` (R222). -/
  | programFailure (e : Env) (bad : OnPlane) (set : Nat)
  /-- `FOLD` (R217). -/
  | fold (e : Env) (slot set : Nat)
  /-- `FOLD_REMAP` (R218). -/
  | foldRemap (e : Env) (slot set : Nat)
  /-- `WRINGER` (R219). -/
  | wringer (e : Env) (slot die set : Nat)
  /-- `ERASE_FAILURE` (R223). -/
  | eraseFailure (e : Env) (slot : Nat) (bad : OnPlane) (passes : Bool)
  /-- `DISCARD` (R225). -/
  | discard (e : Env) (q : QRef)
  /-- `SECURE_DISCARD` (R226). -/
  | secureDiscard (e : Env) (q : QRef)
  /-- `DOORBELL` (R240). -/
  | doorbell (e : Env) (q : QRef) (sq cq : Option Nat)
  /-- `AQ_ENABLE` (R236). -/
  | aqEnable (e : Env) (fn : Nat)
  /-- `AQ_DISABLE` (R245). -/
  | aqDisable (e : Env) (fn : Nat)
  /-- `FUNCTION_LEVEL_RESET` (R245). -/
  | functionLevelReset (e : Env) (fn : Nat)
  /-- `VF_ENABLE` (R284). -/
  | vfEnable (e : Env) (num : Nat)
  /-- `D3HOT_ENTRY` (R333). -/
  | d3hotEntry (e : Env) (fn : Nat)
  /-- `D0_ENTRY` (R333). -/
  | d0Entry (e : Env) (fn : Nat)
  /-- `HOST_READ_FAILURE` (R234). -/
  | hostReadFailure (e : Env) (q : QRef) (what : ReadWhat)
  /-- `CQ_VECTOR_TIMER` (R239). -/
  | cqVectorTimer (e : Env) (q : QRef)
  /-- `HEARTBEAT` (R250). -/
  | heartbeat (e : Env)
  /-- `FUNCTION_MAP` (R284). -/
  | functionMap (e : Env) (q : QRef)
  /-- `THREAD_WATCHDOG` (R286). -/
  | threadWatchdog (e : Env) (p ctx : Nat)
  /-- `CORE_WATCHDOG` (R287). -/
  | coreWatchdog (e : Env) (p core ctx : Nat)
  /-- `QUEUE_WATCHDOG` (R288). -/
  | queueWatchdog (e : Env) (p : Nat) (q : QRef)
  /-- `CORE_FAULT` (R292). -/
  | coreFault (e : Env) (p core check : Nat) (context : Bool)
  /-- `LANE_FAILURE` (R12). -/
  | laneFailure (e : Env) (core slice lane : Nat)
  /-- `PARTITION_RESET` (R299). -/
  | partitionReset (e : Env) (q : QRef)
  /-- `PARTITION_RESET_END` (R297). -/
  | partitionResetEnd (e : Env) (p : Nat)
  /-- `PARTITION_RESTORE` (R299). -/
  | partitionRestore (e : Env) (q : QRef)
  /-- `RESTORE_END` (R300). -/
  | restoreEnd (e : Env) (p : Nat)
  /-- `FAULT_LOG_READ` (R291). -/
  | faultLogRead (e : Env) (q : QRef)
  /-- `SPARE_ENGAGE` (R304). -/
  | spareEngage (e : Env) (q : QRef)
  /-- `CORE_SWAP` (R301). -/
  | coreSwap (e : Env) (c : CoreErrs)
  /-- `CORE_SWAP_BLOCK_RESTART` (R301). -/
  | coreSwapBlockRestart (e : Env) (pcore : Nat)
  /-- `CORE_SWAP_CUTOVER` (R15). -/
  | coreSwapCutover (e : Env) (pcore : Nat)
  /-- `BANK_SPARE` (R302). -/
  | bankSpare (e : Env) (chan pos : Nat)
  /-- `BANK_SPARE_CUTOVER` (R302). -/
  | bankSpareCutover (e : Env) (chan : Nat)
  /-- `OWNERSHIP_RELEASE` (R308). -/
  | ownershipRelease (e : Env) (q : QRef)
  /-- `OWNERSHIP_CLAIM` (R309). -/
  | ownershipClaim (e : Env) (q : QRef)
  /-- `CLAIM_TIMEOUT` (R309). -/
  | claimTimeout (e : Env) (p : Nat) (k : ObjKind) (c : Nat)
  /-- `OWNERSHIP_RESOLVE` (R312). -/
  | ownershipResolve (e : Env) (q : QRef)
  /-- `OWN_RELEASE` (R310). -/
  | ownRelease (e : Env) (link : Nat) (m : Msg)
  /-- `OWN_CLAIM` (R310). -/
  | ownClaim (e : Env) (link : Nat) (m : Msg)
  /-- `OWN_STATE` (R310). -/
  | ownState (e : Env) (link : Nat) (m : Msg)
  /-- `EPOCH_BOUNDARY` (R314). -/
  | epochBoundary (e : Env) (p : Nat)
  /-- `MIRROR_SEND_TIMER` (R316). -/
  | mirrorSendTimer (e : Env) (p c : Nat)
  /-- `DURABILITY_HOLD` (R317). -/
  | durabilityHold (e : Env) (p c : Nat)
  /-- `MIRROR_WRITE` (R319). -/
  | mirrorWrite (e : Env) (link : Nat) (m : Msg)
  /-- `SNAPSHOT_TAKE` (R322). -/
  | snapshotTake (e : Env) (q : QRef)
  /-- `SNAPSHOT_TAKE_RESTORE` (R323). -/
  | snapshotTakeRestore (e : Env) (q : QRef)
  /-- `SNAP_CHUNK` (R321). -/
  | snapChunk (e : Env) (link : Nat) (m : Msg)
  /-- `RECOVER_READ` (R323). -/
  | recoverRead (e : Env) (link : Nat) (m : Msg)
  /-- `RECOVER_DATA` (R323). -/
  | recoverData (e : Env) (link : Nat) (m : Msg)
  /-- `ACK` (R269). -/
  | ackMsg (e : Env) (link : Nat) (m : Msg)
  /-- `RESEND_TIMEOUT` (R269). -/
  | resendTimeout (e : Env) (seq : Nat)
  /-- `LEVEL_REJECT` (R270). -/
  | levelReject (e : Env) (link : Nat) (m : Msg)
  /-- `PING` (R262). -/
  | ping (e : Env) (link : Nat) (m : Msg)
  /-- `PING_REPLY` (R262). -/
  | pingReply (e : Env) (link : Nat) (m : Msg)
  /-- `LNK_PING` (R262). -/
  | lnkPing (e : Env) (fn : Nat) (dst : W32)
  /-- `PING_TIMEOUT` (R262). -/
  | pingTimeout (e : Env)
  /-- `MESSAGE_FORWARD` (R262). -/
  | messageForward (e : Env) (link : Nat) (m : Msg)
  /-- `FLIT` (R265). -/
  | flit (e : Env) (link : Nat) (f : RxFlit)
  /-- `REPLAY_TIMEOUT` (R265). -/
  | replayTimeout (e : Env) (link : Nat)
  /-- `RETRAIN_TIMEOUT` (R265). -/
  | retrainTimeout (e : Env) (link : Nat)
  /-- `CREDIT_STALL` (R263). -/
  | creditStall (e : Env) (link cls pool : Nat)
  /-- `LANE_FAILED` (R258). -/
  | laneFailed (e : Env) (link lane : Nat)
  /-- `CAPABILITY_RECORD` (R260). -/
  | capabilityRecord (e : Env) (link : Nat) (rec : CapRec)
  /-- `TRAIN_TIMEOUT` (R259). -/
  | trainTimeout (e : Env) (link : Nat)
  /-- `LINK_DOWN_RETRY` (R259). -/
  | linkDownRetry (e : Env) (link : Nat)
  /-- `LNK_NODE_ID` (R261). -/
  | lnkNodeId (e : Env) (fn : Nat) (v : W64)
  /-- `REFILL_INSTANT` (R276). -/
  | refillInstant (e : Env)
  /-- `WHEEL_SLOT_DUE` (R274). -/
  | wheelSlotDue (e : Env) (link cls : Nat) (owner : Nat)
  /-- `POWER_SET` (R328). -/
  | powerSet (e : Env) (q : QRef)
  /-- `PARTITION_POWER` (R329). -/
  | partitionPower (e : Env) (q : QRef)
  /-- `ENTRY_DRAIN_LIMIT` (R330). -/
  | entryDrainLimit (e : Env) (en : EntryRef)
  /-- `ENTRY_COMMIT` (R331). -/
  | entryCommit (e : Env) (en : EntryRef)
  /-- `PARTITION_GATE` (R327). -/
  | partitionGate (e : Env) (p : Nat)
  /-- `WAKE` (R334). -/
  | wake (e : Env) (fn : Nat)
  /-- `BMC_WAKE_MESSAGE` (R334). -/
  | bmcWakeMessage (e : Env)
  /-- `WAKE_HOLD` (R335). -/
  | wakeHold (e : Env)
  /-- `WAKE_FAILURE` (R337). -/
  | wakeFailure (e : Env)
  /-- `PWR_PAD_RELEASE` (R337). -/
  | pwrPadRelease (e : Env) (fn : Nat)
  /-- `AUTO_RELEASE` (R337). -/
  | autoRelease (e : Env)
  /-- `PARTITION_WAKE_DONE` (R330). -/
  | partitionWakeDone (e : Env) (p : Nat)
  /-- `POWER_SAMPLE` (R341). -/
  | powerSample (e : Env) (watts : Nat)
  /-- `JUNCTION_SAMPLE` (R341). -/
  | junctionSample (e : Env) (cmp0 cmp1 iod : Nat)
  /-- `THERMAL_TRIP` (R344). -/
  | thermalTrip (e : Env) (temp : Nat)
  /-- `AVS_ADJUST` (R339). -/
  | avsAdjust (e : Env) (rail temp : Nat)
  /-- `AVS_RESPONSE` (R340). -/
  | avsResponse (e : Env) (rail : Nat) (r : AvsResp)
  /-- `AVS_SETTLE_TIMEOUT` (R340). -/
  | avsSettleTimeout (e : Env) (rail : Nat)
  /-- `LOCK_LOST` (R345). -/
  | lockLost (e : Env)
  /-- `REGISTER_WRITE` (R7). -/
  | registerWrite (e : Env) (fn : Nat) (bar : Bar) (off : Nat) (w : Width) (v : W64)
  /-- `COLLECTIVE_DEFINE` (R127). -/
  | collectiveDefine (e : Env) (q : QRef)
  /-- `HOST_LINK_UP` (R30). -/
  | hostLinkUp (e : LinkUp)
  /-- `LINK_TRAINED` (R265). -/
  | linkTrained (e : Env) (link : Nat)
  /-- `LINK_TRAINING_LOST` (R259). -/
  | linkTrainingLost (e : Env) (link : Nat)
  /-- `LINK_ENABLE` (R259). -/
  | linkEnable (e : Env) (fn link : Nat) (v : Bool)
  /-- `PTN_BUDDY` (R320). -/
  | ptnBuddy (e : Env) (fn p : Nat) (v : W64)
  /-- `VF_DISABLE` (R245). -/
  | vfDisable (e : Env) (num : Nat)
  /-- `ROOT_PLL_RELOCK` (R345). -/
  | rootPllRelock (e : Env)
  /-- `WAKE_COMPLETE` (R337). -/
  | wakeComplete (e : Env)
  /-- `POWER_LOSS` (R358). -/
  | powerLoss (e : Env)
  /-- `ERASE_DONE` (R220). -/
  | eraseDone (e : Env) (slot set : Nat)
deriving DecidableEq, Repr

end Sys2Proof
end

