-- ==== Sys2Proof/Machine/Base.lean ====
section
/-! DEFINITION. Bit fields, little-endian bytes (R5), maps by key, the byte memory of the host, and the `mix` function
(R44). -/

namespace Sys2Proof.Machine

/-! Bit fields. -/

/-- The field of `len` bits whose lowest bit is `lo`. -/
def fld (w : W64) (lo len : Nat) : Nat := (w.toNat >>> lo) % 2 ^ len
/-- One bit. -/
def bit (w : W64) (i : Nat) : Bool := w.getLsbD i
/-- Ones in the `len` bits from `lo`. -/
def fmask (lo len : Nat) : W64 := BitVec.ofNat 64 ((2 ^ len - 1) * 2 ^ lo)
/-- `w` with the field replaced. -/
def put (w : W64) (lo len v : Nat) : W64 :=
  (w &&& ~~~(fmask lo len)) ||| (BitVec.ofNat 64 ((v % 2 ^ len) * 2 ^ lo))
/-- A register made from (lowest bit, length, value) fields, the rest zero. -/
def word (fs : List (Nat × Nat × Nat)) : W64 := fs.foldl (fun w f => put w f.1 f.2.1 f.2.2) 0
/-- 0 or 1. -/
def b2n (b : Bool) : Nat := if b then 1 else 0
/-- Numbers of the bits set among the `n` lowest. -/
def bitsOf (w : W64) (n : Nat) : List Nat := (List.range n).filter (fun i => w.getLsbD i)
/-- A count in 256ths of a whole (R368): rounded down, saturating at 255. Of a whole of 0 (no Sapling pool, no hot row) it is 0 (DESIGN CHOICE, log 135: the spec is silent). -/
def in256 (part whole : Nat) : Nat := if whole = 0 then 0 else min 255 (256 * part / whole)
/-- Saturation of a counter field of `len` bits. -/
def sat (len v : Nat) : Nat := min v (2 ^ len - 1)
/-- Ceiling of a quotient. -/
def cdiv (a b : Nat) : Nat := (a + b - 1) / b

/-! Bytes, little-endian (R5). -/

def leNat : List Byte → Nat
  | [] => 0
  | b :: bs => b.toNat + 256 * leNat bs

/-- The `n` bytes of a value, lowest first. -/
def toLe : Nat → Nat → List Byte
  | 0, _ => []
  | n + 1, v => BitVec.ofNat 8 v :: toLe n (v / 256)

/-- The field of `len` bytes at offset `off`. -/
def leAt (bs : List Byte) (off len : Nat) : Nat := leNat ((bs.drop off).take len)
/-- Bytes `off` to `off + len - 1`. -/
def slice (bs : List Byte) (off len : Nat) : List Byte := (bs.drop off).take len
/-- True when every byte from `off` on, for `len` bytes, is zero. -/
def zeroAt (bs : List Byte) (off len : Nat) : Bool := leAt bs off len == 0
/-- `bs` with the bytes from `off` on replaced, extended with zeros as needed. -/
def patch (bs : List Byte) (off : Nat) (new : List Byte) : List Byte :=
  (bs ++ List.replicate (off - bs.length) 0).take off ++ new ++ bs.drop (off + new.length)
/-- Cut into 32-bit little-endian words. -/
def words32 (bs : List Byte) (n : Nat) : List W32 :=
  (List.range n).map (fun j => BitVec.ofNat 32 (leAt bs (4 * j) 4))
def bytesOf32 (ws : List W32) : List Byte := (ws.map (fun w => toLe 4 w.toNat)).flatten

/-! Maps: lists of (key, value) pairs with rising keys. -/

def mget {α : Type} (m : List (Nat × α)) (k : Nat) : Option α := (m.find? (fun x => x.1 == k)).map (·.2)
def mset {α : Type} : List (Nat × α) → Nat → α → List (Nat × α)
  | [], k, v => [(k, v)]
  | (a, x) :: m, k, v => if k < a then (k, v) :: (a, x) :: m else if k = a then (k, v) :: m else (a, x) :: mset m k v
def mdel {α : Type} (m : List (Nat × α)) (k : Nat) : List (Nat × α) := m.filter (fun x => x.1 != k)
def mmod {α : Type} (m : List (Nat × α)) (k : Nat) (f : α → α) : List (Nat × α) :=
  m.map (fun x => if x.1 = k then (x.1, f x.2) else x)
def mhas {α : Type} (m : List (Nat × α)) (k : Nat) : Bool := m.any (fun x => x.1 == k)
/-- The lowest key from `lo` on that is free, searching `n` keys. -/
def firstFree {α : Type} (m : List (Nat × α)) : Nat → Nat → Option Nat
  | _, 0 => none
  | lo, n + 1 => if mhas m lo then firstFree m (lo + 1) n else some lo
/-- Elements of a list with the first that satisfies `p` changed by `f`. -/
def modFirst {α : Type} (p : α → Bool) (f : α → α) : List α → List α
  | [] => []
  | x :: xs => if p x then f x :: xs else x :: modFirst p f xs
/-- Every element that satisfies `p` changed by `f`. -/
def modAll {α : Type} (p : α → Bool) (f : α → α) (l : List α) : List α := l.map (fun x => if p x then f x else x)

/-! Fixed arrays. -/

def vget {α : Type} [Inhabited α] {n : Nat} (v : Vector α n) (i : Nat) : α := v[i]?.getD default
def vmod {α : Type} {n : Nat} (v : Vector α n) (i : Nat) (f : α → α) : Vector α n :=
  if h : i < n then v.set i (f v[i]) else v

/-! Byte memory: (address, byte) pairs, addresses strictly rising, no zero byte listed; an unlisted byte reads as zero
(log 4). -/

abbrev Mem := List Host.Cell

def Mem.read (m : Mem) (a : Nat) : Byte := (mget m a).getD 0
def Mem.write (m : Mem) (a : Nat) (b : Byte) : Mem := if b = 0 then mdel m a else mset m a b
def Mem.readN (m : Mem) (a n : Nat) : List Byte := (List.range n).map (fun i => Mem.read m (a + i))
def Mem.writeN : Mem → Nat → List Byte → Mem
  | m, _, [] => m
  | m, a, b :: bs => Mem.writeN (Mem.write m a b) (a + 1) bs
def risingFrom : Nat → List Host.Cell → Bool
  | _, [] => true
  | k, c :: cs => decide (k ≤ c.1) && risingFrom (c.1 + 1) cs
/-- The canonical form. -/
def Mem.wf (m : Mem) : Bool := risingFrom 0 m && m.all (fun c => c.2 != 0)

/-! The function `mix` of R44, modulo 2^64. -/
def mix (x : W64) : W64 :=
  let z := x + 0x9E3779B97F4A7C15
  let z := (z ^^^ (z >>> 30)) * 0xBF58476D1CE4E5B9
  let z := (z ^^^ (z >>> 27)) * 0x94D049BB133111EB
  z ^^^ (z >>> 31)

/-! Sorting: insertion before the first element that `before` does not put ahead. -/
def insertBy {α : Type} (before : α → α → Bool) (x : α) : List α → List α
  | [] => [x]
  | y :: ys => if before x y then x :: y :: ys else y :: insertBy before x ys
def sortBy {α : Type} (before : α → α → Bool) (l : List α) : List α := l.foldr (insertBy before) []
/-- First occurrences only. -/
def nubNat (l : List Nat) : List Nat := l.foldl (fun acc x => if acc.contains x then acc else acc ++ [x]) []

/-! UTF-8 (R42, R158): one scalar value per match, no overlong form, no surrogate. -/
def isCont (b : Byte) : Bool := b.toNat / 64 == 2
def utf8Aux : Nat → List Byte → Bool
  | _, [] => true
  | 0, _ => false
  | n + 1, b :: bs =>
    let x := b.toNat
    if x < 0x80 then utf8Aux n bs
    else match bs with
      | c1 :: r1 =>
        if 0xC2 ≤ x ∧ x ≤ 0xDF then isCont c1 && utf8Aux n r1
        else match r1 with
          | c2 :: r2 =>
            if 0xE0 ≤ x ∧ x ≤ 0xEF then
              isCont c1 && isCont c2 && (x != 0xE0 || decide (0xA0 ≤ c1.toNat)) && (x != 0xED || decide (c1.toNat ≤ 0x9F))
                && utf8Aux n r2
            else match r2 with
              | c3 :: r3 =>
                decide (0xF0 ≤ x ∧ x ≤ 0xF4) && isCont c1 && isCont c2 && isCont c3
                  && (x != 0xF0 || decide (0x90 ≤ c1.toNat)) && (x != 0xF4 || decide (c1.toNat ≤ 0x8F)) && utf8Aux n r3
              | [] => false
          | [] => false
      | [] => false
/-- A name field: not empty, valid UTF-8, nothing after its first zero byte (R42, R158). -/
def nameOk (bs : List Byte) : Bool :=
  let t := bs.takeWhile (· != 0)
  !t.isEmpty && utf8Aux t.length t && (bs.drop t.length).all (· == 0)

/-! CRC-32C (Table 12-3, Table 10-4). -/
def crcBit (c : W32) : W32 := if c.getLsbD 0 then (c >>> 1) ^^^ 0x82F63B78 else c >>> 1
def crcByte (c : W32) (b : Byte) : W32 :=
  let c := c ^^^ b.setWidth 32
  crcBit (crcBit (crcBit (crcBit (crcBit (crcBit (crcBit (crcBit c)))))))
def crc32c (bs : List Byte) : W32 := ~~~(bs.foldl crcByte 0xFFFFFFFF)

end Sys2Proof.Machine
end

