-- ==== Sys2Proof/Config.lean ====
section
/-! DEFINITION. What the spec leaves free. Each constant below has no body: nothing can evaluate it, so a claim that
holds in this model holds whatever value the hardware takes. The assumption log names each. -/

namespace Sys2Proof.Config

/-- FREE VALUE (log 12): the 256-bit nonce that phase 0 of `SESSION_OPEN` writes (R251 says "fresh", no more). The argument
is the free-value counter of the state. -/
opaque nonce : Nat → BitVec 256

/-- FREE VALUE (log 13): which of the values within 2 ulp EXP gives (R149). -/
opaque expChoice : W32 → Fin 5

/-- FREE VALUE (log 13): which of the values within its bound GELU gives (R149). -/
opaque geluChoice : W32 → Fin 8

/-- FREE VALUE (log 13): how RSQRT and RECIP round: 0 down, 1 to nearest, 2 up; each stays within 1 ulp (R149). -/
opaque ulpChoice : W32 → Fin 3

/-- FREE VALUE (log 5): whether an RSA-3072 signature block with its certificate chain verifies over a message against the Beysar root (R24). The root keys are not in the spec. -/
opaque rsaVerifies : List Byte → List Byte → Bool

/-- FREE VALUE (log 5): whether an SLH-DSA-SHA2-256s signature block with its certificate chain verifies over a message against the Beysar root (R24). -/
opaque slhVerifies : List Byte → List Byte → Bool

/-- FREE VALUE (log 14): the RSA-3072 signature that the security engine makes over a message (R40). No private key is in
the spec. -/
opaque rsaSign : List Byte → List Byte

/-- FREE VALUE (log 14): the SLH-DSA-SHA2-256s signature that the security engine makes over a message (R40). -/
opaque slhSign : List Byte → List Byte

/-- FREE VALUE (log 15): sectors, from 1 to 16, that a page takes when it is compressed (R185); 16 and above means the page
does not fit and is kept plain. -/
opaque sectorsOf : List Byte → Nat

/-- FREE VALUE (log 16): the body of an SPDM answer whose layout the spec leaves to SPDM 1.2 (R40). -/
opaque spdmBody : Nat → List Byte → List Byte

/-- FREE VALUE (log 17): what a word with four or more bit errors reads as where it is corrected wrongly or missed (R187). The argument is the free-value counter. -/
opaque miscorrect : Nat → W64

/-- FREE VALUE (log 18): the calibrated setpoint in mV of a rail at a junction temperature (R339: from the die calibration). -/
opaque setpoint : Nat → Nat → Nat

/-- FREE VALUE (log 19): the bytes of the device serial number, the identity certificate chain and the boot ROM version,
which the spec names and does not give (R40, Table 2-14). -/
opaque identityBytes : Nat → List Byte

/-- FREE VALUE (log 28): the `SEQ` that `SHARD_EXPORT` writes for an entry of a body; a body holds no sequence (R45, R254). -/
opaque bodySeq : W64 → Nat

/-- FREE VALUE (log 29): the key direction that a member without the collection uses to merge its children's partials: the
`COLL_ID` says nothing of the metric (R370, R116). True: larger is better. -/
opaque mergeDir : W64 → Bool

/-- FREE VALUE (log 29): `GEN_MIN` of a partial that no member with a selection has entered (R130 step 8). -/
opaque noGen : W64 → W64

/-- FREE VALUE (log 30): the `INSTANCE` that a hedged copy puts into its partial; it was told no sequence number (R135). -/
opaque hedgeInst : W64 → W64

/-- FREE VALUE (log 32): element `j` of the output of model `m` on an empty sequence, which the program of chapter 07 does not
define. -/
opaque emptyOut : Nat → Nat → W32

/-- FREE VALUE (log 40): what a read of a sector will meet (R221), fixed when the sector is programmed: 0 decodes, 1 decodes with more than three quarters of the
correction limit, 2 to 8 after 1 to 7 retries, 9 or more lost. The argument is the free-value counter. -/
opaque sectorEcc : Nat → Nat

/-- FREE VALUE (log 19): the first 16 bytes of the SHA-384 of this node's RSA identity public key (Table 10-4). -/
opaque nodeFp : Nat

/-- FREE VALUE (log 17): which of the three happens to a word with four or more bit errors (R187): 0 reported as uncorrectable, 1 corrected wrongly, 2 missed. -/
opaque missKind : Nat → Fin 3

/-- FREE VALUE (log 20): the twelve parity bytes of a flit (Table 12-3): the spec names RS(256,244) and gives neither its field polynomial nor its generator. -/
opaque flitParity : List Byte → BitVec 96

/-- FREE VALUE (log 50): the issue cap that brings the power estimate to 760 W, from the sample in W and the cap in force; the spec names the value and not the
estimator's law (R341, R342). It is taken within 1 to 16. -/
opaque capFor : Nat → Nat → Nat

/-- FREE VALUE (log 16): the bytes of the repair map, whose layout the spec does not give, from its entries as numbers (Table 2-14). -/
opaque repairBytes : List (List Nat) → List Byte

/-- FREE VALUE (log 159): the logical block at which a block of one of the node's own flash objects lies on its cartridge: the spec gives no place for them (R212, R213). Object, then block. -/
opaque nodeLBlock : Nat → Nat → Nat

end Sys2Proof.Config
end

