-- ==== Sys2Proof/Machine/Arith.lean ====
section
/-! DEFINITION. The lane row's arithmetic: formats, quantisation, the dequantiser's keys, exact sums (chapter 05), the
order of candidates (R117) and the table functions (R149). A finite FP32 value is an integer multiple of 2^-149, so every
exact quantity here is an integer or a quotient of integers in that unit, rounded once where the spec rounds. -/

namespace Sys2Proof.Machine

/-- Square root rounded down, bit by bit from bit `k`. -/
def isqrtAux (n : Nat) : Nat → Nat → Nat
  | 0, acc => if (acc + 1) * (acc + 1) ≤ n then acc + 1 else acc
  | k + 1, acc =>
    let c := acc + 2 ^ (k + 1)
    isqrtAux n k (if c * c ≤ n then c else acc)
def isqrt (n : Nat) : Nat := if n = 0 then 0 else isqrtAux n (n.log2 / 2) 0

/-- Quotient rounded to the nearest integer, ties to even. -/
def rneDiv (n d : Nat) : Nat :=
  let q := n / d
  let r := n % d
  if 2 * r > d ∨ (2 * r = d ∧ q % 2 = 1) then q + 1 else q

def signBit (neg : Bool) : W32 := if neg then 0x80000000 else 0
def qnan : W32 := 0x7FC00000
def f32inf (neg : Bool) : W32 := signBit neg ||| 0x7F800000

/-- Magnitude bits for `r` units of `2^k` (in units of 2^-149), saturating to infinity. -/
def packMag (k r : Nat) : W32 :=
  let b := k * 2 ^ 23 + r
  if 0x7F800000 ≤ b then 0x7F800000 else BitVec.ofNat 32 b

/-- fp32_rne: `n / d` in units of 2^-149, rounded once to nearest, ties to even (R101, R110). -/
def rneMag (n d : Nat) : W32 :=
  let k := (n / d).log2 - 23
  packMag k (rneDiv n (d * 2 ^ k))
def rneInt (v : Int) (d : Nat) : W32 :=
  if v = 0 then 0 else signBit (decide (v < 0)) ||| rneMag v.natAbs d

def isNaN32 (w : W32) : Bool := (w &&& 0x7FFFFFFF).toNat > 0x7F800000
def isInf32 (w : W32) : Bool := (w &&& 0x7FFFFFFF) == 0x7F800000
def finite32 (w : W32) : Bool := (w &&& 0x7FFFFFFF).toNat < 0x7F800000
def neg32 (w : W32) : Bool := w.getLsbD 31
def zero32 (w : W32) : Bool := (w &&& 0x7FFFFFFF) == 0
/-- Magnitude of a finite value in units of 2^-149. -/
def mag32 (w : W32) : Nat :=
  let b := w.toNat % 2 ^ 31
  let e := b / 2 ^ 23
  if e = 0 then b % 2 ^ 23 else (b % 2 ^ 23 + 2 ^ 23) * 2 ^ (e - 1)
def int32 (w : W32) : Int := if neg32 w then -(mag32 w : Int) else mag32 w
/-- A BF16 value widened exactly to FP32 (R98). -/
def widen (h : W16) : W32 := h.setWidth 32 <<< 16

/-- Fused multiply-add under R98: one rounding, subnormals kept, the quiet NaN for an invalid operation. -/
def fma32 (a b c : W32) : W32 :=
  if isNaN32 a || isNaN32 b || isNaN32 c then qnan
  else
    let pn := neg32 a != neg32 b
    if isInf32 a || isInf32 b then
      if zero32 a || zero32 b then qnan
      else if isInf32 c && neg32 c != pn then qnan
      else f32inf pn
    else if isInf32 c then c
    else
      let v := int32 a * int32 b + int32 c * 2 ^ 149
      if v = 0 then signBit (pn && neg32 c && zero32 c) else rneInt v (2 ^ 149)
def add32 (a b : W32) : W32 := fma32 a 0x3F800000 b
/-- A product: the exact zero keeps the sign of the product. -/
def mul32 (a b : W32) : W32 := fma32 a b (signBit (neg32 a != neg32 b))
def sub32 (a b : W32) : W32 := add32 a (b ^^^ 0x80000000)
/-- An FP32 value over a positive whole number, as IEEE 754 gives it (R98). -/
def div32ofNat (a : W32) (n : Nat) : W32 :=
  if isNaN32 a ∨ n = 0 then qnan else if isInf32 a ∨ zero32 a then a else rneInt (int32 a) n

/-- A quotient within one unit of the exact one (R149): below, to nearest, or above; all three where it is exact as well. -/
def divMode (mode : Fin 3) (n d : Nat) : Nat :=
  match mode with
  | 0 => if n % d = 0 then n / d - 1 else n / d
  | 1 => rneDiv n d
  | 2 => n / d + 1
/-- RECIP (Table 7-4). -/
def recip32 (x : W32) : W32 :=
  if isNaN32 x then qnan
  else if zero32 x then f32inf (neg32 x)
  else if isInf32 x then signBit (neg32 x)
  else
    let n := 2 ^ 298
    let d := mag32 x
    let k := (n / d).log2 - 23
    signBit (neg32 x) ||| packMag k (divMode (Config.ulpChoice x) n (d * 2 ^ k))
/-- `n / sqrt t` rounded, `n` in units of 2^-149: by squares, exactly (R43). -/
def divSqrt (n t : Nat) : W32 :=
  let n2 := n * n
  let k := (isqrt (n2 / t)).log2 - 23
  let d := t * 4 ^ k
  let r := isqrt (n2 / d)
  let h := (2 * r + 1) * (2 * r + 1) * d
  packMag k (if 4 * n2 > h ∨ (4 * n2 = h ∧ r % 2 = 1) then r + 1 else r)
/-- RSQRT (Table 7-4): within 1 ulp, the neighbour chosen freely. -/
def rsqrt32 (x : W32) : W32 :=
  if isNaN32 x then qnan
  else if zero32 x then f32inf (neg32 x)
  else if neg32 x then qnan
  else if isInf32 x then 0
  else
    -- x = m · 2^-149, so 1/√x in units of 2^-149 is √(2^447 / m)
    let n2 := 2 ^ 447
    let m := mag32 x
    let k := (isqrt (n2 / m)).log2 - 23
    let d := m * 4 ^ k
    let r := isqrt (n2 / d)
    let exact := decide (r * r * d = n2)
    let h := (2 * r + 1) * (2 * r + 1) * d
    packMag k (match Config.ulpChoice x with
      | 0 => if exact then r - 1 else r
      | 1 => if 4 * n2 > h then r + 1 else r
      | 2 => r + 1)
/-- FP32 magnitude bits of `n / d` units of 2^-149, rounded down. -/
def floorMag (n d : Nat) : Nat :=
  let k := (n / d).log2 - 23
  k * 2 ^ 23 + n / (d * 2 ^ k)
/-- Magnitude bits as a value without a sign, saturating to infinity. -/
def satMag (b : Nat) : W32 := BitVec.ofNat 32 (min b 0x7F800000)
/-- ln 2 in units of 2^-256. -/
def ln2Fix : Nat := 80260960185991308862233904206310070533990667611589946606122867505419956976171
/-- 1/√(2π) in units of 2^-512. -/
def invSqrt2Pi : Nat :=
  5348941470755712198646750007682177443835115376392592444138995792460249438482006689649181438381986101946420819632906916886095183257957789698649401813142783
/-- Terms of the series of eʳ from term `t` on, `r` and the sum in units of 2^-256. -/
def expSeries (r : Nat) : Nat → Nat → Nat → Nat
  | 0, _, _ => 0
  | j + 1, k, t => t + expSeries r j (k + 1) (t * r / 2 ^ 256 / (k + 1))
/-- eˣ rounded down to FP32, `x` finite and within the range of Table 7-4: x = n·ln 2 + r, eˣ = 2ⁿ·eʳ. -/
def expFloor (x : W32) : Nat :=
  let v := int32 x * 2 ^ 107
  let n := v / (ln2Fix : Int)
  let s := expSeries (v % (ln2Fix : Int)).toNat 60 0 (2 ^ 256)
  floorMag (s * 2 ^ (n + 160).toNat) (2 ^ 267)
/-- EXP (Table 7-4): its special cases, else a free choice of the values within 2 ulp. -/
def exp32 (x : W32) : W32 :=
  if isNaN32 x then qnan
  else if int32 x * 100 < -10328 * 2 ^ 149 ∨ (isInf32 x ∧ neg32 x) then 0
  else if isInf32 x ∨ int32 x * 100 > 8872 * 2 ^ 149 then f32inf false
  else
    let c := (Config.expChoice x).val
    satMag (if zero32 x then 0x3F800000 + c - 2 else expFloor x + min c 3 - 1)
/-- Σ (-1)^k a^(2k+1) / (2^k k! (2k+1)) from term `u` on, in units of 2^-512; `a2` is a². -/
def phiSeries (a2 : Nat) : Nat → Nat → Nat → Int
  | 0, _, _ => 0
  | j + 1, k, u =>
    let v : Int := (u / (2 * k + 1) : Nat)
    (if k % 2 = 0 then v else -v) + phiSeries a2 j (k + 1) (u * a2 / 2 ^ 512 / (2 * (k + 1)))
/-- |x·Φ(x)| rounded down to FP32: Φ(x) = 1/2 ± the series / √(2π). From 16 on Φ differs from 0 and 1 by less than any FP32 value shows. -/
def geluFloor (x : W32) : Nat :=
  let m := mag32 x
  if 16 * 2 ^ 149 ≤ m then (if neg32 x then 0 else (x &&& 0x7FFFFFFF).toNat - 1)
  else
    let a := m * 2 ^ 363
    let ph := (phiSeries (a * a / 2 ^ 512) 640 0 a).toNat * invSqrt2Pi / 2 ^ 512
    floorMag (m * (if neg32 x then 2 ^ 511 - ph else 2 ^ 511 + ph)) (2 ^ 512)
/-- GELU (Table 7-4): its special cases, else a free choice of the values within 4 ulp, or within 2^-149 of a result below 2^-126. -/
def gelu32 (x : W32) : W32 :=
  if isNaN32 x then qnan
  else if isInf32 x then (if neg32 x then 0x80000000 else x)
  else
    let b := geluFloor x
    let c := (Config.geluChoice x).val
    (x &&& 0x80000000) ||| satMag (if b < 2 ^ 23 then b + c % 2 else b + c - 3)

/-! Unit vectors under COSINE (R43): the exact quotient x_j / ‖x‖, rounded once. `none` for the zero vector. -/
def normalise (xs : List W32) : Option (List W32) :=
  let t := xs.foldl (fun a x => a + mag32 x * mag32 x) 0
  if t = 0 then none
  else some (xs.map (fun x => if zero32 x then x else signBit (neg32 x) ||| divSqrt (mag32 x * 2 ^ 149) t))

/-! Quantisation (R101). -/

/-- Scale formats of Table 5-6. -/
inductive ScaleFmt where
  | fp32 | bf16
deriving DecidableEq, Repr

/-- A code row: its scale as FP32 bits (a BF16 scale widened), its codes, how many clipped, and whether it is degenerate. -/
structure CodeRow where
  scale   : W32 := 0
  codes   : List Int := []
  clipped : Nat := 0
  degen   : Bool := false
deriving DecidableEq, Repr

/-- Smallest BF16 at or above `n / d`, `n / d` in units of 2^-149, as FP32 bits. -/
def bf16Up (n d : Nat) : W32 :=
  let d := d * 2 ^ 16
  let k := (n / d).log2 - 7
  let r := cdiv n (d * 2 ^ k)
  let b := k * 2 ^ 7 + r
  (if 0x7F80 ≤ b then 0x7F80 else BitVec.ofNat 32 b) <<< 16

/-- An FP32 value rounded to an integer, half to even. -/
def roundHalfEven (t : W32) : Int :=
  let m := rneDiv (mag32 t) (2 ^ 149)
  if neg32 t then -(m : Int) else m

def quantise (xs : List W32) (qmax : Nat) (rho : W16) (f : ScaleFmt) : CodeRow :=
  let zeros := List.replicate xs.length (0 : Int)
  if xs.any (fun x => !finite32 x) then { codes := zeros, degen := true }
  else
    let a := xs.foldl (fun a x => max a (mag32 x)) 0
    if a = 0 then { codes := zeros }
    else
      let m := mag32 (rneMag (mag32 (widen rho) * a) (2 ^ 149))
      let s := match f with
        | .fp32 => rneMag m qmax
        | .bf16 => bf16Up m qmax
      if mag32 s < 2 ^ 23 then { codes := zeros, degen := true }
      else
        let r := rneMag (2 ^ 298) (mag32 s)
        let ts := xs.map (fun x => roundHalfEven (rneInt (int32 x * int32 r) (2 ^ 149)))
        { scale := s
          codes := ts.map (fun (c : Int) => if c > (qmax : Int) then (qmax : Int) else if c < -(qmax : Int) then -(qmax : Int) else c)
          clipped := (ts.filter (fun (c : Int) => decide (c > (qmax : Int) ∨ c < -(qmax : Int)))).length }

/-- The BF16 scale of a row made by `quantise` with `.bf16`. -/
def CodeRow.scale16 (r : CodeRow) : W16 := (r.scale >>> 16).setWidth 16

/-- The clip test (R105): true when it fails. -/
def clipFails (clipped thr n : Nat) : Bool := decide (clipped * 65536 > thr * n)

/-! Exact sums of products (R96). -/
def dotInt (a b : List Int) : Int := (List.zipWith (· * ·) a b).foldl (· + ·) 0

/-- The sketch of an N8 row (R44): bit i is set when Σ σ(i, j) c_j is positive. -/
def sigmaNeg (seed : W64) (i j : Nat) : Bool := (mix (seed ^^^ BitVec.ofNat 64 (4096 * i + j))).getLsbD 63
/-- The value of an N2 code (Table 5-3): the reserved one counts as 0. -/
def n2Val (c : Nat) : Int := match c % 4 with
  | 1 => 1
  | 3 => -1
  | _ => 0
/-- Four N2 codes to a byte, the first in the lowest bits (Table 5-2). -/
def packN2 : List Nat → List Byte
  | [] => []
  | a :: b :: c :: d :: r => BitVec.ofNat 8 (a % 4 + 4 * (b % 4) + 16 * (c % 4) + 64 * (d % 4)) :: packN2 r
  | l => [BitVec.ofNat 8 (l.foldr (fun a s => a % 4 + 4 * s) 0)]
/-- The N2 codes of bytes. -/
def unpackN2 (bs : List Byte) : List Nat := (bs.map (fun b => [b.toNat % 4, b.toNat / 4 % 4, b.toNat / 16 % 4, b.toNat / 64])).flatten
/-- A sign of the projection as an N2 code. -/
def sigmaCode (seed : W64) (i j : Nat) : Nat := if sigmaNeg seed i j then 3 else 1
/-- The ternary operation on projection row i: N2 codes against N8 codes. -/
def sketchSum (seed : W64) (i : Nat) : Nat → List Int → Int
  | _, [] => 0
  | j, c :: cs => n2Val (sigmaCode seed i j) * c + sketchSum seed i (j + 1) cs
def sketchOf (seed : W64) (bits : Nat) (codes : List Int) : Nat :=
  (List.range bits).foldl (fun a i => if sketchSum seed i 0 codes > 0 then a + 2 ^ i else a) 0
/-- Number of ones in the `bits` lowest bits. -/
def popcount (n : Nat) : Nat → Nat
  | 0 => 0
  | b + 1 => (if n.testBit b then 1 else 0) + popcount n b
/-- Number of ones in the `k` lowest bits of a word. -/
def ones (k : Nat) (w : W64) : Nat := popcount w.toNat k
/-- Sketch width in bits, Table 3-2. -/
def skBits (skw : Nat) : Nat := 128 * 2 ^ skw
def hamming (bits a b : Nat) : Nat := popcount (a ^^^ b) bits

/-! The dequantiser (R110, R111). -/

/-- Metrics, Table 3-3. -/
inductive Metric where
  | ip | l2sq | cosine | hamming
deriving DecidableEq, Repr
def metricOf (v : Nat) : Metric := match v with
  | 0 => .ip
  | 1 => .l2sq
  | 2 => .cosine
  | _ => .hamming
/-- Key direction: larger is better (Table 3-3). -/
def Metric.larger : Metric → Bool
  | .ip => true
  | .cosine => true
  | .l2sq => false
  | .hamming => false

/-- A stored scale that makes its row's key NaN (R111): negative, NaN, infinite or subnormal. A zero of either sign is good. -/
def badScale (s : W16) : Bool :=
  let w := widen s
  !zero32 w && (neg32 w || !finite32 w || decide (mag32 w < 2 ^ 23))

/-- The rounding of a key (R110): a value beyond the largest finite FP32, however little, is the infinity of its sign. -/
def rneKey (v : Int) (d : Nat) : W32 := if mag32 0x7F7FFFFF * d < v.natAbs then f32inf (decide (v < 0)) else rneInt v d
/-- The key of a stored row against a query row (Table 5-10), rounded once. -/
def dequant (m : Metric) (sq : W32) (cq : List Int) (sv : W16) (cv : List Int) : W32 :=
  if badScale sv then qnan
  else
    let a := int32 sq
    let b := int32 (widen sv)
    let s := dotInt cq cv
    match m with
    | .l2sq => rneKey (a * a * dotInt cq cq + b * b * dotInt cv cv - 2 * a * b * s) (2 ^ 149)
    | _ => rneKey (a * b * s) (2 ^ 149)
/-- A Hamming distance as an FP32 key: exact (Table 5-10). -/
def hamKey (h : Nat) : W32 := rneMag (h * 2 ^ 149) 1

/-! Orientations (R100, Table 5-5). -/

/-- Position of element (i, j) of a stored matrix: ROW, COL or TILE128. -/
def matPos (orient rows cols i j : Nat) : Nat := match orient with
  | 0 => i * cols + j
  | 1 => j * rows + i
  | _ => (i / 128 * ((cols + 127) / 128) + j / 128) * 16384 + i % 128 * 128 + j % 128
/-- Elements that a stored matrix takes, padding included. -/
def matLen (orient rows cols : Nat) : Nat := if orient ≤ 1 then rows * cols else (rows + 127) / 128 * ((cols + 127) / 128) * 16384
/-- The element at a position; none where edge tiles are padded. -/
def matElem (orient rows cols k : Nat) : Option (Nat × Nat) :=
  let e : Nat × Nat := match orient with
    | 0 => (k / cols, k % cols)
    | 1 => (k % rows, k / rows)
    | _ =>
      let t := k / 16384
      let w := (cols + 127) / 128
      (t / w * 128 + k % 16384 / 128, t % w * 128 + k % 128)
  if e.1 < rows ∧ e.2 < cols then some e else none
/-- What the transfer engine makes of a stored matrix: lane rows. -/
def laneRows {α : Type} (zero : α) (orient rows cols : Nat) (xs : List α) : List (List α) :=
  (List.range rows).map (fun i => (List.range cols).map (fun j => xs.getD (matPos orient rows cols i j) zero))
/-- The other direction: lane rows as they are stored, edge tiles padded with zeros. -/
def storeRows {α : Type} (zero : α) (orient rows cols : Nat) (m : List (List α)) : List α :=
  (List.range (matLen orient rows cols)).map (fun k => match matElem orient rows cols k with
    | some e => (m.getD e.1 []).getD e.2 zero
    | none => zero)

/-! Exact accumulators (R113, R114). -/

structure Acc where
  val    : Int := 0
  posInf : Bool := false
  negInf : Bool := false
deriving DecidableEq, Repr
def Acc.add (a : Acc) (k : W32) : Acc :=
  if isNaN32 k then a
  else if isInf32 k then (if neg32 k then { a with negInf := true } else { a with posInf := true })
  else { a with val := a.val + int32 k }
def Acc.merge (a b : Acc) : Acc :=
  { val := a.val + b.val, posInf := a.posInf || b.posInf, negInf := a.negInf || b.negInf }
/-- An exact value in units of 2^-149 rounded once to FP64, ties to even (R113). -/
def toF64 (v : Int) : W64 :=
  if v = 0 then 0
  else
    let m := v.natAbs
    let l := m.log2
    let r := if l ≤ 52 then m * 2 ^ (52 - l) else rneDiv m (2 ^ (l - 52))
    BitVec.ofNat 64 ((if v < 0 then 2 ^ 63 else 0) + (l + 873) * 2 ^ 52 + r)
/-- The sum as the result header gives it (R113): FP64 bits and whether the sum is invalid. -/
def Acc.final (a : Acc) : W64 × Bool :=
  if a.posInf && a.negInf then (0x7FF8000000000000, true)
  else if a.posInf then (0x7FF0000000000000, false)
  else if a.negInf then (0xFFF0000000000000, false)
  else (toF64 a.val, false)
/-- The 48-byte image (Table 5-12). -/
def Acc.image (a : Acc) : List Byte :=
  toLe 40 ((a.val % 2 ^ 320).toNat) ++ toLe 8 (b2n a.posInf + 2 * b2n a.negInf)
def accOfImage (bs : List Byte) : Acc :=
  let v := leAt bs 0 40
  { val := if v < 2 ^ 319 then (v : Int) else (v : Int) - 2 ^ 320
    posInf := (leAt bs 40 1) % 2 == 1, negInf := (leAt bs 40 1) / 2 % 2 == 1 }
/-- The exact sum rounded once to FP32 (R163, R171). -/
def Acc.to32 (a : Acc) : W32 :=
  if a.posInf && a.negInf then qnan
  else if a.posInf then f32inf false
  else if a.negInf then f32inf true
  else rneInt a.val 1

/-! The order of candidates (R117). -/

/-- A key as an integer that orders as IEEE 754 does, -0 equal to +0. NaN is not asked. -/
def ordKey (k : W32) : Int :=
  if isInf32 k then (if neg32 k then -(2 ^ 400) else 2 ^ 400) else int32 k
/-- `better` of R117 over (key, input order). -/
def better (larger : Bool) (k1 : W32) (o1 : Nat) (k2 : W32) (o2 : Nat) : Bool :=
  if isNaN32 k1 && isNaN32 k2 then decide (o1 < o2)
  else if isNaN32 k1 then false
  else if isNaN32 k2 then true
  else if ordKey k1 = ordKey k2 then decide (o1 < o2)
  else if larger then decide (ordKey k1 > ordKey k2)
  else decide (ordKey k1 < ordKey k2)

/-- Pairwise sum in order (R145): the two halves' sums are added. -/
def pairSum : Nat → List W32 → W32
  | 0, l => l.foldl add32 0
  | _ + 1, [] => 0
  | _ + 1, [x] => x
  | n + 1, l => add32 (pairSum n (l.take ((l.length + 1) / 2))) (pairSum n (l.drop ((l.length + 1) / 2)))
def sum32 (l : List W32) : W32 := pairSum l.length.log2.succ l

end Sys2Proof.Machine
end

