-- ==== Sys2Proof/Machine/State.lean ====
section
/-! DEFINITION. The state of the node. Registers that host software reads and writes whole stay 64-bit words with field
accessors (Ops.lean); what lives only inside the machine is an inductive type, a number or a list. Times are CTL cycles
on the counter of their owner (R4). -/

namespace Sys2Proof.Machine

/-! ### Stops -/

/-- Why the block stops with a fault. No command of this block does: every path of every meaning is a next state. -/
inductive Fault where
  /-- Raised by nothing: kept so that the type has a name to state absence with. Safe. -/
  | none_
deriving DecidableEq, Repr

/-- Why a command has no meaning. -/
inductive Refusal where
  /-- An arm of `exec` not modelled yet. Safe. -/
  | notModelled (mnemonic : String)
deriving DecidableEq, Repr

/-! ### Outputs of one step -/

/-- What the node drives outward in one step, in order (R233): data and completion entries written to host memory, MSI-X
messages, messages put on a link, AVSBus requests, SPDM answers, capability records, and errors reported through Advanced Error Reporting. -/
inductive Out where
  | data (addr : Nat) (bytes : List Byte)
  | cqe (fn qid addr : Nat) (bytes : List Byte)
  | msix (fn vec : Nat)
  | msg (link : Nat) (m : Msg)
  | flit (link : Nat) (bytes : List Byte)
  | nak (link seq : Nat)
  | avs (rail mv : Nat)
  | spdm (tr : Transport) (bytes : List Byte)
  | cap (link : Nat) (r : CapRec)
  | aer (fn : Nat)
deriving DecidableEq, Repr

/-! ### Host interface (chapter 11) -/

/-- A submission entry, Table 11-7. `rsvA` is bytes 6 and 7, `rsvB` bytes 0x38 to 0x3F. -/
structure Sqe where
  opc    : Nat := 0
  flags  : Nat := 0
  cid    : Nat := 0
  target : Nat := 0
  rsvA   : Nat := 0
  addr0  : Nat := 0
  addr1  : Nat := 0
  arg0   : Nat := 0
  arg1   : Nat := 0
  arg2   : Nat := 0
  arg3   : Nat := 0
  rsvB   : Nat := 0
deriving DecidableEq, Repr, Inhabited

/-- A command fetched and not yet posted. `serial` is the model's own name for it. `committed` and `partialEff` are what
`RESULT` bits 0 and 1 would say on an abort (R244). `at_` is its fetch on the node's counter, `svcAt` on its partition's service time. `held` says that its end is reached and its completion waits. -/
structure Cmd where
  serial     : Nat
  cid        : Nat
  opc        : Nat
  entry      : Sqe
  sqHead     : Nat
  at_        : Nat
  svcAt      : Nat := 0
  delayed    : Bool := false
  committed  : Bool := false
  partialEff : Bool := false
  fixed      : Option (Nat × Nat) := none
deriving DecidableEq, Repr

/-- A command's name inside the node: its queue pair and serial. -/
structure Tok where
  fn     : Nat
  qid    : Nat
  serial : Nat
deriving DecidableEq, Repr, Inhabited

/-- `HIF_Q_STATE.STATE`, Table 11-22; NONE is an absent pair. -/
inductive QState where
  | active | resetting | error
deriving DecidableEq, Repr, Inhabited

/-- A queue pair (R237, R238, R239, Table 11-22). Sizes are depth - 1. `rel` counts posted but unreleased completions;
`unsig` completions posted since the last message, `unsigAt` the time of the oldest. `resetTo` is the SQ tail at the reset
point and `resetTok` the `QUEUE_RESET` to complete (R244). `delay` spans the SQ entries whose doorbell met a power entry
(R247). `waitP` is the partition for whose wake the next entry of an admin pair waits (R334). `lastPost` is the last completion, on the partition's service time (R288). -/
structure Queue where
  sqBase   : Nat := 0
  cqBase   : Nat := 0
  sqSize   : Nat := 0
  cqSize   : Nat := 0
  cls      : Nat := 0
  weight   : Nat := 0
  vector   : Nat := 0
  ien      : Bool := false
  aggCount : Nat := 0
  aggUs    : Nat := 0
  sqHead   : Nat := 0
  sqTail   : Nat := 0
  cqHead   : Nat := 0
  cqTail   : Nat := 0
  phase    : Bool := true
  st       : QState := .active
  cmds     : List Cmd := []
  unsig    : Nat := 0
  unsigAt  : Option Nat := none
  credit   : Nat := 0
  resetTo  : Nat := 0
  resetTok : Option Tok := none
  delay    : List (Nat × Nat) := []
  waitP    : Option Nat := none
  lastPost : Nat := 0
deriving DecidableEq, Repr, Inhabited

/-- A function's power state (R333): D0, shutting down with or without an enable recorded, D3hot. -/
inductive DState where
  | d0 | draining (enable : Bool) | d3hot
deriving DecidableEq, Repr, Inhabited

/-- The nonce of phase 0 (R251): its value, its slot and the time it was written. -/
structure Nonce where
  value : BitVec 256
  slot  : Nat
  at_   : Nat
deriving DecidableEq, Repr

/-- One PCI Express function with its own copy of the `HIF_` registers (Tables 11-15 to 11-22). `map` is its partition
(R284). `unmasked` and `pend` are the MSI-X vectors unmasked and pending; `heldV` those held by a partition reset (R294); `msixTab` is the rest of the MSI-X
table as 64-bit words, by half entry: message address at 2v, message data at 2v + 1. `devCtl`, `devCtl2` and `msixCtl` are Device Control, Device Control 2 and MSI-X Message Control of
its configuration space with their reset values (R232, log 162). -/
structure Fn where
  enabled  : Bool := false
  map      : Option Nat := none
  aqCtl    : W64 := 0
  aqSq     : W64 := 0
  aqCq     : W64 := 0
  attn     : BitVec 16 := 0
  attnSeq  : W32 := 0
  hbMissed : W64 := 0
  dbErr    : W64 := 0
  queues   : List (Nat × Queue) := []
  unmasked : List Nat := []
  pend     : List Nat := []
  heldV    : List Nat := []
  msixTab  : List (Nat × W64) := []
  devCtl   : W16 := 0x2810
  devCtl2  : W16 := 0
  msixCtl  : W16 := 0
  session  : Option Nat := none
  nonce    : Option Nonce := none
  dst      : DState := .d0
deriving DecidableEq, Repr, Inhabited

/-- A session key slot (R251, R252): key, function mask, consecutive failures, end of the lockout. -/
structure KeySlot where
  key    : Option (List Byte) := none
  mask   : W64 := 0
  fails  : Nat := 0
  locked : Option Nat := none
deriving DecidableEq, Repr, Inhabited

/-- The I/O arbiter of one partition (R243): class credits High, Medium, Low, `cptr`, `ptr` and `uptr`; `last` is the
cycle of its last grant. -/
structure Arb where
  credH : Nat := 0
  credM : Nat := 0
  credL : Nat := 0
  cptr  : Nat := 2
  ptrH  : Option (Nat × Nat) := none
  ptrM  : Option (Nat × Nat) := none
  ptrL  : Option (Nat × Nat) := none
  uptr  : Option (Nat × Nat) := none
  cfg   : W64 := 0x0000000000010408
  /-- class weights in force: a write of `HIF_ARB_CFG` applies at the next class refill (R256) -/
  inUse : W64 := 0x0000000000010408
  last  : Option Nat := none
deriving DecidableEq, Repr, Inhabited

/-! ### Queries (chapters 04 to 07) -/

/-- Search parameters: the block of Table 4-2 with stage defaults put in for zeros. -/
structure SParams where
  coll       : Nat := 0
  graph      : Nat := 0
  qform      : Nat := 0
  k          : Nat := 0
  nprobe     : Nat := 0
  beam       : Nat := 0
  budget     : Nat := 0
  widenLists : Nat := 0
  flags      : Nat := 0
  maxwait    : Nat := 0
  fAll       : W64 := 0
  fAny       : W64 := 0
  fNone      : W64 := 0
  tagVal     : W16 := 0
  tagMask    : W16 := 0
  qlen       : Nat := 0
  qaddr      : Nat := 0
  raddr      : Nat := 0
  saddr      : Nat := 0
  collective : W64 := 0
  dupTag     : W64 := 0
deriving DecidableEq, Repr, Inhabited

/-- Statistics record, Table 4-13, before saturation to its fields. -/
structure Stats where
  routeSteps     : Nat := 0
  listsProbed    : Nat := 0
  listsWidened   : Nat := 0
  skippedEdges   : Nat := 0
  centroids      : Nat := 0
  blocksRinsed   : Nat := 0
  blocksSummary  : Nat := 0
  skippedBlocks  : Nat := 0
  compared       : Nat := 0
  matches_       : Nat := 0
  pressed        : Nat := 0
  skippedEntries : Nat := 0
  n8Reruns       : Nat := 0
  routeCapped    : Bool := false
  encoded        : Bool := false
  nearUsed       : Bool := false
  laneUsed       : Bool := false
  maxBatch       : Nat := 0
  gatherMax      : Nat := 0
  service        : Nat := 0
deriving DecidableEq, Repr, Inhabited

/-- A candidate: key, order word (Table 6-1), ID, origin and flags (Tables 6-3, 6-4). -/
structure Cand where
  key    : W32
  order  : Nat
  id     : W64
  origin : Nat := 0
  flags  : Nat := 0
deriving DecidableEq, Repr, Inhabited

/-- What a selection or a merge step carries upward (Table 6-10): entries best first and the counts and sums of R122 to R130. -/
structure Sel where
  entries  : List Cand := []
  tieSpill : Nat := 0
  nanCount : Nat := 0
  dupCount : Nat := 0
  outCount : Nat := 0
  selAcc   : Acc := {}
  outAcc   : Acc := {}
  genMin   : Option W64 := none
  genMixed : Bool := false
  dupShort : Bool := false
  parts    : Nat := 1
  missing  : Nat := 0
  stats    : List (Nat × List Byte) := []
deriving DecidableEq, Repr, Inhabited

/-- Where a query stands. -/
inductive QPhase where
  | encode | route | rinse | merge | score | done
deriving DecidableEq, Repr, Inhabited

/-- The walk of R71: scored unexpanded nodes and probe-able lists, both best first; the lists seen; the nodes of the round
still to expand; expansions, unreadable nodes, nodes scored, NaN keys; whether the limit stopped it, and whether it is over. -/
structure Walk where
  frontier : List (W32 × Nat) := []
  result   : List (W32 × Nat) := []
  seen     : List Nat := []
  round    : List Nat := []
  started  : Bool := false
  steps    : Nat := 0
  skipped  : Nat := 0
  scored   : Nat := 0
  bad      : Nat := 0
  capped   : Bool := false
  done     : Bool := false
deriving DecidableEq, Repr, Inhabited

/-- A collective group (Table 6-7) with its member table: (identifier, partition). -/
structure Group where
  num     : Nat
  level   : Nat
  size    : Nat
  myRank  : Nat
  fanIn   : Nat
  waitUs  : Nat
  members : List (W32 × Nat)
  collId  : W64
  nextSeq : Nat := 1
deriving DecidableEq, Repr, Inhabited

/-- A query in flight, from fetch to completion. `nRow` and `n8Row` are its N4 and N8 rows (R70), `thr` and `forceN8` what it
latched (R107). `walk` is the walk of R71; `order` the routing order, `taken` how many of its
lists have been visited; `visits` the visits not yet pressed. `inst` is its collective instance; `audit` its block number in an `AUDIT`, `short` says that a block
of it was short. `grp` is the descriptor that its collective search started with (R127), `tags` the tag rows looked up so far (R169). `sel` is the merged selection that SCORE re-keys, `scored` which of its entries have a candidate slot. `group` is the group whose root it is, at its merge. `raw` is the parameter
block, `bag` the hybrid bag, as a fan-out carries them. -/
structure Query where
  tok      : Option Tok := none
  urgent   : Bool := false
  par      : SParams := {}
  coll     : Nat := 0
  gen      : W64 := 0
  fetched  : Nat := 0
  k        : Nat := 0
  vec      : List W32 := []
  sketch   : Nat := 0
  nRow     : CodeRow := {}
  n8Row    : CodeRow := {}
  thr      : Nat := 0
  forceN8  : Bool := false
  phase    : QPhase := .route
  walk     : Walk := {}
  order    : List Nat := []
  taken    : Nat := 0
  visits   : Nat := 0
  cands    : List Cand := []
  pooled   : List W32 := []
  stats    : Stats := {}
  inst     : Option Nat := none
  rank     : Nat := 0
  hedged   : Bool := false
  audit    : Option Nat := none
  qtokens  : List Nat := []
  ctx      : Nat := 0
  sel      : Option Sel := none
  scored   : List Bool := []
  group    : Option Group := none
  short    : Bool := false
  raw      : List Byte := []
  bag      : List Byte := []
  grp      : Option Group := none
  tags     : List (Nat × List W32) := []
deriving DecidableEq, Repr, Inhabited

/-- A list visit in the gather table (R81, R82): its query, entry time and what it latched. -/
structure Visit where
  query    : Nat
  at_      : Nat
  deadline : Nat
  urgent   : Bool := false
  laneOnly : Bool := false
  laneSw   : Nat := 0
deriving DecidableEq, Repr, Inhabited

/-- An entry of the gather table, or an overflow item. The key is (collection, generation, list). -/
structure GEntry where
  coll     : Nat
  gen      : W64
  list     : Nat
  members  : List Visit := []
  due      : Bool := false
  overflow : Bool := false
deriving DecidableEq, Repr, Inhabited

/-- One member of a pass: its query, its `b`, and after the pass its survivors as (distance, entry index). -/
structure Member where
  query : Nat
  b     : Nat
  surv  : List (Nat × Nat) := []
deriving DecidableEq, Repr, Inhabited

/-- A pass in flight (R75, R76, R77, R82): what it holds, the `SAP_COUNT` and the lead's `SUMMARY_SKIP` taken at launch, and after its end the press
blocks (entry indexes) not yet run. `ctx` is the context of its Sapling scan, then of its press blocks, `bctx` that of its rinse blocks. -/
structure Pass where
  coll    : Nat
  gen     : W64
  list    : Nat
  near    : Bool
  members : List Member
  core    : Nat := 0
  chans   : List Nat := []
  sapCnt  : Nat := 0
  ended   : Bool := false
  blocks  : List (Nat × List Nat) := []
  ctx     : Nat := 0
  skip    : Bool := false
  bctx    : Nat := 0xFFFFFFFF
deriving DecidableEq, Repr, Inhabited

/-- A child of a tree node: its rank, the partial merged for it, whether that came from a hedged copy, from where, and when. -/
structure Child where
  rank : Nat
  got  : Option Sel := none
  copy : Bool := false
  src  : W32 := 0
  srcP : Nat := 0
  inst : W64 := 0
  at_  : Nat := 0
deriving DecidableEq, Repr, Inhabited

/-- A collective search at one member (Table 6-9): instance, tag, the descriptor it started with, root rank, own rank, the children
it waits for, when it sent its fan-out (`WAIT_US` runs from there), its own selection, its query. `sent` says that a hedged copy has sent its
partial and waits for a closure (log 30). -/
structure Inst where
  inst    : W64
  dupTag  : W64
  group   : Group
  root    : Nat
  rank    : Nat
  isRoot  : Bool := false
  hedged  : Bool := false
  kids    : List Child := []
  since   : Nat := 0
  own     : Option Sel := none
  ownSel  : Bool := false
  query   : Option Nat := none
  tok     : Option Tok := none
  par     : SParams := {}
  k       : Nat := 0
  larger  : Bool := false
  waited  : Bool := false
  sent    : Bool := false
deriving DecidableEq, Repr, Inhabited

/-- A thread context (Table 4-8): kind (Table 4-9), state (Table 4-10), stage, graph, parent, `QREC` as the number of the query or pass, command, collection, generation, list, block,
core, progress, the time its progress last changed, and how many contexts of one kind this entry stands for (the RINSE threads of one pass; log 153). `WORK` is what Query, Pass, Task
and Add hold. -/
structure Ctx where
  kind     : Nat
  st       : Nat
  stage    : Nat := 0
  graph    : Nat := 0
  parent   : Nat := 0xFFFFFFFF
  query    : Nat := 0
  fn       : Nat := 0xFFFF
  queue    : Nat := 0xFFFF
  cid      : Nat := 0xFFFF
  coll     : Nat := 0
  gen      : W64 := 0
  list     : Nat := 0xFFFFFFFF
  block    : Nat := 0
  core     : Nat := 0xFFFF
  progress : Nat := 0
  since    : Nat := 0
  count    : Nat := 1
deriving DecidableEq, Repr, Inhabited

/-! ### Models (chapter 07) -/

/-- What a model task works for: the ENCODE of a query or an insert, or the SCORE of a query. -/
inductive TaskFor where
  | encodeQuery (q : Nat)
  | encodeInsert (coll seq : Nat)
  | score (q : Nat)
deriving DecidableEq, Repr

/-- A model task waiting or running (R152): its tokens (one sequence for ENCODE, one per candidate for SCORE), the settings of its stage, its thread. -/
structure Task where
  for_    : TaskFor
  seqs    : List (List Nat)
  at_     : Nat
  urgent  : Bool := false
  thr     : Nat := 0
  forceN8 : Bool := false
  batchTok : Nat := 512
  batchUs  : Nat := 20
  cores    : Nat := 16
  ctx      : Nat := 0xFFFFFFFF
deriving DecidableEq, Repr

/-- A batch in flight (R153): the copy it pinned, by version, the cores it runs on, when it launched, the layers that run in N8 by task, and of a streamed model the layers started and
when each of them ends (R154). -/
structure Batch where
  model : Nat
  tasks : List Task
  ver   : Nat
  layer : Nat := 0
  cores : Nat := 0
  ends  : List Nat := []
  at_   : Nat := 0
  n8s   : List (List Nat) := []
deriving DecidableEq, Repr

/-- One model of a partition (R150, R151, Table 7-6): the versions of its copies with their weight images, the load in progress and
the tier-1 window of a streamed model (records held, next record to fetch). -/
structure Mdl where
  version : Nat := 0
  cur     : Option (List Byte) := none
  old     : List (Nat × List Byte) := []
  load    : Option Tok := none
  queue   : List Task := []
  window  : List Nat := []
  nextRec : Nat := 0
deriving DecidableEq, Repr, Inhabited

/-! ### Ownership and durability of an object (chapter 13) -/

/-- Holder states (Table 13-14). -/
inductive Holder where
  | owned | releasing | released | claiming | frozen
deriving DecidableEq, Repr, Inhabited

/-- A release that arrived and no claim has taken up yet (R309). -/
structure RelSeen where
  from_  : W32
  fromP  : Nat
  epoch  : Nat
  lastSeq : Nat
  at_    : Nat
deriving DecidableEq, Repr

/-- A claim or a release in progress: its command, the other holder, the epoch, and when it was fetched. -/
structure Xfer where
  tok   : Tok
  peer  : W32
  peerP : Nat
  epoch : Nat
  at_   : Nat
  wrote : Bool := false
  inNode : Bool := false
deriving DecidableEq, Repr

/-- An ownership token and what the holder knows (R306 to R312). -/
structure Own where
  owner  : W32 := 0
  ownerP : Nat := 0
  epoch  : Nat := 1
  st     : Holder := .owned
  seen   : Nat := 1
  rel    : Option RelSeen := none
  xfer   : Option Xfer := none
deriving DecidableEq, Repr, Inhabited

/-- A record of either kind, for mirroring. -/
inductive MRec where
  | coll (r : LogRec)
  | train (r : TrainRec)
deriving DecidableEq, Repr

/-- A snapshot in progress (R321, R322): its epoch, the state's bytes, the acknowledged and the undeliverable chunks as (stripe, chunk), the command. -/
structure Snap where
  epoch : Nat
  bytes : List Byte
  acks  : List (Nat × Nat) := []
  lost  : List (Nat × Nat) := []
  tok   : Option Tok := none
deriving DecidableEq, Repr

/-- What this node keeps for other nodes (R316, R321): mirrored records by source and object, `total` being the source's `SNAP_EPOCH`, and
snapshot chunks, `total` being the stripes. `bytes` is the body received. -/
structure Kept where
  src   : W32
  srcP  : Nat
  kind  : ObjKind
  objId : W64
  epoch : Nat
  stripe : Nat := 0
  chunk : Nat := 0
  total : Nat := 0
  bytes : List Byte
  blk   : Nat := 0
deriving DecidableEq, Repr

/-- A restoration in progress (R323): its command, the failed source and its buddy, the highest epoch wanted (none: the latest), the stripe asked for, the members (by position) that
have answered or cannot be reached, the chunks that came back, and once the buddy's records are being read the epoch of the snapshot that decoded. -/
structure Recover where
  tok     : Tok
  src     : W32
  srcP    : Nat
  bud     : W32
  budP    : Nat
  bound   : Option Nat := none
  stripe  : Nat := 0
  heard   : List Nat := []
  chunks  : List Kept := []
  reading : Option Nat := none
deriving DecidableEq, Repr

/-- A committed record that the buddy has not acknowledged: when it committed, and the durable command that waits for it. -/
structure Unack where
  r   : MRec
  at_ : Nat
  tok : Option Tok := none
deriving DecidableEq, Repr

/-- Durability of one object (R315 to R322): records not yet sent, unacknowledged messages as (message sequence, records), the hold and since when its time is
not counted by the thread watchdog (R286), the snapshot asked for at the next boundary, the one in progress, the epoch of the latest complete one, whether this copy follows its owner (R319), and a restoration in progress. -/
structure Dur where
  unsent   : List Unack := []
  unacked  : List (Nat × List Unack) := []
  held     : Bool := false
  heldAt   : Nat := 0
  wantSnap : Option (Option Tok) := none
  snap     : Option Snap := none
  lastSnap : Nat := 0
  follow   : Bool := true
  recover  : Option Recover := none
deriving DecidableEq, Repr, Inhabited

/-! ### Collections (chapter 03) -/


/-- `PTN_COLL_STATE.STATE`, Table 3-13; an EMPTY slot is absent. -/
inductive CollSt where
  | mounting | serving | swapping | readOnly | failed | frozen | created
deriving DecidableEq, Repr, Inhabited

/-- An update fetched and not committed (R51 to R55). `waitEnc` waits for ENCODE; `held` says that it was fetched while a release was under way (R308). -/
structure Upd where
  tok     : Option Tok
  seq     : Nat
  kind    : RecKind
  id      : W64
  list    : Nat := 0
  sap     : Option SapRec := none
  vec     : List W32 := []
  durable : Bool := false
  waitEnc : Bool := false
  held    : Bool := false
  ctx     : Nat := 0
deriving DecidableEq, Repr, Inhabited

/-- A swap in progress (R59): replayed through `done`, the limit on the partition counter, frozen or not, `base`, the staged generation as loaded when the swap began, and `work`, the
same with what was replayed into it. -/
structure Swap where
  tok      : Tok
  gen      : W64
  freezeAt : Nat
  limitAt  : Nat
  done     : Nat
  frozen   : Bool := false
  base     : Gen
  work     : Gen
deriving DecidableEq, Repr

/-- One collection. `retired` are generations no longer current but pinned (R60). `seq` is the last update sequence given, `applied` the
last committed. `log` runs from `logFrom`; `cuts` are the open export cuts, `exports` the records that a cursor has still to write (R254), `nextCur` the next cursor. `loadBuf` are
the bytes of the generation being loaded. `root` is the generation the durable root record names. `orig` names the originals on flash: ID, first block, vector. -/
structure Coll where
  desc     : CollDesc
  st       : CollSt := .created
  before   : CollSt := .serving
  cur      : Option Gen := none
  staged   : Option Gen := none
  retired  : List Gen := []
  seq      : Nat := 0
  applied  : Nat := 0
  upds     : List Upd := []
  log      : List LogRec := []
  logFrom  : Nat := 1
  cuts     : List Nat := []
  exports  : List (Nat × List (SapRec × Option RecLoc)) := []
  nextCur  : Nat := 1
  loadBuf  : List Byte := []
  swap     : Option Swap := none
  drop     : Option (Tok × Bool) := none
  root     : Option Gen := none
  own      : Own := {}
  dur      : Dur := {}
  orig     : List (Nat × Nat × List W32) := []
deriving DecidableEq, Repr, Inhabited

/-! ### Embedding tables (chapter 08) -/

/-- Migration states (Table 8-4); SETTLED is absence. -/
inductive MigSt where
  | copy | forward | cutover
deriving DecidableEq, Repr, Inhabited

/-- The operation an add or a write does on one row. -/
inductive RowOp where
  | add (d : List W32)
  | write (v : List W32)
deriving DecidableEq, Repr

/-- A row migrating to `slot`, or home when `none`; its log and the operations held in CUTOVER (R174). -/
structure Mig where
  row  : Nat
  dest   : Option Nat
  st   : MigSt := .copy
  copy : List W32 := []
  log  : List RowOp := []
  held : List Nat := []
deriving DecidableEq, Repr

/-- A Canopy line (R168, R169); `bad` says that it was filled from a row that held poison. -/
structure Line where
  set_  : Nat
  way   : Nat
  row   : Nat
  count : Nat
  bad   : Bool := false
deriving DecidableEq, Repr

/-- `PTN_TBL_STATE.STATE`, Table 8-8; an EMPTY number is absent. -/
inductive TblSt where
  | ready | draining | frozen
deriving DecidableEq, Repr, Inhabited

/-- One embedding table (Table 8-1). `data` holds the rows that are not all +0; `poison` the poisoned (row, element) pairs; `dir` the hot
directory as (row, slot); `filter` the four arrays of counters as (index, count); `log` the update log by its block on flash, `logN` the next block. -/
structure Tbl where
  train    : Bool := false
  width    : Nat := 16
  rows     : Nat := 1
  hotRows  : Nat := 0
  canopyK  : Nat := 0
  tblId    : W64 := 0
  policy   : W64 := 0
  name     : List Byte := []
  st       : TblSt := .ready
  data     : List (Nat × List W32) := []
  poison   : List (Nat × Nat) := []
  dir      : List (Nat × Nat) := []
  lines    : List Line := []
  filter   : List (List (Nat × Nat)) := [[], [], [], []]
  accesses : Nat := 0
  migs     : List Mig := []
  drop     : Option Tok := none
  log      : List (Nat × TrainRec) := []
  logN     : Nat := 0
  own      : Own := {}
  dur      : Dur := {}
deriving DecidableEq, Repr, Inhabited

/-- An add issued by the combining unit and not yet applied (R171, R172), or held by a durability hold, a release or a migration in CUTOVER (`held`). `adm` is the ADMIT under which its
command was fetched (R176), `ctx` its thread; without `tok` its command has completed. -/
structure Add where
  tok  : Option Tok
  tbl  : Nat
  row  : Nat
  op   : RowOp
  dur  : Bool := false
  held : Bool := false
  adm  : Bool := true
  ctx  : Nat := 0xFFFFFFFF
deriving DecidableEq, Repr

/-- Prefetch copies (R167): rows of a table that the next `POOL` of a queue pair names, in the cores' local stores. -/
structure Prefetch where
  fn   : Nat
  qid  : Nat
  tbl  : Nat
  rows : List Nat
deriving DecidableEq, Repr

/-! ### Memory objects and pages (chapter 09) -/

/-- What an object is for (Table 9-5): host software's own, or one that the node made: a part of a generation, the Sapling pool, a table's home array, hot
region or hot directory, a copy of a model by version, the vector records of a streamed copy, its window. -/
inductive ObjUse where
  | host
  | gen (coll : Nat) (gen : W64) (part : GenPart)
  | sapling
  | home (tbl : Nat)
  | hot (tbl : Nat)
  | hotDir (tbl : Nat)
  | model (m ver : Nat)
  | vectors (m ver : Nat)
  | window (m : Nat)
deriving DecidableEq, Repr, Inhabited

/-- An object: what it is for, its pages in order, policy, contents of a host object as bytes by offset (an unlisted byte is zero, R186), and the poisoned word offsets. What
the node's own objects hold follows from the collections, tables and models (Frames.lean). -/
structure Obj where
  use_   : ObjUse := .host
  pages  : List Nat := []
  policy : W64 := 0
  data   : Mem := []
  poison : List Nat := []
  freeing : Option Tok := none
deriving DecidableEq, Repr, Inhabited

/-- A place for a page and, in a migration (R181), how far it is: tier, channel and frame, mode and sectors there, the channels over which a SPREAD page is cut; dirty
granules, and the rounds copied. -/
structure PMig where
  tier   : Nat
  chan   : Nat
  frame  : Nat
  mode   : Nat := 0
  sectors : Nat := 0
  chans  : List Nat := []
  dirty  : List Nat := []
  rounds : Nat := 0
deriving DecidableEq, Repr

/-- A page: its tier-map entry (Table 9-2), the channel that holds it, or the channels of a SPREAD page, its heat and its migration. -/
structure Page where
  obj     : Nat := 0
  ptn     : Nat := 0
  mode    : Nat := 0
  sectors : Nat := 0
  pin     : Bool := false
  tier    : Nat := 0
  chan    : Nat := 0
  frame   : Nat := 0
  chans   : List Nat := []
  heat    : Nat := 0
  mig     : Option PMig := none
deriving DecidableEq, Repr, Inhabited

/-- A tier-1 channel (Table 9-19, R199, R302): partition, spare rows by chain position (64 where unlisted), spare bank, back-off by cause, windows
clear so far, the bank copy in progress, uncorrectable rows found as (position, row, time), and rows with corrected words as (position, row, passes in succession). -/
structure Chan where
  ptn      : Nat := 0xF
  rowsUsed : List (Nat × Nat) := []
  spare    : Bool := false
  thermal  : Bool := false
  satur    : Bool := false
  clear    : Nat := 0
  backAt   : Nat := 0
  copying  : Option (Nat × Option Tok) := none
  ueRows   : List (Nat × Nat × Nat) := []
  ceRows   : List (Nat × Nat × Nat) := []
deriving DecidableEq, Repr, Inhabited

/-- A stack (Table 9-16): temperature and budget of Darner activates per window (R198). -/
structure Stack where
  temp   : Nat := 0
  budget : Nat := 1600
deriving DecidableEq, Repr, Inhabited

/-- A tier-2 channel (Table 9-17): state 0 EMPTY, 1 ACTIVE, 2 FAILED. -/
structure T2 where
  st  : Nat := 0
  gib : Nat := 0
  ptn : Nat := 0xF
deriving DecidableEq, Repr, Inhabited

/-- The memory block's own registers, the pages, the spare contexts left (R303), `errs`, the codewords in error that nothing has read since (R187), and when heat last aged (R182) and
the last passes of patrol and SRAM scrub ended (R191). -/
structure MemSt where
  errs     : List Finding := []
  pages    : List (Nat × Page) := []
  migCfg   : W64 := 0x0000000005200464
  scrubCfg : W64 := 0x000000000A000018
  tmapQ    : W64 := 0
  rsvT1    : Nat := 0
  rsvT2    : Nat := 0
  heatAt   : Nat := 0
  patrolAt : Nat := 0
  sramAt   : Nat := 0
  spareCtx : Nat := 0
  chans    : Vector Chan 128 := Vector.replicate 128 {}
  stks   : Vector Stack 8 := Vector.replicate 8 {}
  t2       : Vector T2 12 := Vector.replicate 12 {}
deriving DecidableEq, Repr

/-! ### Flash (chapter 10) -/

/-- `FLS_CART_STATE.STATE`, Table 10-12. -/
inductive CartSt where
  | empty | identifying | active | readOnly | foreign | releasing | released | failed
deriving DecidableEq, Repr, Inhabited

/-- One cartridge slot with what the node holds of its cartridge: state, why read-only, presence, power, SAFE, `known` (mounted since it was
seated), its serial, life record with the last LIFE and the time of the last record, the record's two copies in the identity device (R207), directory sequence, block sets touched so far (an
unlisted set is a free QLC set), spare blocks by plane (die × 4 + plane; blocks 4,967 to 5,014 where unlisted), retired blocks as (die, plane, block), sets retired for want of a spare,
map journal entries programmed and those that wait for the next journal program as (logical block, map entry) (R213), sets that a sanitisation still has to erase after the cartridge
was released (R227), a sanitisation found at mount that reads wait for, what a FOREIGN cartridge reads, the release in progress with its `EVACUATE` flag (R209), and the counters of Table
10-13 apart from FLS_THROTTLE, which is `throttle`. -/
structure Cart where
  st      : CartSt := .empty
  why     : Nat := 0
  present : Bool := false
  power   : Bool := false
  safe    : Bool := false
  known   : Bool := false
  serial  : Nat := 0
  life    : LifeRec := {}
  lifeP   : Nat := 0
  lifeAt  : Nat := 0
  lifeA   : List Byte := []
  lifeB   : List Byte := []
  dirSeq  : Nat := 0
  sets    : List (Nat × BSet) := []
  spares  : List (Nat × List Nat) := []
  retired : List (Nat × Nat × Nat) := []
  lost    : Nat := 0
  journal : List (Nat × Nat) := []
  jpend   : List (Nat × Nat) := []
  toErase : List Nat := []
  sanHold : Bool := false
  ident   : Option CartIdent := none
  relTok  : Option Tok := none
  relEvac : Bool := false
  counts  : List Nat := [0, 0, 0, 0, 0, 0, 0]
  throttle : Nat := 0
deriving DecidableEq, Repr, Inhabited

/-- A sector in the write stage (R215): its version, when it was staged, whether a durable command needs it, the commands that wait, and the die short of free sets that its program
waits for (R219). -/
structure Staged where
  obj  : Nat
  blk  : Nat
  data : List Byte
  at_  : Nat
  ver  : Nat
  dur  : Bool := false
  toks : List Tok := []
  die  : Option Nat := none
deriving DecidableEq, Repr

/-- Why a NAND program runs: a staged sector, a Fold copy, a Wringer copy, a journal entry. -/
inductive ProgWhy where
  | stage | fold | wring | journal
deriving DecidableEq, Repr

/-- A NAND program in flight (R216, R217, R222): where it goes, what it carries, why; `dead`: its block was unmapped meanwhile (R225). A journal program carries `entries`. -/
structure Prog where
  cart   : Nat
  set_   : Nat
  onebit : Bool
  obj    : Nat
  blk    : Nat
  data   : List Byte
  ver    : Nat := 0
  ecc    : Nat := 0
  why    : ProgWhy := .stage
  dead   : Bool := false
  toks   : List Tok := []
  pos    : Nat := 0
  entries : List (Nat × Nat) := []
deriving DecidableEq, Repr

/-- A sanitisation (R226, R227): its command, the sets still to erase as (cartridge, set), the cartridges it touches, whether a block failed, and what follows its end: objects freed, a
cartridge that becomes ACTIVE and empty, a collection whose drop ends. -/
structure Sanit where
  tok   : Option Tok := none
  sets  : List (Nat × Nat)
  carts : List Nat := []
  bad   : Bool := false
  free  : List Nat := []
  adopt : Option Nat := none
  coll  : Option (Nat × Nat) := none
deriving DecidableEq, Repr

/-- A map page in the mapping cache (R214): cartridge, page, since when it is dirty, and the mark of the clock sweep. -/
structure MapPg where
  cart  : Nat
  page  : Nat
  dirty : Option Nat := none
  ref   : Bool := true
deriving DecidableEq, Repr

/-- A command that waits (R173, R216, R318): adds still to apply, sectors still to program, acknowledgements of the buddy still to come. -/
structure DurCmd where
  tok   : Tok
  adds  : Nat := 0
  progs : Nat := 0
  acks  : Nat := 0
deriving DecidableEq, Repr

/-- The flash engine. `copies` are the physical sectors, `reads` the map pages being read, `waits` the commands that wait for a map page, for room in the write stage or for a
sanitisation, in fetch order. `mirrors` and `chunks` are what this node keeps for others, `ackWhen` the durable MIRROR_WRITE messages to acknowledge with the sectors still to program. -/
structure FlashSt where
  cfg     : W64 := 0x0000000019061464
  carts   : Vector Cart 4 := Vector.replicate 4 {}
  objs    : List (Nat × FObj) := []
  copies  : List Copy := []
  stage   : List Staged := []
  progs   : List (Nat × Prog) := []
  nextP   : Nat := 0
  nextV   : Nat := 0
  sanits  : List Sanit := []
  cache   : List MapPg := []
  reads   : List (Nat × Nat) := []
  waits   : List Tok := []
  durable : List DurCmd := []
  mirrors : List Kept := []
  chunks  : List Kept := []
  ackWhen : List (Msg × Nat × Nat) := []
deriving DecidableEq, Repr

/-! ### Links and traffic (chapter 12) -/

/-- `LNK_LINK_STATE.STATE`, Table 12-2. -/
inductive LinkSt where
  | off | train | negotiate | active | degraded | retrain | mismatch | down
deriving DecidableEq, Repr, Inhabited

/-- A flit sent and not acknowledged: its sequence, the message it belongs to, the time sent, how often it was replayed, its `FTYPE` and its payload. -/
structure TxFlit where
  fseq  : Nat
  mseq  : Nat
  cls   : Nat
  at_   : Nat
  tries : Nat := 0
  ftype : Nat := 0
  data  : List Byte := []
deriving DecidableEq, Repr

/-- A message waiting at an egress: its pool, its owner (R272), the route entry as it stood when the message entered (R262), and how many of its flits have left. -/
structure EgMsg where
  m    : Msg
  pool : Nat
  own  : Nat
  via  : Option W64 := none
  sent : Nat := 0
deriving DecidableEq, Repr

/-- One Juolo link: the fields of Table 12-18, its last settled state and WHY (R372), lanes failed, its flit state (R265, R266) and counters
(Table 12-24). `rxAny` says that a flit was received good, `owed` the credits to return per class and pool; `asm` are the message bytes being received per class and pool; `segs` the segments of
trains held until the last. -/
structure Link where
  st      : LinkSt := .off
  enable  : Bool := true
  why     : Nat := 0
  level   : Nat := 0
  peer    : Option CapRec := none
  spare   : Bool := false
  bad     : List Nat := []
  settled : LinkSt := .off
  settledWhy : Nat := 0
  since   : Nat := 0
  txSeq   : Nat := 0
  rxSeq   : Nat := 0
  rxAny   : Bool := false
  owed    : List Nat := List.replicate 16 0
  replay  : List TxFlit := []
  credits : List Nat := List.replicate 16 64
  stallAt : List Nat := List.replicate 16 0
  asm_    : List (Nat × List Byte) := []
  segs    : List Msg := []
  waiting : List EgMsg := []
  wcred   : List Nat := [0, 0, 0, 0, 0, 0]
  wptr    : Nat := 5
  counts  : List Nat := [0, 0, 0, 0, 0, 0, 0, 0]
deriving DecidableEq, Repr, Inhabited

/-- Shaper flow modes (R274). -/
inductive FlowMode where
  | wheel | bucket
deriving DecidableEq, Repr, Inhabited

/-- A flow: the traffic of one owner in one class on one link (R272). `fullAt` is in units of 2^-16 slot, `t` in units of 2^-8 byte. Owner f < 64
is a function, 64 + p the service owner of partition p. -/
structure Flow where
  owner  : Nat
  cls    : Nat
  link   : Nat
  mode   : FlowMode := .wheel
  fullAt : Nat := 0
  t      : Nat := 0
  queue  : List EgMsg := []
  slot   : Option Nat := none
deriving DecidableEq, Repr

/-- What an acknowledged message is for (R269). -/
inductive AckFor where
  | mirror (p : Nat) (k : ObjKind) (num : Nat)
  | snap (p : Nat) (k : ObjKind) (num stripe chunk : Nat)
  | own (p : Nat) (k : ObjKind) (num : Nat)
deriving DecidableEq, Repr

/-- An acknowledged message without its ACK (R269): the message, sends so far, the time of the last, what it is for. -/
structure AckWait where
  m     : Msg
  sends : Nat
  at_   : Nat
  for_  : AckFor
deriving DecidableEq, Repr

/-- One policer (R275): its registers, staged rate, pending configuration and tokens in 2^-16 command. -/
structure Pol where
  rate    : W64 := 0
  cfg     : W64 := 0
  staged  : Option W64 := none
  pending : Option (W64 × W64) := none
  tc      : Nat := 0
  tp      : Nat := 0
  held    : W64 := 0
  green   : W64 := 0
  yellow  : W64 := 0
deriving DecidableEq, Repr, Inhabited

/-- The link block and traffic control. `shape` is keyed 8f + c, `svc` 8p + c; `pendShape` and `pendSvc` the writes not yet in force. `accepted` are the
sequences of acknowledged kinds accepted from each source. `ping` is the probe out, with the time it left; `refillAt` the last refill instant done. -/
structure LinkBlk where
  nodeId    : W32 := 0
  cfg       : W64 := 0x00000000000801F4
  tcCfg     : W64 := 0x0000010402081010
  pingRes   : W64 := 0
  ping      : Option (W32 × Nat) := none
  refillAt  : Nat := 0
  links     : Vector Link 36 := Vector.replicate 36 {}
  routes    : List (Nat × W64) := []
  msgSeq    : Nat := 0
  acks      : List AckWait := []
  accepted  : List (W32 × List Nat) := []
  counts    : List Nat := [0, 0, 0, 0, 0, 0]
  shape     : List (Nat × W64) := []
  svc       : List (Nat × W64) := []
  pendShape : List (Nat × W64) := []
  pendSvc   : List (Nat × W64) := []
  flows     : List Flow := []
  pols      : Vector Pol 64 := Vector.replicate 64 {}
  inbox     : List (Nat × Msg) := []
deriving DecidableEq, Repr

/-! ### Partitions (chapter 13) -/

/-- `PTN_STATE.STATE`, Table 13-4. -/
inductive PtnSt where
  | absent | inService | resetting | withdrawn | restoring | loading
deriving DecidableEq, Repr, Inhabited

/-- A fault record (Table 13-6). -/
structure FaultRec where
  seq     : Nat
  ctr     : Nat
  kind    : Nat
  reset   : Bool := false
  counted : Bool := false
  withdrew : Bool := false
  fn      : Nat := 0xFFFF
  queue   : Nat := 0xFFFF
  cid     : Nat := 0xFFFF
  thread  : Nat := 0xFFFFFFFF
  stage   : Nat := 0
  lcore   : Nat := 0xFF
  pcore   : Nat := 0xFF
  dop     : Nat := 0
  addr    : Nat := 0
  place   : Nat := 0
  d1      : Nat := 0
  d2      : Nat := 0
deriving DecidableEq, Repr, Inhabited

/-- A partition reset in progress (R293): its kind, trigger cycle, start and guilty core, the `PARTITION_RESET` commands that wait for its end. -/
structure ResetRun where
  kind    : Nat
  trigger : Nat
  at_     : Nat
  lcore   : Nat := 0xFF
  counted : Bool := false
  waiters : List Tok := []
deriving DecidableEq, Repr

/-- A live load of one partition (R37): the slot, the section, the drain deadline; `install` says that a partition reset installs it. -/
structure Load where
  slot     : Nat
  sec      : PtnSection
  deadline : Nat
  install  : Bool := false
deriving DecidableEq, Repr

/-- Partition power states (Table 14-2). -/
inductive PPow where
  | on | gated | off | entering | waking
deriving DecidableEq, Repr, Inhabited

/-- One partition. `pendReset` is a reset that runs at the partition's wake (R332), `restore` a restoration with its command, `restWait` the `PARTITION_RESET` commands that wait for it, `downAt` the start of the reset that withdrew the partition. `svc` is its service time: the CTL cycles it was IN_SERVICE and On (R288). `polCmds` are the `OBJECT_POLICY` commands that wait as (command, object), `buddyAt` the time of the last `PTN_BUDDY` write, `memRel` memory objects released to another partition (R313). `ctrs` are its counters in the order of `PtnCtr` (Flags.lean). `hist` are the counted resets as (trigger, core), latest first, at most
16 (R297). The next free numbers are the model's own. `resetScrub` is the start of a scrub after a reset (R191). `selQ` are the selections that wait for a deep-select core, as (core, query) in order of arrival (R120). -/
structure Ptn where
  ent      : PtnEntry := {}
  st       : PtnSt := .absent
  resets   : Nat := 0
  inWindow : Nat := 0
  lastKind : Nat := 0
  sec      : Option PtnSection := none
  srcSlot  : Nat := 0
  load     : Option Load := none
  qryCfg   : W64 := 0x000000001900FFFF
  qntCfg   : W64 := 0
  mdlCfg   : W64 := 0x32
  embCfg   : W64 := 0x000000000C040801
  wdCfg    : W64 := 0x000000000A0A0064
  escCfg   : W64 := 0x0000000000130258
  durCfg   : W64 := 0x0BB8006403E80000
  buddy    : W64 := 0
  snapMem  : Vector W64 10 := Vector.replicate 10 0
  epoch    : Nat := 0
  epochAt  : Nat := 0
  epochLen : Nat := 30000000
  unprot   : Bool := false
  buddyLost : Bool := false
  ctrs     : Vector W64 52 := Vector.replicate 52 0
  colls    : List (Nat × Coll) := []
  tbls     : List (Nat × Tbl) := []
  objs     : List (Nat × Obj) := []
  groups   : List (Nat × Group) := []
  queries  : List (Nat × Query) := []
  nextQ    : Nat := 0
  gather   : List GEntry := []
  passes   : List (Nat × Pass) := []
  nextPass : Nat := 0
  insts    : List (Nat × Inst) := []
  nextI    : Nat := 0
  closed   : List (W64 × W64 × Nat) := []
  ctxs     : List (Nat × Ctx) := []
  selQ     : List (Nat × Nat) := []
  share    : Nat := 0
  mdls     : List (Nat × Mdl) := []
  batches  : List (Nat × Batch) := []
  nextB    : Nat := 0
  adds     : List (Nat × Add) := []
  prefetch : List Prefetch := []
  nextAdd  : Nat := 0
  polCmds  : List (Tok × Nat) := []
  buddyAt  : Nat := 0
  memRel   : List (Nat × Nat) := []
  faults   : List FaultRec := []
  faultSeq : Nat := 0
  memLog   : Nat × Nat := (0, 0)
  hist     : List (Nat × Nat) := []
  run      : Option ResetRun := none
  pendReset : Option ResetRun := none
  restore  : Option (Option Tok) := none
  restAt   : Nat := 0
  downAt   : Nat := 0
  svc      : Nat := 0
  restWait : List Tok := []
  arb      : Arb := {}
  pow      : PPow := .on
  enPend   : Bool := false
  idleFor  : Nat := 0
  shutTok  : Option Tok := none
  shutAt   : Nat := 0
  wakeTok  : List Tok := []
  heldMsgs : List (Nat × Msg) := []
  resetScrub : Option Nat := none
  sramBad  : List Nat := []
  sramMap  : List Nat := []
deriving DecidableEq, Repr, Inhabited

/-! ### Cores, power, boot -/

/-- `NODE_CORE_STATE.STATE`, Table 1-5. -/
inductive CoreSt where
  | inService | spare | draining | filling | retired
deriving DecidableEq, Repr, Inhabited

/-- A physical core (Tables 1-4, 13-13): corrected errors, and the times of the latest on the counter of R4; failed lanes as (slice, lane), with those already replaced; a swap's start and the command
that waits. -/
structure PCore where
  st     : CoreSt := .spare
  ptn    : Nat := 0xF
  lcore  : Nat := 0xFF
  ce     : Nat := 0
  ceTimes : List Nat := []
  hangs  : Nat := 0
  lanes  : List (Nat × Nat) := []
  peer   : Nat := 0xFF
  since  : Nat := 0
  restarted : Bool := false
  tok    : Option Tok := none
deriving DecidableEq, Repr, Inhabited

/-- Node power states (Table 14-1). -/
inductive NPow where
  | run | idle | rest | sleep | off | entering | waking | wakeHold
deriving DecidableEq, Repr, Inhabited

/-- One AVSBus rail (Table 14-17): last confirmed and last requested mV, fault and why; the request in flight (its time, whether its frame was acknowledged, retries), the setpoint
that the temperature needs, the cap of R340, the request that waits (0: none), and the time of the last adjustment. -/
structure Rail where
  mv      : Nat := 0
  target  : Nat := 0
  why     : Nat := 0
  fault   : Bool := false
  busy    : Option Nat := none
  acked   : Bool := false
  tries   : Nat := 0
  need    : Nat := 0
  lowCap  : Bool := false
  want    : Nat := 0
  adjAt   : Nat := 0
deriving DecidableEq, Repr, Inhabited

/-- The power block (chapter 14). `target` is the target of the entry in progress, `entryTok` its command, `saved` the partition states before it. `caps` are the
issue caps of the causes sustained, peak, excursion, thermal, AVSBus. `samples` are the 10 µs samples as (time, W), newest first. -/
structure Power where
  ctl      : W64 := 0x000000000A020014
  limit    : W64 := 0x00C8140FA3D402F8
  avsCfg   : W64 := 0x00000000000200C8
  fnDelayed : W64 := 0
  st       : NPow := .run
  target   : Nat := 0
  entryTok : Option Tok := none
  entryAt  : Nat := 0
  commitAt : Nat := 0
  saved    : List PPow := []
  fromRest : Bool := false
  padHeld  : Bool := false
  wakeFail : Bool := false
  wakeTry  : Nat := 0
  wakeTok  : Option Tok := none
  wakeDb   : Bool := false
  holdAt   : Nat := 0
  capSust  : Nat := 16
  capPeak  : Nat := 16
  capExc   : Nat := 16
  capTherm : Nat := 16
  capAvs   : Nat := 16
  capEnd   : Option Nat := none
  capOne   : Option Nat := none
  adjAt    : Nat := 0
  thermAt  : Nat := 0
  samples  : List (Nat × Nat) := []
  uncapp   : Bool := false
  w1cSets  : List (Nat × Nat) := []
  tripped  : Bool := false
  tripLast : Nat := 0
  iod      : Nat := 0
  cmp1     : Nat := 0
  cmp0     : Nat := 0
  rails    : Vector Rail 6 := Vector.replicate 6 {}
  wakes    : W64 := 0
  abandons : W64 := 0
  capCyc   : W64 := 0
  gateCyc  : W64 := 0
  avsFault : W64 := 0
  lostWr   : W64 := 0
  lockLost : Bool := false
  refOk    : Bool := false
  rootLock : Bool := false
deriving DecidableEq, Repr

/-- The pins of chapter 15 that carry state. -/
structure Pins where
  perst    : Bool := false
  vrEn     : BitVec 5 := 0
  vrPg     : BitVec 5 := 0
  vrAt     : Nat := 0
  vrRetry  : Bool := false
  thermtrip : Bool := true
  pwrOffOk : Bool := true
  straps   : BitVec 4 := 0
deriving DecidableEq, Repr, Inhabited

/-- An image slot (Table 2-5): the bytes written since it was last erased and the image they decode to, whether verified since its last write (R34), whether
its partition sections are staged. -/
structure Slot where
  bytes    : Mem := []
  image    : Option Image := none
  verified : Bool := false
  staged   : Bool := false
deriving DecidableEq, Repr, Inhabited

/-- The boot flash (Table 2-5): boot directory, slots, monotonic counter and whether it authenticates, repair map and whether it authenticates, key slots. -/
structure BootFlash where
  suitable : Bool := true
  active   : Nat := 0
  trial    : Option Nat := none
  slotA    : Slot := {}
  slotB    : Slot := {}
  counter  : Nat := 1
  ctrAuth  : Bool := true
  map      : RepairMap := {}
  mapAuth  : Bool := true
  keys     : Vector KeySlot 8 := Vector.replicate 8 {}
deriving DecidableEq, Repr

/-- Boot progress and the `IMG_` registers. `mode` is `IMG_STATUS.MODE`; `trySlot` the slot being tried, `tried` those that failed; `done` the boot steps completed among 7, 8
and 9, which run in parallel (Table 2-6); `bootAt` when the boot began; `linkRate` (1 to 5: 2.5 to 32 GT/s) and `linkWidth` what the host link has trained to (R231). -/
structure Boot where
  step    : Nat := 0
  mode    : Nat := 0
  ready   : Bool := false
  failA   : Nat := 0
  failB   : Nat := 0
  rebuilt : Bool := false
  slot    : Nat := 0
  trySlot : Nat := 0
  tried   : List Nat := []
  isTrial : Bool := false
  image   : Option Image := none
  imgRead : Bool := false
  done    : List Nat := []
  mapRead : Bool := false
  mapGood : Bool := false
  running : RepairMap := {}
  testing : Bool := false
  testAt  : Nat := 0
  bootAt  : Nat := 0
  testCyc : Nat := 0
  hostUp  : Bool := false
  linkRate : Nat := 0
  linkWidth : Nat := 0
  drain   : W64 := 0x00000000000493E0
  liveTok : Option Tok := none
  liveQ   : List PtnSection := []
  liveSlot : Nat := 0
  liveWait : List (Tok × Nat × List PtnSection) := []
  after   : List (Tok × Sqe) := []
  stopped : Bool := false
deriving DecidableEq, Repr

/-- One SPDM connection per transport (R40). -/
structure Spdm where
  version : Bool := false
  caps    : Bool := false
  alg     : Option SigAlg := none
deriving DecidableEq, Repr, Inhabited

/-! ### The node -/

/-- Everything but time, the host's memory and the queue of waiting commands. `mapOver` are the `FUNCTION_MAP` mappings in force; `serial` and `free` are the model's own
counters: the next command serial and the next free value. `hbAt` is the cycle of the last heartbeat. -/
structure Node where
  pins    : Pins := {}
  boot    : Boot := {}
  bflash  : BootFlash := {}
  spdmI3c : Spdm := {}
  spdmVdm : Spdm := {}
  fns     : Vector Fn 64 := Vector.replicate 64 {}
  numVfs  : Nat := 0
  totalVfs : Nat := 0
  aptr    : Option Nat := none
  alast   : Option Nat := none
  ptns    : Vector Ptn 8 := Vector.replicate 8 {}
  cores   : Vector PCore 68 := Vector.replicate 68 {}
  reserve : Nat × Nat := (0, 0)
  bankLvl : Nat := 0
  mem     : MemSt := {}
  flash   : FlashSt := {}
  lnk     : LinkBlk := {}
  pwr     : Power := {}
  serial  : Nat := 0
  free    : Nat := 0
  hbAt    : Option Nat := none
  out     : List Out := []
deriving DecidableEq, Repr

/-- The counters of R18: `NODE_CTR`, and `PTN_CTR` of each partition the image has created; `rem` are the CTL cycles that a stop has not counted yet, below 12 (R19). -/
structure Clock where
  node : Nat := 0
  ptn  : Vector (Option Nat) 8 := Vector.replicate 8 none
  rem  : Nat := 0
deriving DecidableEq, Repr

/-- The state: the commands that wait, first in first out; the counters; the host's memory; the node. -/
structure State where
  pending : List Instr
  clk     : Clock
  host    : Mem
  node    : Node
deriving DecidableEq, Repr

/-- The factory image (R39, log 6): one partition over all logical cores, stacks and tier-2 channels, no virtual function, `SEC_VER` 1, the one graph that serves k = 10 and nprobe = 32
without SCORE, and the rule that mounts what the cartridges hold. -/
def factoryGraph : Graph :=
  { stages := [
    { kind := .route, par := toLe 2 32 ++ toLe 2 64 ++ [4, 0] ++ toLe 2 256 ++ toLe 2 8 ++ List.replicate 54 0, succ := [1] },
    { kind := .rinse, par := toLe 2 50 ++ [16, 32, 128, 1] ++ toLe 2 256 ++ List.replicate 56 0, succ := [2] },
    { kind := .press, par := toLe 4 2048 ++ List.replicate 60 0, succ := [3] },
    { kind := .select, par := toLe 4 10 ++ List.replicate 60 0, succ := [] }] }
def factoryImage : Image :=
  { sections := 2, flags := 1, secVer := 1, imageVer := 1
    dir := [{ kind := 1, ptn := 0, digest := 1 }, { kind := 2, ptn := 0, digest := 2 }]
    node :=
      { map := { cores := 0xFFFFFFFFFFFFFFFF, stks := 0xFF, valid := true, t2 := 0x0FFF, threads := 4194304 } :: List.replicate 7 {}
        fnMap := 0 :: List.replicate 63 0xFF, totalVfs := 63, numVfs := 0, digest := 1 }
    parts := [{ ptn := 0, graphs := [(0, factoryGraph)], sapPool := 4096, mountAll := true, digest := 2 }] }

/-- The node right after reset, `PERST_N` asserted and nothing powered up by the node: the boot flash holds the factory image in slot A and slot B is erased (R39). -/
def State.reset : State :=
  { pending := []
    clk := {}
    host := []
    node := { bflash := { slotA := { image := some factoryImage } } } }

end Sys2Proof.Machine
end

