-- ==== Sys2Proof/Machine/Flags.lean ====
section
/-! DEFINITION. Status values (Table 11-13), attention codes (Table 11-14), fault kinds (Table 13-7), partition counters
(Tables 4-14, 5-9, 6-13, 7-14, 8-9, 9-21, 13-23), and the numbers of states and modes that registers show. -/

namespace Sys2Proof.Machine

/-! Command status, Table 11-13. -/
def stSuccess : Nat := 0x000
def stShort : Nat := 0x001
def stMergeIncomplete : Nat := 0x002
def stSuperseded : Nat := 0x003
def stDataPoison : Nat := 0x004
def stInvalidOpcode : Nat := 0x100
def stInvalidField : Nat := 0x101
def stNoSession : Nat := 0x102
def stBusy : Nat := 0x103
def stNoSpace : Nat := 0x104
def stIdExists : Nat := 0x105
def stNotFound : Nat := 0x106
def stSaplingFull : Nat := 0x107
def stCollUnavail : Nat := 0x108
def stFormatLevel : Nat := 0x109
def stGenStale : Nat := 0x10A
def stSwapTimeout : Nat := 0x10B
def stModelUnavail : Nat := 0x10C
def stTableUnavail : Nat := 0x10D
def stObjectSealed : Nat := 0x10E
def stFrozen : Nat := 0x10F
def stCartRO : Nat := 0x110
def stImageRejected : Nat := 0x111
def stAuthFailed : Nat := 0x112
def stDataLost : Nat := 0x200
def stSanitiseFailed : Nat := 0x201
def stAborted : Nat := 0x300
def stPtnReset : Nat := 0x301
def stHostAccess : Nat := 0x400

/-- `RESULT` of `ST_INVALID_FIELD` (R255): offset and where it lies. -/
def badField (off where_ : Nat) : Nat := off % 65536 + 65536 * where_

/-! Attention codes, Table 11-14. -/
def attnFault : Nat := 1
def attnWithdrawn : Nat := 2
def attnOwnership : Nat := 3
def attnCartridge : Nat := 4
def attnMemory : Nat := 5
def attnWear : Nat := 6
def attnLink : Nat := 7
def attnPower : Nat := 8
def attnImage : Nat := 9
def attnDurability : Nat := 10
def attnHost : Nat := 11

/-! Fault kinds, Table 13-7. -/
def fkThreadHang : Nat := 1
def fkCoreHang : Nat := 2
def fkQueueHang : Nat := 3
def fkCoreFault : Nat := 4
def fkContextUe : Nat := 5
def fkMemory : Nat := 6
def fkCommanded : Nat := 7
def fkDrainLimit : Nat := 8
def fkSpare : Nat := 9
def fkWithdrawn : Nat := 10
def fkOwnership : Nat := 11
def fkDurability : Nat := 12
/-- Kinds that count (R296). -/
def fkCounted (k : Nat) : Bool := decide (1 ≤ k ∧ k ≤ 5)

/-! Message kinds (Table 12-6) and classes (Table 12-4). -/
def mkFanout : Nat := 0x01
def mkPartial : Nat := 0x02
def mkClosure : Nat := 0x03
def mkAck : Nat := 0x04
def mkReject : Nat := 0x05
def mkMirror : Nat := 0x06
def mkSnap : Nat := 0x07
def mkRecRead : Nat := 0x08
def mkRecData : Nat := 0x09
def mkOwnRelease : Nat := 0x0A
def mkOwnClaim : Nat := 0x0B
def mkOwnState : Nat := 0x0C
def mkPing : Nat := 0x0D
def mkPingReply : Nat := 0x0E
def msgClass (kind : Nat) : Nat :=
  if kind = 0x0A ∨ kind = 0x0B ∨ kind = 0x0C then 0
  else if kind = 0x04 ∨ kind = 0x03 ∨ kind = 0x05 then 1
  else if kind = 0x01 then 2
  else if kind = 0x02 then 3
  else if kind = 0x06 then 4
  else if kind = 0x07 then 5
  else if kind = 0x08 ∨ kind = 0x09 then 6
  else 7
/-- Acknowledged kinds (Table 12-6). -/
def msgAcked (kind : Nat) : Bool := kind == 0x06 || kind == 0x07 || kind == 0x0A || kind == 0x0B || kind == 0x0C

/-! Partition counters. -/
inductive PtnCtr where
  | queries | visits | nbPasses | lanePasses | short
  | convValues | clipValues | pressUnits | pressN8 | layerUnits | layerN8 | forcedN8 | badScale | degenerate
  | mergeSteps | mergeIncomplete | mergeLate | superseded | dups | mergeBad
  | mdlTasks | mdlBatches | mdlTokens | mdlStall | scoreMissing
  | poolIndices | poolFetches | prefetchHits | canopyHits | canopyMisses | embRecords | embAdds | migrations
  | migAbandoned | embPoison | embOverflow
  | memCe | memUe | memPoisonRd | drnActs | drnHeld | pagePromote | pageDemote | t2Saved
  | faults | resetsCounted | wdFired | mirrorBytes | durHeld | snapshots | snapFailed | frozen
deriving DecidableEq, Repr

/-- Register offsets within the partition's page, in the order of `PtnCtr`. -/
def ptnCtrOffs : List Nat :=
  [0x010, 0x018, 0x020, 0x028, 0x030,
   0x048, 0x050, 0x058, 0x060, 0x068, 0x070, 0x078, 0x080, 0x088,
   0x090, 0x098, 0x0A0, 0x0A8, 0x0B0, 0x1C8,
   0x0C0, 0x0C8, 0x0D0, 0x0D8, 0x0E0] ++
  [0x0F0, 0x0F8, 0x180, 0x188, 0x190, 0x198, 0x1A0, 0x1A8,
   0x1B0, 0x1B8, 0x1C0,
   0x408, 0x410, 0x418, 0x420, 0x428, 0x430, 0x438, 0x440,
   0x5A0, 0x5A8, 0x5B0, 0x5B8, 0x5C0, 0x5C8, 0x5D0, 0x5D8]
/-- Position of a counter in `Ptn.ctrs`. -/
def PtnCtr.idx (c : PtnCtr) : Nat := c.ctorIdx

/-! Codes that registers show. -/
/-- Table 11-22. -/
def QState.code : QState → Nat
  | .active => 1
  | .resetting => 2
  | .error => 3
/-- Table 13-4. -/
def PtnSt.code : PtnSt → Nat
  | .absent => 0
  | .inService => 1
  | .resetting => 2
  | .withdrawn => 3
  | .restoring => 4
  | .loading => 5
/-- Table 14-1. -/
def NPow.code : NPow → Nat
  | .run => 0
  | .idle => 1
  | .rest => 2
  | .sleep => 3
  | .off => 4
  | .entering => 5
  | .waking => 6
  | .wakeHold => 7
/-- Table 14-2. -/
def PPow.code : PPow → Nat
  | .on => 0
  | .gated => 1
  | .off => 2
  | .entering => 3
  | .waking => 4
/-- Table 12-2. -/
def LinkSt.code : LinkSt → Nat
  | .off => 0
  | .train => 1
  | .negotiate => 2
  | .active => 3
  | .degraded => 4
  | .retrain => 5
  | .mismatch => 6
  | .down => 7
/-- Table 1-5. -/
def CoreSt.code : CoreSt → Nat
  | .inService => 0
  | .spare => 1
  | .draining => 2
  | .filling => 3
  | .retired => 4
/-- Table 10-12. -/
def CartSt.code : CartSt → Nat
  | .empty => 0
  | .identifying => 1
  | .active => 2
  | .readOnly => 3
  | .foreign => 4
  | .releasing => 5
  | .released => 6
  | .failed => 7
/-- Table 13-15, `STATE`. -/
def Holder.code : Holder → Nat
  | .owned => 0
  | .releasing => 1
  | .released => 2
  | .claiming => 3
  | .frozen => 4
/-- Table 2-4. -/
def StageKind.code : StageKind → Nat
  | .encode => 1
  | .route => 2
  | .rinse => 3
  | .press => 4
  | .select => 5
  | .merge => 6
  | .score => 7
  | .pool => 8
  | .update => 9
  | .other c => c

end Sys2Proof.Machine
end

