-- ==== Sys2Proof/Machine/Operands.lean ====
section
/-! DEFINITION. Operand forms: submission entries (Table 11-7) with the fields each command uses (Table 11-12), completion
entries (Table 11-8), message headers (Table 12-5), fault records (Table 13-6). -/

namespace Sys2Proof.Machine

/-! ### Submission entries -/

/-- The 64 bytes of an entry, read by Table 11-7. -/
def sqeOf (bs : List Byte) : Sqe :=
  { opc := leAt bs 0x00 1, flags := leAt bs 0x01 1, cid := leAt bs 0x02 2, target := leAt bs 0x04 2, rsvA := leAt bs 0x06 2
    addr0 := leAt bs 0x08 8, addr1 := leAt bs 0x10 8, arg0 := leAt bs 0x18 8, arg1 := leAt bs 0x20 8
    arg2 := leAt bs 0x28 8, arg3 := leAt bs 0x30 8, rsvB := leAt bs 0x38 8 }

/-- A row of Table 11-12: opcode, marks S, PF and D, and the bits of each entry field that the command uses. -/
structure Row where
  opc    : Nat
  s      : Bool := false
  pf     : Bool := false
  d      : Bool := false
  flags  : Nat := 0
  target : Nat := 0
  addr0  : Bool := false
  addr1  : Bool := false
  arg0   : Nat := 0
  arg1   : Nat := 0
  arg2   : Nat := 0
  arg3   : Nat := 0
deriving DecidableEq, Repr

def m8 : Nat := 0xFF
def m16 : Nat := 0xFFFF
def m32 : Nat := 0xFFFFFFFF
def m64 : Nat := 0xFFFFFFFFFFFFFFFF

namespace Rows
def queueCreate : Row := { opc := 0x01, target := m16, addr0 := true, addr1 := true, arg0 := 0x0FFFFF03FFFFFFFF, arg1 := 0xFFFF00FF }
def queueDelete : Row := { opc := 0x02, target := m16 }
def queueReset : Row := { opc := 0x03, target := m16 }
def sessionOpen : Row := { opc := 0x04, addr0 := true, addr1 := true, arg0 := 0x107 }
def sessionClose : Row := { opc := 0x05 }
def sessionKeySet : Row := { opc := 0x06, s := true, pf := true, addr0 := true, arg0 := 0x107 }
def attnAck : Row := { opc := 0x07, arg0 := 0xFFFFFFFFFFFF }
def imageWrite : Row := { opc := 0x10, s := true, pf := true, addr0 := true, arg0 := m64, arg1 := m64, arg2 := m64 }
def imageVerify : Row := { opc := 0x11, s := true, pf := true, arg0 := m64 }
def imageSelect : Row := { opc := 0x12, s := true, pf := true, arg0 := m64 }
def imageCommit : Row := { opc := 0x13, s := true, pf := true }
def partitionImageLoad : Row := { opc := 0x14, s := true, pf := true, arg0 := m64, arg1 := m8 }
def collectionCreate : Row := { opc := 0x20, s := true, addr0 := true }
def collectionDrop : Row := { opc := 0x21, s := true, target := m16, flags := 2 }
def generationSwap : Row := { opc := 0x22, s := true, target := m16, arg0 := m64, arg1 := m64 }
def generationDiscard : Row := { opc := 0x23, s := true, target := m16, arg0 := m64 }
def collectiveDefine : Row := { opc := 0x24, s := true, addr0 := true }
def modelLoad : Row := { opc := 0x25, s := true, target := m16, addr0 := true, arg0 := m64, addr1 := true }
def tableCreate : Row := { opc := 0x26, s := true, addr0 := true }
def tableDrop : Row := { opc := 0x27, s := true, target := m16 }
def objectAlloc : Row := { opc := 0x30, s := true, target := m16, arg0 := m64, arg1 := m64 }
def objectFree : Row := { opc := 0x31, s := true, target := m16 }
def objectPolicy : Row := { opc := 0x32, s := true, target := m16, arg1 := m64 }
def flashAlloc : Row := { opc := 0x33, s := true, arg0 := m32, arg1 := m64, arg2 := 0xF, flags := 2 }
def flashFree : Row := { opc := 0x34, s := true, arg0 := m32, flags := 2 }
def cartRelease : Row := { opc := 0x35, s := true, pf := true, target := m16, flags := 2 }
def cartAdopt : Row := { opc := 0x36, s := true, pf := true, target := m16, flags := 2 }
def partitionReset : Row := { opc := 0x40, s := true, pf := true, target := m16 }
def partitionRestore : Row := { opc := 0x41, s := true, pf := true, target := m16 }
def functionMap : Row := { opc := 0x42, s := true, pf := true, arg0 := m64, arg1 := m64 }
def spareEngage : Row := { opc := 0x43, s := true, pf := true, arg0 := 0x3, arg1 := 0x1FFF }
def faultLogRead : Row := { opc := 0x44, target := m16, addr0 := true, arg0 := m64, arg1 := m64 }
def ownershipRelease : Row := { opc := 0x45, s := true, target := m16, arg0 := 1, arg1 := m64, arg2 := 0x7FFFFFFFF }
def ownershipClaim : Row := { opc := 0x46, s := true, target := m16, flags := 2, arg0 := 1, arg1 := m64, arg2 := 0x7FFFFFFFF, arg3 := m64 }
def ownershipResolve : Row := { opc := 0x47, s := true, target := m16, arg0 := 1, arg1 := m64, arg2 := 0x7FFFFFFFF, arg3 := m64 }
def snapshotTake : Row := { opc := 0x48, s := true, target := m16, arg0 := 0x103, arg1 := 0x7FFFFFFFF, arg2 := 0x7FFFFFFFF, arg3 := m64 }
def powerSet : Row := { opc := 0x50, s := true, pf := true, arg0 := m64 }
def partitionPower : Row := { opc := 0x51, s := true, pf := true, target := m16, arg0 := m64 }
def search : Row := { opc := 0x80, addr0 := true }
def audit : Row := { opc := 0x81, addr0 := true, arg0 := m64 }
def insert : Row := { opc := 0x82, d := true, target := m16, arg0 := m64, arg1 := m64, arg2 := 0xFFFFFFFF000FFFFF, arg3 := m8, addr0 := true }
def delete : Row := { opc := 0x83, d := true, target := m16, arg0 := m64 }
def upsert : Row := { insert with opc := 0x84 }
def shardExport : Row := { opc := 0x85, target := m16, addr0 := true, arg0 := m64, arg1 := m64 }
def generationLoad : Row := { opc := 0x86, target := m16, addr0 := true, arg0 := m64, arg1 := m64, flags := 2 }
def pool : Row := { opc := 0x90, addr0 := true }
def update : Row := { opc := 0x91, d := true, addr0 := true }
def tableWrite : Row := { opc := 0x92, d := true, target := m16, addr0 := true, arg0 := m64, arg1 := m64 }
def tableRead : Row := { opc := 0x93, target := m16, addr0 := true, arg0 := m64, arg1 := m64 }
def objectWrite : Row := { opc := 0xA0, target := m16, addr0 := true, arg0 := m64, arg1 := m64 }
def objectRead : Row := { opc := 0xA1, target := m16, addr0 := true, arg0 := m64, arg1 := m64 }
def flashWrite : Row := { opc := 0xA2, d := true, arg0 := m32, arg1 := m64, arg2 := m64, addr0 := true }
def flashRead : Row := { opc := 0xA3, arg0 := m32, arg1 := m64, arg2 := m64, addr0 := true }
def discard : Row := { opc := 0xA4, d := true, arg0 := m32, arg1 := m64, arg2 := m64 }
def secureDiscard : Row := { opc := 0xA5, d := true, arg0 := m32, arg1 := m64, arg2 := m64 }
end Rows

/-- Table 11-12: the commands there are. -/
def rowsA : List Row :=
  [Rows.queueCreate, Rows.queueDelete, Rows.queueReset, Rows.sessionOpen, Rows.sessionClose, Rows.sessionKeySet, Rows.attnAck,
   Rows.imageWrite, Rows.imageVerify, Rows.imageSelect, Rows.imageCommit, Rows.partitionImageLoad, Rows.collectionCreate,
   Rows.collectionDrop, Rows.generationSwap, Rows.generationDiscard, Rows.collectiveDefine, Rows.modelLoad, Rows.tableCreate,
   Rows.tableDrop, Rows.objectAlloc, Rows.objectFree, Rows.objectPolicy, Rows.flashAlloc, Rows.flashFree, Rows.cartRelease,
   Rows.cartAdopt, Rows.partitionReset, Rows.partitionRestore, Rows.functionMap]
def rowsB : List Row :=
  [Rows.spareEngage, Rows.faultLogRead, Rows.ownershipRelease, Rows.ownershipClaim, Rows.ownershipResolve, Rows.snapshotTake,
   Rows.powerSet, Rows.partitionPower, Rows.search, Rows.audit, Rows.insert, Rows.delete, Rows.upsert, Rows.shardExport,
   Rows.generationLoad, Rows.pool, Rows.update, Rows.tableWrite, Rows.tableRead, Rows.objectWrite, Rows.objectRead,
   Rows.flashWrite, Rows.flashRead, Rows.discard, Rows.secureDiscard]
def rowOf (opc : Nat) : Option Row := (rowsA ++ rowsB).find? (fun r => r.opc == opc)

/-- The opcode check of R253 for queue pair `qid` of function `fn`: reserved, on the wrong kind of queue, or PF on a virtual
function. -/
def opcodeOk (fn qid opc : Nat) : Bool :=
  match rowOf opc with
  | none => false
  | some r => (decide (opc < 0x80) == (qid == 0)) && (!r.pf || fn == 0)

/-- The entry check of R241 and R246: the offset of a non-zero reserved or unused field (log 10: the lowest offset). -/
def entryBad (r : Row) (e : Sqe) : Option Nat :=
  let outside (v m : Nat) : Bool := v &&& (m64 - m) != 0
  if outside e.flags (r.flags + b2n r.d) then some 0x01
  else if outside e.target r.target then some 0x04
  else if e.rsvA ≠ 0 then some 0x06
  else if !r.addr0 && e.addr0 != 0 then some 0x08
  else if !r.addr1 && e.addr1 != 0 then some 0x10
  else if outside e.arg0 r.arg0 then some 0x18
  else if outside e.arg1 r.arg1 then some 0x20
  else if outside e.arg2 r.arg2 then some 0x28
  else if outside e.arg3 r.arg3 then some 0x30
  else if e.rsvB ≠ 0 then some 0x38
  else none

/-- Bit i of the entry's flags. -/
def Sqe.flag (e : Sqe) (i : Nat) : Bool := e.flags.testBit i
def Sqe.durable (e : Sqe) : Bool := e.flags.testBit 0

/-! ### Completion entries -/

/-- Table 11-8. -/
def cqeBytes (result sqHead qid : Nat) (hb phase : Bool) (cid attn : Nat) (delayed : Bool) (status : Nat) : List Byte :=
  toLe 8 result ++ toLe 2 sqHead ++ toLe 2 (qid % 8192 + 8192 * b2n hb + 32768 * b2n phase) ++ toLe 2 cid ++
    toLe 2 (status % 2048 + 2048 * b2n delayed + 4096 * attn)

/-! ### Messages -/

/-- The header of Table 12-5. -/
def hdrBytes (m : Msg) : List Byte :=
  toLe 4 m.dst.toNat ++ toLe 4 m.src.toNat ++ toLe 1 m.kind ++ toLe 1 m.level ++ toLe 1 m.hops ++
  toLe 1 (m.srcPtn % 8 + 16 * (m.dstPtn % 8)) ++ toLe 2 (b2n m.resend + 2 * b2n m.lastSeg) ++ toLe 2 0 ++
  toLe 4 m.body.length ++ toLe 4 (m.segment % 2 ^ 24) ++ toLe 8 m.seq
/-- A message from its bytes: header, then `LEN` bytes. -/
def msgOf (bs : List Byte) : Msg :=
  { dst := BitVec.ofNat 32 (leAt bs 0 4), src := BitVec.ofNat 32 (leAt bs 4 4), kind := leAt bs 8 1, level := leAt bs 9 1
    hops := leAt bs 10 1, srcPtn := leAt bs 11 1 % 8, dstPtn := leAt bs 11 1 / 16 % 8
    resend := leAt bs 12 2 % 2 == 1, lastSeg := leAt bs 12 2 / 2 % 2 == 1
    segment := leAt bs 20 4 % 2 ^ 24, seq := leAt bs 24 8, body := slice bs 32 (leAt bs 16 4) }
/-- Flits of one segment (R264). -/
def flitsOf (m : Msg) : Nat := cdiv (32 + m.body.length) 232
/-- A flit (Table 12-3): header, payload padded with zeros, CRC-32C and parity (log 20). -/
def flitBytes (fseq fack credit ftype : Nat) (payload : List Byte) : List Byte :=
  let b := toLe 2 fseq ++ toLe 2 fack ++ toLe 1 credit ++ toLe 1 ftype ++ toLe 2 0 ++ (payload ++ List.replicate (232 - payload.length) 0)
  let b := b ++ toLe 4 (crc32c b).toNat
  b ++ toLe 12 (Config.flitParity b).toNat
/-- The segments of a message (R268): pieces of 65,536 bytes, numbered from 0, `LAST_SEG` on the last. -/
def segments : Nat → Nat → Msg → List Msg
  | 0, i, m => [{ m with segment := i, lastSeg := true }]
  | n + 1, i, m =>
    if m.body.length ≤ 65536 then [{ m with segment := i, lastSeg := true }]
    else { m with segment := i, lastSeg := false, body := m.body.take 65536 } ::
      segments n (i + 1) { m with body := m.body.drop 65536 }

/-! ### Fault records -/

/-- Table 13-6. -/
def faultBytes (r : FaultRec) : List Byte :=
  toLe 8 r.seq ++ toLe 8 r.ctr ++ toLe 1 r.kind ++ toLe 1 (b2n r.reset + 2 * b2n r.counted + 4 * b2n r.withdrew) ++
  toLe 2 r.fn ++ toLe 2 r.queue ++ toLe 2 r.cid ++ toLe 4 r.thread ++ toLe 1 r.stage ++ toLe 1 r.lcore ++ toLe 1 r.pcore ++
  toLe 1 r.dop ++ toLe 8 r.addr ++ toLe 4 r.place ++ toLe 4 0 ++ toLe 8 r.d1 ++ toLe 8 r.d2

end Sys2Proof.Machine
end

