-- ==== Sys2Proof/Machine/Places.lean ====
section
/-! DEFINITION. Where flash data lies: cartridges, objects striped over them (R203, R212), block sets on their dies, the one-bit buffer, and when writes to a cartridge are throttled
(R217, R219). -/

namespace Sys2Proof.Machine

def getCart (n : Node) (s : Nat) : Cart := vget n.flash.carts s
/-- The slot serves reads (R206). -/
def Cart.serves (c : Cart) : Bool := (c.st == .active || c.st == .readOnly || c.st == .releasing) && c.known
def activeSlots (n : Node) : List Nat := (List.range 4).filter (fun s => (getCart n s).st == .active)
/-- Slot that serves the cartridge of this serial. -/
def slotSerial (n : Node) (serial : Nat) : Option Nat := (List.range 4).find? (fun s => (getCart n s).serves && (getCart n s).serial == serial)

/-- Blocks of an object on its j-th cartridge: whole runs of 16. -/
def objShare (o : FObj) (j : Nat) : Nat :=
  let k := max 1 o.carts.length
  16 * ((cdiv o.blocks 16 + k - 1 - j) / k)
/-- Position in the mask, and block on that cartridge, of an object's block. -/
def objPlace (o : FObj) (b : Nat) : Nat × Nat :=
  let k := max 1 o.carts.length
  (b / 16 % k, b / 16 / k * 16 + b % 16)
def fobj (n : Node) (o : Nat) : Option FObj := mget n.flash.objs o
/-- Slot of the cartridge on which a block lies. -/
def slotOfBlk (n : Node) (o : Nat) (b : Nat) : Option Nat := match fobj n o with
  | none => none
  | some x => (x.carts[(objPlace x b).1]?).bind (slotSerial n)
/-- The slots that serve an object's cartridges. -/
def objSlots (n : Node) (o : Nat) : List Nat := (((fobj n o).map (·.carts)).getD []).filterMap (slotSerial n)
/-- The next block from `b` on that lies on an ACTIVE cartridge: the node places no new data on another (R208). -/
def nextBlk (n : Node) (o b : Nat) : Nat :=
  ((List.range 64).find? (fun k => (slotOfBlk n o (b + k)).any (fun s => (getCart n s).st == .active))).elim b (b + ·)

/-! Block sets -/

def dieOf (i : Nat) : Nat := i / 4967
def setCount : Nat := 635776
def getSet (c : Cart) (i : Nat) : BSet := (mget c.sets i).getD {}
/-- Sectors of a block set. -/
def setCap (b : BSet) : Nat := if b.qlc then 24576 else 6144
/-- Free block sets of a die. -/
def freeOnDie (c : Cart) (d : Nat) : Nat := 4967 - (c.sets.filter (fun x => dieOf x.1 == d && x.2.phase != 0)).length

/-! The one-bit buffer (R217) -/

/-- Sectors in the one-bit buffer, those on their way included; a retired set is no part of it. -/
def onebitFill (n : Node) (s : Nat) : Nat :=
  (n.flash.copies.filter (fun c => c.cart == s && c.onebit && decide (c.set_ < setCount) && (getSet (getCart n s) c.set_).phase != 3)).length +
  (n.flash.progs.filter (fun g => g.2.cart == s && g.2.onebit && g.2.why != .journal)).length
/-- Sectors that the buffer of a cartridge may hold. -/
def onebitLimit (n : Node) : Nat := 156250000 * fld n.flash.cfg 0 8 / 100
/-- A staged sector goes to one-bit blocks: all but the non-durable writes to a `DENSE` object. -/
def toOnebit (n : Node) (x : Staged) : Bool := x.dur || !((fobj n x.obj).map (·.dense)).getD false
/-- Writes to the cartridge are throttled: one-bit writes wait for a full buffer (R217), or a write waits for a die that is short of free sets (R219). -/
def throttled (n : Node) (s : Nat) : Bool :=
  let c := getCart n s
  let mine := n.flash.stage.filter (fun x => slotOfBlk n x.obj x.blk == some s)
  c.st == .active && ((decide (onebitLimit n ≤ onebitFill n s) && mine.any (toOnebit n)) || mine.any (fun x => x.die.any (fun d => decide (freeOnDie c d < 2))))

end Sys2Proof.Machine
end

