-- ==== Sys2Proof/Machine/Ops.lean ====
section
/-! DEFINITION. Named operations that the families share: time and host memory around a step (R18, R19, R233), completions
and attention (R239, R242, R248), power transitions that events cause (R327, R332, R334), the arbiters and the policer
(R243, R275), the fetch and its checks (R371), fault records (R290). -/

namespace Sys2Proof.Machine

/-! ### Parts of the node -/

def getFn (n : Node) (f : Nat) : Fn := vget n.fns f
def modFn (f : Nat) (g : Fn → Fn) (n : Node) : Node := { n with fns := vmod n.fns f g }
def getP (n : Node) (p : Nat) : Ptn := vget n.ptns p
def modP (p : Nat) (g : Ptn → Ptn) (n : Node) : Node := { n with ptns := vmod n.ptns p g }
def getQ (n : Node) (f q : Nat) : Option Queue := mget (getFn n f).queues q
def modQ (f q : Nat) (g : Queue → Queue) (n : Node) : Node := modFn f (fun x => { x with queues := mmod x.queues q g }) n
def modPwr (g : Power → Power) (n : Node) : Node := { n with pwr := g n.pwr }
def modLnk (g : LinkBlk → LinkBlk) (n : Node) : Node := { n with lnk := g n.lnk }
def modBoot (g : Boot → Boot) (n : Node) : Node := { n with boot := g n.boot }
def modMem (g : MemSt → MemSt) (n : Node) : Node := { n with mem := g n.mem }
def modFls (g : FlashSt → FlashSt) (n : Node) : Node := { n with flash := g n.flash }
def emit (o : Out) (n : Node) : Node := { n with out := n.out ++ [o] }
/-- Adds `k` to a partition counter. -/
def count (p : Nat) (c : PtnCtr) (k : Nat) (n : Node) : Node :=
  modP p (fun x => { x with ctrs := vmod x.ctrs c.idx (· + BitVec.ofNat 64 k) }) n
/-- `PTN_CTR` of a partition (R18). -/
def pctr (clk : Clock) (p : Nat) : Nat := (vget clk.ptn p).getD 0
def imgProto (n : Node) : Nat := match n.boot.image with
  | some i => i.proto
  | none => 0
def imgFmt (n : Node) : Nat := match n.boot.image with
  | some i => i.fmt
  | none => 0
/-- Functions mapped to a partition (R283, R284). -/
def fnsOf (n : Node) (p : Nat) : List Nat := (List.range 64).filter (fun f => (getFn n f).map == some p)
/-- Next free value (the model's own counter). -/
def nextFree (n : Node) : Nat × Node := (n.free, { n with free := n.free + 1 })
/-- Elements of a list that are `some`. -/
def foldNode {α : Type} (l : List α) (g : α → Node → Node) (n : Node) : Node := l.foldl (fun n x => g x n) n

/-! ### Time and host memory around a step -/

/-- True while the CTL clock is stopped and the always-on domain counts (R19, R345). -/
def ctlStopped (n : Node) : Bool :=
  n.pwr.st == .sleep || n.pwr.st == .off || n.boot.stopped || (n.pwr.st == .waking && n.pwr.target == 3 && n.pwr.padHeld)
/-- Counters after `dt` more CTL cycles (R18, R19): held at zero while `PERST_N` is asserted, in steps of 12 across a stop, whose last part of an AON cycle counts for nothing. -/
def Clock.advance (n : Node) (c : Clock) (dt : Nat) : Clock :=
  if !n.pins.perst then c
  else
    let t := c.rem + dt
    let (d, r) := if ctlStopped n then (12 * (t / 12), t % 12) else (dt, 0)
    { node := c.node + d, ptn := c.ptn.map (fun o => o.map (· + d)), rem := r }
/-- Host stores applied in order. -/
def storeAll (m : Mem) (l : List (Nat × List Byte)) : Mem := l.foldl (fun m x => Mem.writeN m x.1 x.2) m
/-- The node's writes to host memory applied in order (R233). -/
def deliver (m : Mem) (l : List Out) : Mem :=
  l.foldl (fun m o => match o with
    | .data a bs => Mem.writeN m a bs
    | .cqe _ _ a bs => Mem.writeN m a bs
    | _ => m) m

/-- The issue cap in force (R341): the lowest of its causes. -/
def capOf (w : Power) : Nat := min w.capSust (min w.capPeak (min w.capExc (min w.capTherm w.capAvs)))
/-- A hold of R317 is in force in the partition. -/
def durHeldP (x : Ptn) : Bool := x.colls.any (fun c => c.2.dur.held) || x.tbls.any (fun t => t.2.dur.held)

/-- Colour of the next command of a queue of class `cls` under a policer (Tables 12-10 and 12-11): 0 green, 1 yellow, 2 red. -/
def colour (x : Pol) (cls : Nat) : Nat :=
  let blind := if x.tp < 65536 then 2 else if x.tc < 65536 then 1 else 0
  match fld x.cfg 58 2 with
  | 0 => 0
  | 1 => blind
  | _ =>
    let pre := fld x.cfg (56 - 2 * cls) 2
    if pre = 2 then 2 else if pre = 1 then (if x.tp < 65536 then 2 else 1) else blind
/-- A queue of this class is admitted (R275). -/
def admitted (x : Pol) (cls : Nat) : Bool :=
  let c := colour x cls
  c == 0 || (c == 1 && !bit x.cfg 60)
/-- Tokens taken and colours counted at a grant. -/
def takeTokens (x : Pol) (cls : Nat) : Pol :=
  if fld x.cfg 58 2 = 0 then { x with green := x.green + 1 }
  else if colour x cls = 0 then { x with tc := x.tc - 65536, tp := x.tp - 65536, green := x.green + 1 }
  else { x with tp := x.tp - 65536, yellow := x.yellow + 1 }

/-- Function `f` holds an unfetched I/O command and no queue of it is admitted. -/
def polHeld (n : Node) (f : Nat) : Bool :=
  let qs := ((getFn n f).queues.filter (fun x => x.1 != 0 && x.2.sqHead != x.2.sqTail)).map (·.2)
  !qs.isEmpty && qs.all (fun q => !admitted (vget n.lnk.pols f) q.cls)

/-- Counters of cycles over `d` CTL cycles: `PTN_DUR_HELD`, `PTN_MDL_STALL`, `FLS_THROTTLE`, `PWR_CAP_CYCLES`, `PWR_GATE_CYCLES`,
`QOS_POL_HELD`; and how long each partition has held no live thread and no outstanding command of its functions (R327). A streamed layer stalls from the end of the one before until its
record is in the window (R154). -/
def tick (clk : Clock) (d : Nat) (n : Node) : Node :=
  let w := BitVec.ofNat 64
  let stall (p : Nat) (x : Ptn) : Nat :=
    (x.batches.map (fun b => match mget x.mdls b.2.model with
      | some m => if m.nextRec ≠ 0 then min d (pctr clk p - b.2.ends.getLast?.getD b.2.at_) else 0
      | none => 0)).foldl max 0
  let busy (p : Nat) (x : Ptn) : Bool :=
    !x.ctxs.isEmpty || !x.gather.isEmpty || n.fns.toList.any (fun f => f.map == some p && f.queues.any (fun q => !q.2.cmds.isEmpty))
  { n with
    ptns := n.ptns.mapIdx (fun p x => { x with
      idleFor := if busy p x then 0 else x.idleFor + d
      svc := if x.st == .inService && x.pow == .on then x.svc + d else x.svc
      ctrs := vmod (vmod x.ctrs PtnCtr.durHeld.idx (· + w (if durHeldP x then d else 0))) PtnCtr.mdlStall.idx (· + w (stall p x)) })
    pwr := { n.pwr with
      w1cSets := if d = 0 then n.pwr.w1cSets else []
      capCyc := n.pwr.capCyc + w (if capOf n.pwr < 16 then d else 0)
      gateCyc := n.pwr.gateCyc + w (d * (n.ptns.toList.filter (fun x => x.st != .absent && x.pow == .gated)).length) }
    flash := { n.flash with carts := n.flash.carts.mapIdx (fun s c => if throttled n s then { c with throttle := c.throttle + d } else c) }
    lnk := { n.lnk with pols := n.lnk.pols.mapIdx (fun f x => { x with held := x.held + w (if polHeld n f then d else 0) }) } }

/-- The node as a step finds it: no output yet, and the errors that its memory has taken since (log 109). -/
def takeEnv (e : Env) (n : Node) : Node := { n with out := [], mem := { n.mem with errs := n.mem.errs ++ e.errs } }
/-- One step: time passes, the host's own stores land, the body runs, the node's writes reach host memory; `fix` corrects
the counters that the command itself sets (R18). -/
def runClk (fix : Clock → Node → Clock) (e : Env) (body : Clock → Mem → Node → Node) (s : State) : State :=
  let clk := s.clk.advance s.node e.dt
  let host := storeAll s.host e.host
  let n := body clk host (tick clk (clk.node - s.clk.node) (takeEnv e s.node))
  { s with clk := fix clk n, host := deliver host n.out, node := n }
def runState : Env → (Clock → Mem → Node → Node) → State → State := runClk (fun c _ => c)
/-- Out of reset with its clocks running: what is not of the always-on domain happens only then (R19, R332, R344, R345, R357). -/
def alive (n : Node) : Bool := n.pins.perst && !ctlStopped n
/-- The meaning of a command of the always-on domain, or of one that arrives whatever runs, made from its body. -/
def runAon (e : Env) (body : Clock → Mem → Node → Node) (s : State) : Host.Outcome State Fault Refusal :=
  .next (runState e body s)
/-- A meaning made from its body. -/
def run (e : Env) (body : Clock → Mem → Node → Node) (s : State) : Host.Outcome State Fault Refusal :=
  .next (runState e (fun clk host n => if alive n then body clk host n else n) s)
/-- A body that uses neither time nor host memory. -/
def pureBody (g : Node → Node) : Clock → Mem → Node → Node := fun _ _ n => g n

/-! ### Attention (R248) -/

/-- The lowest pending code; 0 when none is pending. -/
def attnOf (f : Fn) : Nat := ((List.range 16).find? (fun i => f.attn.getLsbD i)).getD 0
def raiseAt (code f : Nat) (n : Node) : Node :=
  modFn f (fun x => { x with attn := x.attn ||| BitVec.ofNat 16 (2 ^ code), attnSeq := x.attnSeq + 1 }) n
/-- An event at the partition's functions and the physical function. -/
def raisePtn (code p : Nat) (n : Node) : Node := foldNode (nubNat (0 :: fnsOf n p)) (raiseAt code) n
/-- An event at every enabled function. -/
def raiseAll (code : Nat) (n : Node) : Node :=
  foldNode ((List.range 64).filter (fun f => (getFn n f).enabled)) (raiseAt code) n

/-! ### Completions (R238, R239, R242) -/

/-- Posted and not released. -/
def Queue.unreleased (q : Queue) : Nat := (q.cqTail + (q.cqSize + 1) - q.cqHead) % (q.cqSize + 1)
/-- R238: the pair takes one more fetched command. -/
def Queue.room (q : Queue) : Bool := decide (q.cmds.length + q.unreleased < q.cqSize)
/-- The function sends MSI-X messages: enabled, not masked as a whole, and not in D3hot, in which it posts nothing (R232). -/
def msixOpen (x : Fn) : Bool := x.msixCtl.getLsbD 15 && !x.msixCtl.getLsbD 14 && x.dst != .d3hot
/-- Sends or pends an MSI-X vector; `hold` keeps it for step 8 of a partition reset (R294). -/
def raiseVec (f vec : Nat) (hold : Bool) (n : Node) : Node :=
  let x := getFn n f
  if hold then modFn f (fun x => { x with heldV := nubNat (vec :: x.heldV), pend := nubNat (vec :: x.pend) }) n
  else if msixOpen x && x.unmasked.contains vec then emit (.msix f vec) n
  else modFn f (fun x => { x with pend := nubNat (vec :: x.pend) }) n
/-- Pending vectors that nothing masks or holds any more are sent. -/
def sendPend (f : Nat) (n : Node) : Node :=
  let x := getFn n f
  let go := if msixOpen x then x.pend.filter (fun v => x.unmasked.contains v && !x.heldV.contains v) else []
  foldNode go (fun v n => emit (.msix f v) n) (modFn f (fun x => { x with pend := x.pend.filter (fun v => !go.contains v) }) n)
/-- R294: a message of this pair is held by the reset of its function's partition. -/
def msixHeld (n : Node) (f qid : Nat) : Bool :=
  match (getFn n f).map with
  | some p => (getP n p).run.isSome && (qid != 0 || f != 0)
  | none => false
/-- Raises the vector of an I/O completion queue and starts its count again. -/
def signal (f qid : Nat) (n : Node) : Node :=
  match getQ n f qid with
  | none => n
  | some q => raiseVec f q.vector (msixHeld n f qid) (modQ f qid (fun q => { q with unsig := 0, unsigAt := none }) n)
/-- Writes one completion entry at the tail and raises the vector by R239. -/
def putCqe (clk : Clock) (f qid sqHead : Nat) (hb : Bool) (cid : Nat) (delayed : Bool) (status result : Nat) (n : Node) : Node :=
  match getQ n f qid with
  | none => n
  | some q =>
    let attn := attnOf (getFn n f)
    let bs := cqeBytes result sqHead qid hb q.phase cid attn delayed status
    let last := q.cqTail == q.cqSize
    let n := emit (.cqe f qid (q.cqBase + 16 * q.cqTail) bs) n
    let n := modQ f qid (fun q => { q with
      cqTail := if last then 0 else q.cqTail + 1, phase := q.phase != last
      unsig := q.unsig + 1, unsigAt := some (q.unsigAt.getD clk.node) }) n
    if qid = 0 then (if hb && attn == 0 then n else raiseVec f 0 (msixHeld n f 0) n)
    else if q.ien && (decide (max 1 q.aggCount ≤ q.unsig + 1) || q.aggUs == 0) then signal f qid n
    else n
/-- The partition of a function was just active: its idle time starts again (R327). -/
def touch (f : Nat) (n : Node) : Node :=
  match (getFn n f).map with
  | some p => modP p (fun x => { x with idleFor := 0 }) n
  | none => n
/-- The node sets W1C bit `b` of the register at BAR2 offset `off` in this CTL cycle (R8). -/
def noteSet (off b : Nat) (n : Node) : Node :=
  modPwr (fun w => { w with w1cSets := if w.w1cSets.contains (off, b) then w.w1cSets else w.w1cSets ++ [(off, b)] }) n
/-- A function's shut-down ends with its last outstanding command; a recorded enable brings it back (R333). -/
def settleD (f : Nat) (n : Node) : Node :=
  let x := getFn n f
  if x.queues.any (fun q => !q.2.cmds.isEmpty) then n
  else match x.dst with
    | .draining true => noteSet 0x80038 f (modPwr (fun w => { w with fnDelayed := w.fnDelayed ||| BitVec.ofNat 64 (2 ^ f) }) (modFn f (fun x => { x with dst := .d0 }) n))
    | .draining false => modFn f (fun x => { x with dst := .d3hot }) n
    | _ => n
/-- Service time of a function's partition (R288). -/
def svcOf (n : Node) (f : Nat) : Nat := match (getFn n f).map with
  | some p => (getP n p).svc
  | none => 0
/-- Completes a fetched command. -/
def post (clk : Clock) (t : Tok) (status result : Nat) (n : Node) : Node :=
  match getQ n t.fn t.qid with
  | none => n
  | some q =>
    match q.cmds.find? (fun c => c.serial == t.serial) with
    | none => n
    | some c =>
      let (st, rs) := c.fixed.getD (status, result)
      settleD t.fn (touch t.fn (putCqe clk t.fn t.qid c.sqHead false c.cid c.delayed st rs
        (modQ t.fn t.qid (fun q => { q with cmds := q.cmds.filter (fun c => c.serial != t.serial), lastPost := svcOf n t.fn }) n)))
/-- Completes a command that may be absent. -/
def postO (clk : Clock) (t : Option Tok) (status result : Nat) (n : Node) : Node :=
  match t with
  | some t => post clk t status result n
  | none => n
/-- Completes with the invalid-field status (R255). -/
def invalid (clk : Clock) (t : Tok) (off where_ : Nat) (n : Node) : Node := post clk t stInvalidField (badField off where_) n
/-- The fetched command of a token. -/
def cmdOf (n : Node) (t : Tok) : Option Cmd := (getQ n t.fn t.qid).bind (fun q => q.cmds.find? (fun c => c.serial == t.serial))
/-- Marks what `RESULT` bits 0 and 1 say if the command is ended early (R244). -/
def markCmd (t : Tok) (committed partialEff : Bool) (n : Node) : Node :=
  let g (c : Cmd) : Cmd := { c with committed := c.committed || committed, partialEff := c.partialEff || partialEff }
  modQ t.fn t.qid (fun q => { q with cmds := modAll (fun c => c.serial == t.serial) g q.cmds }) n
def markCmdO (t : Option Tok) (committed partialEff : Bool) (n : Node) : Node :=
  match t with
  | some t => markCmd t committed partialEff n
  | none => n

/-! ### Fault records (R290) -/

/-- Writes a record into the fault log: the latest 4,096 stay. -/
def addFault (clk : Clock) (p : Nat) (r : FaultRec) (n : Node) : Node :=
  count p .faults 1 (modP p (fun x =>
    { x with
      faultSeq := x.faultSeq + 1
      faults := (x.faults ++ [{ r with seq := x.faultSeq + 1, ctr := pctr clk p }]).drop (x.faults.length + 1 - 4096) }) n)

/-! ### Power transitions that events cause -/

/-- R327: IDLE exactly while no partition is On. -/
def settleIdle (n : Node) : Node :=
  let on := n.ptns.toList.any (fun x => x.st != .absent && x.pow == .on)
  if n.pwr.st == .run && !on then modPwr (fun w => { w with st := .idle }) n
  else if n.pwr.st == .idle && on then modPwr (fun w => { w with st := .run }) n
  else n
def ungate (p : Nat) (n : Node) : Node :=
  if (getP n p).pow == .gated then settleIdle (modP p (fun x => { x with pow := .on, idleFor := 0 }) n) else n
/-- A completion carries `PWR_DELAYED`. -/
def delayCmd (t : Tok) (n : Node) : Node :=
  modQ t.fn t.qid (fun q => { q with cmds := modAll (fun c => c.serial == t.serial) (fun c => { c with delayed := true }) q.cmds }) n
/-- R332: an entry to a partition's Off is abandoned before its commit point. An enable recorded meanwhile is done with. -/
def abandonPtn (clk : Clock) (p : Nat) (n : Node) : Node :=
  let x := getP n p
  if x.pow == .entering && n.pwr.st != .entering then
    let n := postO clk x.shutTok stBusy 1 (modPwr (fun w => { w with abandons := w.abandons + 1 })
      (modP p (fun x => { x with pow := .on, shutTok := none, enPend := false, wakeTok := [], idleFor := 0 }) n))
    settleIdle (foldNode x.wakeTok (fun t n => post clk t stSuccess 0 (delayCmd t n)) n)
  else n
/-- R332: a node entry is abandoned before its commit point; every partition returns to its state before. -/
def abandonNode (clk : Clock) (n : Node) : Node :=
  if n.pwr.st == .entering then
    let saved := n.pwr.saved
    let back (p : Nat) (x : Ptn) : Ptn := { x with pow := saved.getD p x.pow }
    let n1 := { n with
      ptns := if n.pwr.fromRest then n.ptns else n.ptns.mapIdx back
      pwr := { n.pwr with st := if n.pwr.fromRest then .rest else .run, target := 0, entryTok := none
                          saved := if n.pwr.fromRest then saved else [], fromRest := false, abandons := n.pwr.abandons + 1 } }
    settleIdle (postO clk n.pwr.entryTok stBusy 1 n1)
  else n

/-! ### AVSBus requests (R339) -/

/-- Lower and upper ends of the Run setpoint ranges, and retention, of Table 14-8 in mV. -/
def railLow (r : Nat) : Nat := [650, 650, 750, 700, 750, 1050].getD r 0
def railHigh (r : Nat) : Nat := [850, 850, 900, 850, 900, 1150].getD r 0
def railKeep (r : Nat) : Nat := [550, 550, 650, 0, 700, 1050].getD r 0
def getRail (n : Node) (r : Nat) : Rail := vget n.pwr.rails r
def modRail (r : Nat) (g : Rail → Rail) (n : Node) : Node := modPwr (fun w => { w with rails := vmod w.rails r g }) n
/-- One request to a rail; while another is unacknowledged it waits. -/
def requestMv (clk : Clock) (r mv : Nat) (n : Node) : Node :=
  let x := getRail n r
  if x.busy.isSome then modRail r (fun x => { x with want := mv }) n
  else if x.target = mv && x.mv == mv then n
  else emit (.avs r mv) (modRail r (fun x => { x with target := mv, busy := some clk.node, acked := false, tries := 0, want := 0 }) n)
/-- Junction temperature that a rail's setpoint follows. -/
def railTemp (n : Node) (r : Nat) : Nat := match r with
  | 0 => n.pwr.cmp0
  | 1 => n.pwr.cmp1
  | 2 => max n.pwr.cmp0 n.pwr.cmp1
  | 3 => n.pwr.iod
  | _ => (n.mem.stks.toList.map (·.temp)).foldl max 0
/-- Run setpoint of a rail: the die calibration's, within its range (log 18). -/
def runMv (r temp : Nat) : Nat := min (railHigh r) (max (railLow r) (Config.setpoint r temp))
/-- A rail is asked for the setpoint that the present temperature needs. -/
def askRun (clk : Clock) (r : Nat) (n : Node) : Node := requestMv clk r (runMv r (railTemp n r)) (modRail r (fun x => { x with need := runMv r (railTemp n r) }) n)
/-- A rail at retention, or below its Run range, is raised before what it supplies powers on. -/
def raiseRails (clk : Clock) (rs : List Nat) (n : Node) : Node :=
  foldNode rs (fun r n => if (getRail n r).target < railLow r || (railKeep r == railLow r && (getRail n r).target == railLow r) then askRun clk r n else n) n
/-- Rails that supply a partition's cores and stacks. -/
def railsOf (x : Ptn) : List Nat :=
  (if x.ent.cores.setWidth 32 == (0 : W32) then [] else [0]) ++ (if (x.ent.cores >>> 32) == 0 then [] else [1]) ++ [2, 4, 5]
/-- The rail's voltage is what was asked for, in its Run range. -/
def railUp (n : Node) (r : Nat) : Bool := let x := getRail n r
  x.busy.isNone && x.mv == x.target && decide (railLow r ≤ x.mv)

/-- A sensor reads 110 °C: `THERMTRIP_N` is asserted and the root PLL stops (R344). -/
def trip (temp : Nat) (n : Node) : Node :=
  if temp < 110 || !n.pins.perst || n.boot.stopped then n
  else
    let n := modPwr (fun w => { w with tripped := true, tripLast := sat 8 temp, rootLock := false }) { n with pins := { n.pins with thermtrip := false } }
    modBoot (fun b => { b with stopped := true }) n

/-! ### Waking (R334) -/

/-- An OFF partition starts to wake. -/
def wakePtn (clk : Clock) (p : Nat) (n : Node) : Node :=
  if (getP n p).pow == .off && (n.pwr.st == .run || n.pwr.st == .idle) then
    raiseRails clk (railsOf (getP n p)) (modPwr (fun w => { w with wakes := w.wakes + 1 }) (modP p (fun x => { x with pow := .waking, shutAt := pctr clk p }) n))
  else n
/-- Rails come back: from SLEEP by their enables, after the minimum off time; from REST by requests. -/
def powerUp (clk : Clock) (from_ : Nat) (n : Node) : Node :=
  if n.pwr.target = 3 then { n with pins := { n.pins with vrEn := 8, vrPg := 0, vrAt := from_, vrRetry := false } }
  else raiseRails clk [0, 1, 2, 4, 5] n
/-- The node starts to wake from REST or SLEEP. -/
def wakeNode (clk : Clock) (doorbell : Bool) (n : Node) : Node :=
  if (n.pwr.st == .rest || n.pwr.st == .sleep) && !n.pwr.wakeFail then
    powerUp clk (max clk.node (n.pwr.commitAt + 300000))
      (modPwr (fun w => { w with st := .waking, target := if w.st = .sleep then 3 else 2, entryAt := clk.node, wakeTry := 0, wakeDb := doorbell, wakes := w.wakes + 1 }) n)
  else n
/-- A doorbell to a queue of a function of partition `p`, or a link message to `p`, meets an entry, a gate or Off (Table 14-5, R327, R333, R334). -/
def rouse (clk : Clock) (p : Nat) (n : Node) : Node :=
  if n.pwr.st == .entering then abandonNode clk n
  else
    let x := getP n p
    match x.pow with
    | .gated => ungate p n
    | .entering => if x.enPend then n else abandonPtn clk p n
    | .off => wakePtn clk p n
    | _ => n

/-! ### Thread contexts (R87) -/

/-- Gives a thread the first free context. -/
def addCtx (p : Nat) (c : Ctx) (n : Node) : Nat × Node :=
  let x := getP n p
  let i := (firstFree x.ctxs 0 (x.ctxs.length + 1)).getD 0
  (i, modP p (fun x => { x with ctxs := mset x.ctxs i c }) n)
/-- The context of a thread that works for a command. -/
def threadCtx (clk : Clock) (p kind st : Nat) (t : Option Tok) (n : Node) : Ctx :=
  { kind := kind, st := st, fn := (t.map (·.fn)).getD 0xFFFF, queue := (t.map (·.qid)).getD 0xFFFF, cid := ((t.bind (cmdOf n)).map (·.cid)).getD 0xFFFF, since := pctr clk p }
/-- Contexts not FREE: threads, and list visits that wait in the gather table (Table 4-10). -/
def liveCtx (x : Ptn) : Nat :=
  x.ctxs.foldl (fun a c => a + c.2.count) 0 + x.gather.foldl (fun a e => a + e.members.length) 0
/-- The index of no context. -/
def noCtx : Nat := 0xFFFFFFFF
/-- Gives a thread, or the threads of a group, free contexts; where none is free they wait for one (R88). -/
def takeCtx (p : Nat) (c : Ctx) (n : Node) : Option (Nat × Node) :=
  let k := (getP n p).share - liveCtx (getP n p)
  if k = 0 then none else some (addCtx p { c with count := min c.count k } n)
def delCtx (p i : Nat) (n : Node) : Node := modP p (fun x => { x with ctxs := mdel x.ctxs i }) n
/-- Frees the contexts of one kind whose parent is this thread. -/
def delKids (p i kind : Nat) (n : Node) : Node := modP p (fun x => { x with ctxs := x.ctxs.filter (fun c => !(c.2.parent == i && c.2.kind == kind)) }) n
/-- A thread makes progress and enters state `st` (Table 4-10). -/
def stepCtx (clk : Clock) (p i st : Nat) (n : Node) : Node :=
  modP p (fun x => { x with ctxs := mmod x.ctxs i (fun c => { c with st := st, progress := (c.progress + 1) % 2 ^ 32, since := pctr clk p }) }) n

/-! ### Arbitration (R243) and fetch -/

/-- Ring order: by function, then by queue number. -/
def refLt (a b : Nat × Nat) : Bool := decide (a.1 < b.1) || (a.1 == b.1 && decide (a.2 < b.2))
/-- The first reference after a pointer, wrapping; the first of all for an unset pointer. -/
def nextAfter (ptr : Option (Nat × Nat)) (l : List (Nat × Nat)) : Option (Nat × Nat) :=
  match ptr with
  | none => l.head?
  | some r => match l.find? (refLt r) with
    | some x => some x
    | none => l.head?
/-- The partition's I/O fetching is not stopped, by R37, R88, a reset or its power state. -/
def ptnFetches (n : Node) (p : Nat) : Bool :=
  let x := getP n p
  n.boot.ready && (n.pwr.st == .run || n.pwr.st == .idle) &&
    (x.st == .withdrawn ||
      (x.st == .inService && (x.pow == .on || x.pow == .gated) && decide (liveCtx x + 16384 ≤ x.share)))
/-- The pair has an entry that may be fetched. -/
def pairReady (x : Fn) (q : Queue) : Bool :=
  x.enabled && x.dst == .d0 && q.st == .active && q.sqHead != q.sqTail && q.room
/-- I/O pairs of the partition's functions in ring order: (function, queue, pair). -/
def ioPairs (n : Node) (p : Nat) : List (Nat × Nat × Queue) :=
  ((fnsOf n p).map (fun f => ((getFn n f).queues.filter (fun x => x.1 != 0)).map (fun x => (f, x.1, x.2)))).flatten
/-- Eligible pairs of class `c`. -/
def eligible (n : Node) (p c : Nat) : List (Nat × Nat) :=
  ((ioPairs n p).filter (fun x => x.2.2.cls == c && pairReady (getFn n x.1) x.2.2 && admitted (vget n.lnk.pols x.1) c)).map
    (fun x => (x.1, x.2.1))
def Arb.cred (a : Arb) : Nat → Nat
  | 0 => a.credH
  | 1 => a.credM
  | _ => a.credL
def Arb.setCred (a : Arb) (c v : Nat) : Arb := match c with
  | 0 => { a with credH := v }
  | 1 => { a with credM := v }
  | _ => { a with credL := v }
def Arb.ptr (a : Arb) : Nat → Option (Nat × Nat)
  | 0 => a.ptrH
  | 1 => a.ptrM
  | _ => a.ptrL
def Arb.setPtr (a : Arb) (c : Nat) (r : Nat × Nat) : Arb := match c with
  | 0 => { a with ptrH := some r }
  | 1 => { a with ptrM := some r }
  | _ => { a with ptrL := some r }
def setArb (p : Nat) (a : Arb) (n : Node) : Node := modP p (fun x => { x with arb := a }) n
def pairCredit (n : Node) (r : Nat × Nat) : Nat := match getQ n r.1 r.2 with
  | some q => q.credit
  | none => 0
/-- `arbitrate(p)` of R243: the pair granted and the node with pointers and credits updated. Classes 0 High, 1 Medium, 2 Low
here are `CLASS` 1, 2, 3. -/
def arbitrate (n : Node) (p : Nat) : Option ((Nat × Nat) × Node) :=
  let a := (getP n p).arb
  match nextAfter a.uptr (eligible n p 0) with
  | some r => some (r, setArb p { a with uptr := some r } n)
  | none =>
    let c := [0, 1, 2].filter (fun c => !(eligible n p (c + 1)).isEmpty)
    if c.isEmpty then none
    else
      let a := if c.all (fun k => a.cred k == 0) then
          { a with inUse := a.cfg, credH := fld a.cfg 0 8, credM := fld a.cfg 8 8, credL := fld a.cfg 16 8 } else a
      let order := [(a.cptr + 1) % 3, (a.cptr + 2) % 3, a.cptr]
      match order.find? (fun k => c.contains k && decide (a.cred k > 0)) with
      | none => none
      | some k =>
        let a := { a.setCred k (a.cred k - 1) with cptr := k }
        let el := eligible n p (k + 1)
        let n := if el.all (fun r => pairCredit n r == 0) then
            foldNode ((ioPairs n p).filter (fun x => x.2.2.cls == k + 1))
              (fun x n => modQ x.1 x.2.1 (fun q => { q with credit := q.weight }) n) n else n
        match nextAfter (a.ptr k) (el.filter (fun r => decide (pairCredit n r > 0))) with
        | none => none
        | some r => some (r, setArb p (a.setPtr k r) (modQ r.1 r.2 (fun q => { q with credit := q.credit - 1 }) n))

/-- Recovery mode (R33). -/
def recovery (n : Node) : Bool := n.boot.mode == 1
/-- The partition is off or waking while the node runs: an admin command that names it waits for its wake (R334). -/
def ptnAsleep (n : Node) (p : Nat) : Bool := ((getP n p).pow == .off || (getP n p).pow == .waking) && (n.pwr.st == .run || n.pwr.st == .idle)
/-- Functions whose admin pair may be fetched, in order (R32, R243); the arbiter passes over one that waits for a wake. -/
def adminReady (n : Node) : List Nat :=
  (List.range 64).filter (fun f =>
    (match getQ n f 0 with
      | some q => pairReady (getFn n f) q && !(q.waitP.any (ptnAsleep n))
      | none => false) &&
    (n.boot.ready || (recovery n && f == 0)) &&
    (n.pwr.st == .run || n.pwr.st == .idle || n.pwr.st == .rest || n.pwr.st == .entering))
/-- The grant of this cycle to pair `q`: `none` when the arbiter does not serve it now. -/
def grant (clk : Clock) (q : QRef) (n : Node) : Option Node :=
  if q.qid = 0 then
    if n.alast == some clk.node then none
    else match nextAfter (n.aptr.map (fun f => (f, 0))) ((adminReady n).map (fun f => (f, 0))) with
      | some r => if r.1 = q.fn then some { n with aptr := some q.fn, alast := some clk.node } else none
      | none => none
  else match (getFn n q.fn).map with
    | none => none
    | some p =>
      if ptnFetches n p && (getP n p).arb.last != some clk.node then
        match arbitrate n p with
        | some (r, n1) =>
          if r = (q.fn, q.qid) then
            let cls := match getQ n q.fn q.qid with
              | some x => x.cls
              | none => 0
            some (modLnk (fun l => { l with pols := vmod l.pols q.fn (fun x => takeTokens x cls) })
              (modP p (fun x => { x with arb := { x.arb with last := some clk.node } }) n1))
          else none
        | none => none
      else none

/-- The entry at index `i` was submitted by a doorbell that met an entry or a wake (R247). -/
def Queue.isDelayed (q : Queue) (i : Nat) : Bool :=
  let d := q.sqSize + 1
  q.delay.any (fun r => decide ((i + d - r.1) % d < (r.2 + d - r.1) % d))
/-- The bytes of the next entry of a pair. -/
def nextEntry (host : Mem) (q : Queue) : Sqe := sqeOf (Mem.readN host (q.sqBase + 64 * q.sqHead) 64)
/-- Fetches the next entry: the head moves, the command is outstanding. -/
def takeEntry (clk : Clock) (host : Mem) (r : QRef) (q : Queue) (n : Node) : Tok × Node :=
  let e := nextEntry host q
  let head := (q.sqHead + 1) % (q.sqSize + 1)
  ({ fn := r.fn, qid := r.qid, serial := n.serial },
    { modQ r.fn r.qid (fun q => { q with
        sqHead := head
        waitP := none
        delay := q.delay.filter (fun r => r.2 != head)
        cmds := q.cmds ++ [{ serial := n.serial, cid := e.cid, opc := e.opc, entry := e, sqHead := head, at_ := clk.node, svcAt := svcOf n r.fn
                             delayed := q.isDelayed q.sqHead }] }) n with
      serial := n.serial + 1 })

/-- What a host command does once its checks pass. -/
abbrev Job := Clock → Mem → Tok → Sqe → Node → Node

/-- The opcodes that recovery mode runs (R253). -/
def recoveryOpc (opc : Nat) : Bool := opc == 0x10 || opc == 0x11 || opc == 0x12 || opc == 0x04

/-- A host command: fetch by R243 and R238, then the checks of R371 in order. `mine` says whether an entry of this opcode is this
row's; `chk` gives the offset of an entry field the command itself finds invalid; `ptn` names the partition whose object an admin
command names or makes (R298, R334). -/
def hostCmd (r : Row) (mine : Sqe → Bool) (chk : Node → Nat → Sqe → Option Nat) (ptn : Node → Nat → Sqe → Option Nat)
    (job : Job) (q : QRef) (clk : Clock) (host : Mem) (n : Node) : Node :=
  match getQ n q.fn q.qid, grant clk q n with
  | some qu, some n1 =>
    let e := nextEntry host qu
    let bad := !opcodeOk q.fn q.qid e.opc || (recovery n && !recoveryOpc e.opc)
    if !bad && !(e.opc == r.opc && mine e) then n
    else
      let at_ : Option Nat := if q.qid = 0 then ptn n q.fn e else (getFn n q.fn).map
      let asleep : Bool := match at_ with
        | some p => q.qid == 0 && !bad && ptnAsleep n p
        | none => false
      if asleep then
        let p := at_.getD 0
        let n := modQ q.fn q.qid (fun x => { x with waitP := some p }) n
        if (getP n p).pow = .off then wakePtn clk p (modQ q.fn q.qid (fun x => { x with delay := x.delay ++ [(x.sqHead, x.sqTail)] }) n) else n
      else
        let (t, n2) := takeEntry clk host q qu n1
        let n2 := match at_ with
          | some p => ungate p n2
          | none => n2
        if bad then post clk t stInvalidOpcode 0 n2
        else if r.s && (getFn n q.fn).session.isNone then post clk t stNoSession 0 n2
        else match (entryBad r e).orElse (fun _ => chk n q.fn e) with
          | some off => invalid clk t off 0 n2
          | none =>
            let wd : Bool := match at_ with
              | some p => (getP n p).st == .withdrawn
              | none => false
            if wd then post clk t stPtnReset 0 n2 else job clk host t e n2
  | _, _ => n

/-- Check and partition functions of a command that has none of its own. -/
def noChk : Node → Nat → Sqe → Option Nat := fun _ _ _ => none
def noPtn : Node → Nat → Sqe → Option Nat := fun _ _ _ => none
def anyEntry : Sqe → Bool := fun _ => true

end Sys2Proof.Machine
end

