-- ==== Sys2Proof/Machine/Egress.lean ====
section
/-! DEFINITION. Sending and receiving messages: routes (R261, R262), levels (R270), shapers (R272 to R274), the flits that leave
a link (R264 to R267), acknowledged kinds (R269), and what an arriving message meets (R271, R332, R334). -/

namespace Sys2Proof.Machine

def getL (n : Node) (l : Nat) : Link := vget n.lnk.links l
def modL (l : Nat) (g : Link → Link) (n : Node) : Node := modLnk (fun b => { b with links := vmod b.links l g }) n
/-- Element `i` of a list changed. -/
def lmod {α : Type} : List α → Nat → (α → α) → List α
  | [], _, _ => []
  | x :: xs, 0, g => g x :: xs
  | x :: xs, i + 1, g => x :: lmod xs i g
/-- Adds to a counter of Table 12-24: node-wide (0 NOROUTE, 1 HOPLIMIT, 2 LEVEL_REJECT, 3 UNDELIVERABLE, 4 RESENDS, 5 OFFLINK). -/
def countLnk (i k : Nat) (n : Node) : Node := modLnk (fun b => { b with counts := lmod b.counts i (· + k) }) n
/-- Per link: 0 FLITS_TX, 1 FLITS_RX, 2 REPLAYS, 3 FEC_CORR, 4 CRC_ERR, 5 RETRAINS, 6 LOST, 7 STALL. -/
def countL (l i k : Nat) (n : Node) : Node := modL l (fun x => { x with counts := lmod x.counts i (· + k) }) n
/-- Message flits are sent on the link (R373). -/
def Link.carries (x : Link) : Bool := x.st == .active || x.st == .degraded

/-! ### Routes (R262) -/

/-- The valid route entry of a destination. -/
def routeOf (n : Node) (dst : W32) : Option W64 :=
  match mget n.lnk.routes (dst.toNat % 4096) with
  | some w => if bit w 7 && fld w 32 32 == dst.toNat then some w else none
  | none => none
/-- ACTIVE and DEGRADED links of a bundle, ascending. -/
def bundleLinks (n : Node) (b : Nat) : List Nat :=
  if b < 6 then ((List.range 6).map (6 * b + ·)).filter (fun l => (getL n l).carries) else []
/-- Link number within the bundle's usable links. -/
def spread (m : Msg) (k : Nat) : Nat :=
  if k = 0 then 0
  else ((mix (BitVec.ofNat 64 (m.dst.toNat * 2 ^ 32 + m.src.toNat) ^^^ BitVec.ofNat 64 (msgClass m.kind))).toNat) % k
/-- Link and pool of a message by a route entry, or none (R262 steps 2 to 4). -/
def pickBy (via : Option W64) (n : Node) (m : Msg) : Option (Nat × Nat) :=
  match via with
  | none => none
  | some w =>
    let a := bundleLinks n (fld w 8 4)
    let b := bundleLinks n (fld w 12 4)
    if !a.isEmpty then (a[spread m a.length]?).map (fun l => (l, b2n (bit w 16)))
    else (b[spread m b.length]?).map (fun l => (l, b2n (bit w 17)))
def pickLink (n : Node) (m : Msg) : Option (Nat × Nat) := pickBy (routeOf n m.dst) n m

/-! ### Flits out (R264 to R267) -/

/-- The first waiting message of class `c` whose pool has a credit: its position. -/
def nextOf (x : Link) (c : Nat) : Option Nat :=
  let ok (e : EgMsg) : Bool := msgClass e.m.kind == c && decide (x.credits.getD (2 * c + e.pool) 0 > 0)
  let i := (x.waiting.takeWhile (fun e => !ok e)).length
  if i < x.waiting.length then some i else none
/-- The class that sends the next flit: 0, then 1, then weighted round robin over 2 to 7 (R267). -/
def nextClass (tc : W64) (x : Link) : Option (Nat × Link) :=
  if (nextOf x 0).isSome then some (0, x)
  else if (nextOf x 1).isSome then some (1, x)
  else
    let c := (List.range 6).filter (fun i => (nextOf x (i + 2)).isSome)
    if c.isEmpty then none
    else
      let x := if c.all (fun i => x.wcred.getD i 0 == 0) then { x with wcred := (List.range 6).map (fun i => fld tc (8 * i) 8) } else x
      let order := (List.range 6).map (fun i => (x.wptr + 1 + i) % 6)
      match order.find? (fun i => c.contains i && decide (x.wcred.getD i 0 > 0)) with
      | none => none
      | some i => some (i + 2, { x with wptr := i, wcred := lmod x.wcred i (· - 1) })
/-- `FACK`: the last flit received good, and whether there was one. -/
def fackOf (x : Link) : Nat := if x.rxAny then 32768 + (x.rxSeq + 4095) % 4096 else 0
/-- `CREDIT` of the next flit, up to 15 credits of the first class and pool that has some to return, and what is still to return then (log 24). -/
def nextOwed (o : List Nat) : Nat × List Nat :=
  let i := (o.takeWhile (· == 0)).length
  let k := min 15 (o.getD i 0)
  (if k = 0 then 0 else i / 2 + 8 * (i % 2) + 16 * k, lmod o i (· - k))
/-- `FTYPE` of the next flit of a message. -/
def ftypeOf (e : EgMsg) : Nat := (if e.sent = 0 then 1 else 2) + 4 * b2n (decide (flitsOf e.m ≤ e.sent + 1)) + 8 * msgClass e.m.kind + 64 * e.pool
/-- Sends one flit after another while a class has a credit and the replay buffer has room (2,048 flits). Answers the link and what left it: flits, and each message with its last one. -/
def pumpFlits (now : Nat) (tc : W64) (l : Nat) : Nat → Link → List Out → Link × List Out
  | 0, x, done => (x, done)
  | k + 1, x, done =>
    if !x.carries || decide (2048 ≤ x.replay.length) then (x, done)
    else match nextClass tc x with
      | none => (x, done)
      | some (c, x) =>
        match nextOf x c with
        | none => (x, done)
        | some i =>
          match x.waiting[i]? with
          | none => (x, done)
          | some e =>
            let last := decide (flitsOf e.m ≤ e.sent + 1)
            let data := slice (hdrBytes e.m ++ e.m.body) (232 * e.sent) 232
            let go := done ++ [.flit l (flitBytes x.txSeq (fackOf x) (nextOwed x.owed).1 (ftypeOf e) data)]
            let x := { x with
              owed := (nextOwed x.owed).2
              credits := lmod x.credits (2 * c + e.pool) (· - 1)
              stallAt := if x.credits.getD (2 * c + e.pool) 0 = 1 then lmod x.stallAt (2 * c + e.pool) (fun _ => now) else x.stallAt
              replay := x.replay ++ [{ fseq := x.txSeq, mseq := e.m.seq, cls := c, at_ := now, ftype := ftypeOf e, data := data }]
              txSeq := (x.txSeq + 1) % 4096
              counts := lmod x.counts 0 (· + 1)
              waiting := if last then x.waiting.eraseIdx i else lmod x.waiting i (fun e => { e with sent := e.sent + 1 }) }
            pumpFlits now tc l k x (if last then go ++ [.msg l e.m] else go)
def pump (clk : Clock) (l : Nat) (n : Node) : Node :=
  let (x, done) := pumpFlits clk.node n.lnk.tcCfg l 2048 (getL n l) []
  foldNode done emit (modL l (fun _ => x) n)
/-- An idle flit, which carries `FACK` and the credits still to return (R264); none where none are left (log 24). -/
def idleFlit (l : Nat) (n : Node) : Node :=
  let x := getL n l
  if x.owed.all (· == 0) then n
  else emit (.flit l (flitBytes x.txSeq (fackOf x) (nextOwed x.owed).1 0 [])) (modL l (fun x => { x with owed := (nextOwed x.owed).2 }) n)

/-! ### Shaping (R272 to R274) -/

/-- The slot of a CTL cycle: slot n starts at ⌈384 n / 5⌉ (R273). -/
def slotOf (c : Nat) : Nat := 5 * c / 384
/-- A cycle that starts a refill instant. -/
def refillInstant (c : Nat) : Bool := c == cdiv (384 * slotOf c) 5 && slotOf c % 16 == 0
/-- Shaper of an owner in a class; owner 64 + p is the service owner of partition p; any other owner is unshaped. -/
def shaperOf (n : Node) (own cls : Nat) : W64 :=
  if own < 64 then (mget n.lnk.shape (8 * own + cls)).getD 0
  else if own < 72 then (mget n.lnk.svc (8 * (own - 64) + cls)).getD 0 else 0
def rateOf (w : W64) : Nat := fld w 0 32
def burstOf (w : W64) : Nat := fld w 32 24
/-- ⌈bytes / r⌉ in units of 2^-16 slot, from units of 2^-8 byte. -/
def slotsFor (w : W64) (t : Nat) : Nat := cdiv (t * 65536) (max 1 (rateOf w))
/-- `tokens(f, s)` in units of 2^-8 byte. -/
def flowTokens (w : W64) (f : Flow) (s : Nat) : Nat :=
  let b := 256 * burstOf w
  if f.fullAt ≤ 65536 * s then b else b - cdiv (rateOf w * (f.fullAt - 65536 * s)) 65536
/-- `L` of a message, in units of 2^-8 byte. -/
def lenOf (e : EgMsg) : Nat := 256 * 256 * flitsOf e.m
def flowReady (w : W64) (s : Nat) (f : Flow) (l : Nat) : Bool :=
  rateOf w == 0 ||
  match f.mode with
  | .wheel => decide (f.fullAt ≤ 65536 * s + slotsFor w (256 * burstOf w - l))
  | .bucket => decide (l ≤ f.t)
def flowSend (w : W64) (s : Nat) (f : Flow) (l : Nat) : Flow :=
  if rateOf w = 0 then f
  else match f.mode with
    | .wheel => { f with fullAt := max f.fullAt (65536 * s) + slotsFor w l }
    | .bucket => { f with t := f.t - l }
/-- Releases eligible head messages in slot `s`. -/
def flowDrain (w : W64) (s : Nat) : Nat → Flow → List EgMsg → Flow × List EgMsg
  | 0, f, out => (f, out)
  | k + 1, f, out =>
    match f.queue with
    | [] => (f, out)
    | e :: es => if flowReady w s f (lenOf e) then flowDrain w s k { flowSend w s f (lenOf e) with queue := es } (out ++ [e]) else (f, out)
/-- Enters the wheel for the head message, or falls back to BUCKET (R274). `used` counts the link's wheel entries. -/
def flowArm (w : W64) (s used : Nat) (f : Flow) : Flow :=
  match f.queue, f.mode with
  | e :: _, .wheel =>
    let at_ := f.fullAt - slotsFor w (256 * burstOf w - lenOf e)
    if at_ - 65536 * s < 4096 * 65536 ∧ used < 16384 then { f with slot := some (cdiv at_ 65536) }
    else { f with slot := none, t := flowTokens w f s, mode := .bucket }
  | _, _ => { f with slot := none }
def sameFlow (own cls l : Nat) (f : Flow) : Bool := f.owner == own && f.cls == cls && f.link == l
def putFlow (f : Flow) (n : Node) : Node :=
  modLnk (fun b => { b with flows := b.flows.filter (fun x => !sameFlow f.owner f.cls f.link x) ++ [f] }) n
/-- Sends what a flow may send in the slot of this cycle and arms it again. -/
def runFlow (clk : Clock) (f : Flow) (n : Node) : Node :=
  let w := shaperOf n f.owner f.cls
  let s := slotOf clk.node
  let (f, go) := flowDrain w s f.queue.length f []
  let used := (n.lnk.flows.filter (fun x => x.link == f.link && x.slot.isSome && !sameFlow f.owner f.cls f.link x)).length
  pump clk f.link (modL f.link (fun x => { x with waiting := x.waiting ++ go }) (putFlow (flowArm w s used f) n))
/-- A message joins the egress queue of link `l` (R272). -/
def joinEgress (clk : Clock) (l : Nat) (e : EgMsg) (n : Node) : Node :=
  let c := msgClass e.m.kind
  if c < 2 ∨ rateOf (shaperOf n e.own c) = 0 then pump clk l (modL l (fun x => { x with waiting := x.waiting ++ [e] }) n)
  else
    let f := (n.lnk.flows.find? (sameFlow e.own c l)).getD { owner := e.own, cls := c, link := l }
    runFlow clk { f with queue := f.queue ++ [e] } n
/-- A message enters the egress of link `l`, with the route entry as it stands (R262, R272). -/
def enqueue (clk : Clock) (own pool l : Nat) (m : Msg) (n : Node) : Node :=
  joinEgress clk l { m := m, pool := pool, own := own, via := routeOf n m.dst } n

/-! ### Sending -/

/-- The node's own destination, or a route; a message without one is counted (R262). All segments take one link (R268). -/
def dispatch (clk : Clock) (own : Nat) (m : Msg) (n : Node) : Node :=
  if m.dst = n.lnk.nodeId then modLnk (fun b => { b with inbox := b.inbox ++ [(36, m)] }) n
  else match pickLink n m with
    | none => countLnk 0 1 n
    | some (l, pool) => foldNode (segments (m.body.length / 65536) 0 m) (fun s n => enqueue clk own pool l s n) n
/-- The level of a message that is neither of a group nor an answer (R270). -/
def levelTo (n : Node) (dst : W32) : Nat :=
  match routeOf n dst with
  | some w => min (imgProto n) (fld w 20 4)
  | none => imgProto n
/-- A new message of this node: `SEQ` is the counter after its increment (R268, log 22). -/
def newMsg (n : Node) (dst : W32) (kind level sp dp : Nat) (body : List Byte) : Msg :=
  { dst := dst, src := n.lnk.nodeId, kind := kind, level := level, srcPtn := sp, dstPtn := dp, seq := n.lnk.msgSeq + 1, body := body }
def send (clk : Clock) (own : Nat) (dst : W32) (kind level sp dp : Nat) (body : List Byte) (n : Node) : Node :=
  dispatch clk own (newMsg n dst kind level sp dp body) (modLnk (fun b => { b with msgSeq := b.msgSeq + 1 }) n)
/-- An acknowledged kind: kept until its ACK (R269). -/
def sendAcked (clk : Clock) (own : Nat) (dst : W32) (kind sp dp : Nat) (body : List Byte) (for_ : AckFor) (n : Node) : Node :=
  let m := newMsg n dst kind (levelTo n dst) sp dp body
  dispatch clk own m (modLnk (fun b => { b with
    msgSeq := b.msgSeq + 1, acks := b.acks ++ [{ m := m, sends := 1, at_ := clk.node, for_ := for_ }] }) n)
/-- ACK of an acknowledged kind (Table 12-6), remembered among the 4,096 accepted from its source. -/
def ackBack (clk : Clock) (m : Msg) (n : Node) : Node :=
  let n := modLnk (fun b =>
    let old := ((b.accepted.find? (fun x => x.1 == m.src)).map (·.2)).getD []
    { b with accepted := b.accepted.filter (fun x => x.1 != m.src) ++
        [(m.src, if old.contains m.seq then old else (old ++ [m.seq]).drop (old.length + 1 - 4096))] }) n
  send clk 255 m.src mkAck 3 m.dstPtn m.srcPtn (toLe 8 m.seq) n
/-- A message passing through (R262): one more hop; one without a link is counted, and so is one that would be forwarded at `HOPS` 63. DEDUCED: the
second only where it has a link (log 66). -/
def forward (clk : Clock) (m : Msg) (n : Node) : Node :=
  match pickLink n m with
  | none => countLnk 0 1 n
  | some (l, pool) => if m.hops = 63 then countLnk 1 1 n
    else foldNode (segments (m.body.length / 65536) 0 { m with hops := m.hops + 1 }) (fun s n => enqueue clk 255 pool l s n) n
/-- LEVEL_REJECT (Table 12-6). -/
def reject (clk : Clock) (m : Msg) (n : Node) : Node :=
  send clk 255 m.src mkReject 3 m.dstPtn m.srcPtn (toLe 8 m.seq ++ toLe 1 m.kind ++ toLe 1 (imgProto n) ++ toLe 6 0) n

/-! ### Arrival -/

/-- The link delivers messages: one of the 36 in a state that carries or replays, or the on-die path (36). -/
def delivers (n : Node) (l : Nat) : Bool :=
  l == 36 || (decide (l < 36) && ((getL n l).carries || (getL n l).st == .retrain))
/-- A message is here: its link delivers it now, or delivered its last flit before. -/
def arrived (n : Node) (l : Nat) (m : Msg) : Bool := delivers n l || n.lnk.inbox.contains (l, m)
/-- Bytes that the I/O die holds for a partition (R334). -/
def heldBytes (x : Ptn) : Nat := (x.heldMsgs.map (fun m => 32 + m.2.body.length)).foldl (· + ·) 0
/-- A message addressed to partition `p` meets its state (Table 12-9, Table 14-5, R330, R334): true when it is delivered now. -/
def gateMsg (clk : Clock) (l : Nat) (m : Msg) (n : Node) : Node × Bool :=
  let p := m.dstPtn
  let x := getP n p
  let hold (n : Node) : Node :=
    if heldBytes (getP n p) + 32 + m.body.length ≤ 262144 then modP p (fun x => { x with heldMsgs := x.heldMsgs ++ [(l, m)] }) n else n
  if x.st == .absent || x.st == .resetting || x.st == .withdrawn || x.st == .restoring then (n, false)
  else if n.pwr.st == .rest then
    if bit n.pwr.ctl 17 then (wakeNode clk false (hold n), false) else (n, false)
  else if n.pwr.st == .waking || n.pwr.st == .wakeHold then (hold n, false)
  else if n.pwr.st == .sleep || n.pwr.st == .off then (n, false)
  else
    let n := if x.pow == .off && !bit n.pwr.ctl 17 then n else rouse clk p n
    match (getP n p).pow with
    | .on => (n, true)
    | .gated => (n, true)
    | .off => (n, false)
    | _ => (hold n, false)
/-- A complete message arrives for this node. True when the body's own rule applies now. Its steps: the header (R262), the
level (R270), the partition's state, a repeat of an accepted message (R269). -/
def arrive (clk : Clock) (kind l : Nat) (m : Msg) (n : Node) : Node × Bool :=
  if m.kind ≠ kind || m.dst ≠ n.lnk.nodeId || !arrived n l m || n.boot.image.isNone then (n, false)
  else
    let n := modLnk (fun b => { b with inbox := b.inbox.erase (l, m) }) n
    if imgProto n < m.level then (reject clk m n, false)
    else if kind = mkPing ∨ kind = mkPingReply then (n, true)
    else if msgAcked kind && (n.lnk.accepted.any (fun x => x.1 == m.src && x.2.contains m.seq)) then
      -- a repeat is answered and not delivered, where the partition takes messages at all
      let (n, ok) := gateMsg clk l m n
      if ok then (ackBack clk m n, false) else (n, false)
    else gateMsg clk l m n
/-- A message row: arrival, then the kind's rule. -/
def onMsg (kind l : Nat) (m : Msg) (rule : Clock → Node → Node) (clk : Clock) (_host : Mem) (n : Node) : Node :=
  let (n, ok) := arrive clk kind l m n
  if ok then rule clk n else n

end Sys2Proof.Machine
end

