-- ==== Sys2Proof/Machine/MemOps.lean ====
section
/-! DEFINITION. Memory that the families share: frames and capacity (R179, R185, Table 3-14), memory error records (R190), what
meets a bad word (R187, R188), spare rows (R303). -/

namespace Sys2Proof.Machine

/-! ### Capacity -/

/-- Frames of a tier-1 channel, and those of it that the node reserves (R179: 8,704 over 128 channels). -/
def t1Rows : Nat := 65536
def t1Reserved : Nat := 68
def t1Chans (x : Ptn) : List Nat := (List.range 128).filter (fun c => x.ent.stks.getLsbD (c / 16))
/-- Tier-2 channels of a partition that are ACTIVE. -/
def t2Chans (n : Node) (x : Ptn) : List Nat := (List.range 12).filter (fun c => x.ent.t2.getLsbD c && (vget n.mem.t2 c).st == 1)
/-- Bytes of a Sapling chunk of the reference shape: what the partition's pool holds for each chunk (log 33). -/
def chunkBytes : Nat := 28736
/-- Tier-1 and tier-2 bytes of a generation, the pool apart (Table 3-14). -/
def genBytes (d : CollDesc) (fmt : Nat) (lists : List (Nat × GList)) : Nat × Nat :=
  let e := (lists.map (fun l => l.2.body.length)).foldl (· + ·) 0
  let b := (lists.map (fun l => cdiv l.2.body.length 256)).foldl (· + ·) 0
  let c := if d.metric = 3 then skBits d.skw / 8 else d.dim
  (e * (skBits d.skw / 8 + 16) + b * (32 + (if fmt = 4 then 16 else 0)) + lists.length * (64 * cdiv (160 + c) 64 + 64),
   e * (if d.metric = 3 then 8 else d.dim / 2 + 10) + 16 * cdiv (4 * e) 3)
/-- Bytes of a layer record of `out` × `in` weights: codes, BF16 scales, padded to 64 (chapter 07). -/
def layerBytes (out inn : Nat) : Nat := 64 * cdiv (out * inn / 2 + 2 * out) 64
/-- The shapes of a model's layers, as (out, in): QKV, O, UP, DOWN of each block, then the output layer. -/
def layerShapes (d : ModelDesc) : List (Nat × Nat) :=
  ((List.range d.blocks).map (fun _ => [(3 * d.dModel, d.dModel), (d.dModel, d.dModel), (d.ffn, d.dModel), (d.dModel, d.ffn)])).flatten ++
    (if d.outDim = 0 then [] else [(d.outDim, d.dModel)])
/-- Bytes of a row table of N4 codes with BF16 scales. -/
def tokTabBytes (d : ModelDesc) (rows : Nat) : Nat := layerBytes rows d.dModel
/-- Bytes of one block's FP32 vector record: biases of the four layers, two gains and two offsets. -/
def vecBytes (d : ModelDesc) : Nat := 4 * (3 * d.dModel + d.dModel + d.ffn + d.dModel + 4 * d.dModel)
/-- Bytes of the final vector record: gain and offset of the last normalisation, and the output layer's bias. -/
def finalBytes (d : ModelDesc) : Nat := 4 * ((if d.flags % 2 = 1 then 2 * d.dModel else 0) + d.outDim)
/-- Length of a model's weight image (R150, log 34). -/
def imageBytes (d : ModelDesc) : Nat :=
  tokTabBytes d d.vocab + (if d.flags.testBit 2 then 0 else tokTabBytes d d.maxSeq) + d.blocks * vecBytes d + finalBytes d +
    ((layerShapes d).map (fun s => layerBytes s.1 s.2)).foldl (· + ·) 0
def modelOf (x : Ptn) (m : Nat) : Option ModelDesc := x.sec.bind (fun s => s.models.find? (fun d => d.model == m))
/-- Where the pieces of a copy's weight image lie: (offset in the image, bytes, object, offset there). A resident model is one object; the vector records of a streamed one stay in
tier 1 (chapter 07). -/
def modelSegs (d : ModelDesc) (m ver : Nat) : List (Nat × Nat × ObjUse × Nat) :=
  let a := tokTabBytes d d.vocab + (if d.flags.testBit 2 then 0 else tokTabBytes d d.maxSeq)
  let v := d.blocks * vecBytes d
  let l := (((layerShapes d).take (4 * d.blocks)).map (fun s => layerBytes s.1 s.2)).foldl (· + ·) 0
  let f := finalBytes d
  if d.flags.testBit 1 then
    [(0, a, .model m ver, 0), (a, v, .vectors m ver, 0), (a + v, l, .model m ver, a), (a + v + l, f, .vectors m ver, v),
     (a + v + l + f, imageBytes d - (a + v + l + f), .model m ver, a + l)]
  else [(0, imageBytes d, .model m ver, 0)]
/-- Bytes of a copy in the object of a use. -/
def modelBytes (d : ModelDesc) (m ver : Nat) (u : ObjUse) : Nat := (((modelSegs d m ver).filter (fun s => s.2.2.1 == u)).map (·.2.1)).foldl (· + ·) 0
/-- Window of a streamed model. -/
def windowBytes (d : ModelDesc) : Nat :=
  if d.flags.testBit 1 then d.window * (((layerShapes d).map (fun s => layerBytes s.1 s.2)).foldl max 0) else 0
/-- Tier-1 and tier-2 bytes of a table: home array by its `PLACE`, hot region and directory (R158). -/
def tblBytes (width rows hot : Nat) (policy : W64) : Nat × Nat :=
  let home := 4 * width * rows
  let h := 4 * width * hot + 8 * hot
  if fld policy 0 2 = 1 then (home + h, 0) else (h, home)
/-- Pages of a partition's objects. -/
def pagesOf (n : Node) (p : Nat) : List (Nat × Page) := n.mem.pages.filter (fun g => g.2.ptn == p)
/-- Sectors of 4 KiB that a page takes in tier 2. -/
def Page.size (g : Page) : Nat := if g.mode = 2 then g.sectors + 1 else 16
/-- Tier-1 frames in use by objects (Table 9-20). -/
def usedT1 (n : Node) (p : Nat) : Nat :=
  ((pagesOf n p).filter (fun g => g.2.tier == 0)).length + ((pagesOf n p).filter (fun g => g.2.mig.any (fun m => m.tier == 0))).length
/-- Tier-2 sectors of plain and compressed pages. -/
def usedT2s (n : Node) (p : Nat) : Nat :=
  ((pagesOf n p).map (fun g => (if g.2.tier = 1 then g.2.size else 0) + (if g.2.mig.any (fun m => m.tier == 1) then 16 else 0))).foldl (· + ·) 0
def usedT2 (n : Node) (p : Nat) : Nat := cdiv (usedT2s n p) 16
def capT1 (n : Node) (p : Nat) : Nat := (t1Chans (getP n p)).length * (t1Rows - t1Reserved)
/-- Frames that the node reserves at the start of each ACTIVE tier-2 channel: `RSV_T2` in equal shares (R214, log 138). -/
def t2Reserved (n : Node) : Nat := cdiv n.mem.rsvT2 (max 1 (n.mem.t2.toList.filter (fun t => t.st == 1)).length)
def capT2 (n : Node) (p : Nat) : Nat := ((t2Chans n (getP n p)).map (fun c => (vget n.mem.t2 c).gib * 16384 - t2Reserved n)).foldl (· + ·) 0
/-- Free bytes of a partition's share of each tier. -/
def freeT1 (n : Node) (p : Nat) : Nat := 65536 * (capT1 n p - usedT1 n p)
def freeT2 (n : Node) (p : Nat) : Nat := 4096 * (16 * capT2 n p - usedT2s n p)

/-- Logical blocks of a cartridge (Table 10-1), and the flash bytes that no object, generation or log record has (log 35). -/
def cartBlocks : Nat := 13671875000
def sumNat (l : List Nat) : Nat := l.foldl (· + ·) 0
/-- Blocks of 4 KiB of one original. -/
def origBlocks (d : CollDesc) : Nat := cdiv (4 * d.dim) 4096
/-- Blocks of 4 KiB that the bytes kept for another node take. -/
def keptBlocks (x : Kept) : Nat := cdiv x.bytes.length 4096
def nodeBlocks (n : Node) : Nat :=
  sumNat ((n.flash.mirrors ++ n.flash.chunks).map keptBlocks) +
  sumNat (n.ptns.toList.map (fun x =>
    sumNat (x.colls.map (fun c => c.2.log.length + c.2.orig.length * origBlocks c.2.desc)) + sumNat (x.tbls.map (fun t => t.2.log.length))))
def freeFlash (n : Node) : Nat :=
  let up := (n.flash.carts.toList.filter (fun c => c.st == .active)).length
  4096 * (up * cartBlocks - sumNat (n.flash.objs.map (fun o => o.2.blocks)) - nodeBlocks n)

/-! ### Memory error records (R190) -/

/-- Writes a MEMORY record, at most 1,024 in a second of the partition counter. `kind` is Table 9-7; `place` the higher bits of `PLACE`.
`DETAIL1` is the number of words found in the partition, this one included (log 36). -/
def memRecord (clk : Clock) (p kind addr place dop : Nat) (t : Option Tok) (thread : Nat) (n : Node) : Node :=
  let sec := pctr clk p / 300000000
  let x := getP n p
  let k := if x.memLog.1 = sec then x.memLog.2 else 0
  let n := count p (if kind = 3 then .memPoisonRd else .memUe) 1 (modP p (fun x => { x with memLog := (sec, k + 1) }) n)
  if 1024 ≤ k then n
  else
    let y := getP n p
    let words := (vget y.ctrs PtnCtr.memUe.idx).toNat + (vget y.ctrs PtnCtr.memPoisonRd.idx).toNat
    raisePtn attnMemory p (addFault clk p
      { seq := 0, ctr := 0, kind := fkMemory, fn := (t.map (·.fn)).getD 0xFFFF, queue := (t.map (·.qid)).getD 0xFFFF
        cid := ((t.bind (cmdOf n)).map (·.cid)).getD 0xFFFF, thread := thread, addr := addr, place := kind + 16 * place, dop := dop, d1 := words } n)


/-! ### Spares (R302, R303) -/

/-- Spare kinds, Table 13-12. -/
def spCore : Nat := 0
def spBank : Nat := 1
def spLane : Nat := 2
def spLink : Nat := 3
def spRow : Nat := 4
def spCtx : Nat := 5
def spSram : Nat := 6
def spFlash : Nat := 7
/-- Every spare engagement writes a SPARE record (R303). -/
def spareRecord (clk : Clock) (p kind loc : Nat) (n : Node) : Node :=
  addFault clk p { seq := 0, ctr := 0, kind := fkSpare, d1 := kind, d2 := loc } n
/-- The same for a spare of a core, which names the logical core and the physical one that holds it. -/
def spareCore (clk : Clock) (p kind loc lcore pcore : Nat) (n : Node) : Node :=
  addFault clk p { seq := 0, ctr := 0, kind := fkSpare, d1 := kind, d2 := loc, lcore := lcore, pcore := pcore } n
/-- A core's entry of the repair map: what it was recorded with before, or the core that takes its number. -/
def mapRetire (old new : Nat) (m : RepairMap) : RepairMap :=
  { m with cores := m.cores.filter (fun c => c.1 != old) ++ [(old, new)] }
/-- Records a repair in the repair map, in the boot flash and as applied (R29). -/
def recordRepair (g : RepairMap → RepairMap) (n : Node) : Node :=
  modBoot (fun b => { b with running := g b.running }) { n with bflash := { n.bflash with map := g n.bflash.map } }
/-- Location of a tier-1 row in `PLACE` and in a SPARE record: stack, channel in the stack, chain position. -/
def placeOf (chan pos : Nat) : Nat := chan / 16 + 8 * (chan % 16) + 128 * pos
/-- Spare rows left at a chain position. -/
def spareLeft (c : Chan) (pos : Nat) : Nat := (mget c.rowsUsed pos).getD 64
/-- A failing row is copied into a spare row of its bank, while one is left (R303). The DCOPY counts as one activate (log 147). -/
def spareRow (clk : Clock) (chan pos row : Nat) (n : Node) : Node :=
  let c := vget n.mem.chans chan
  if chan < 128 ∧ 0 < spareLeft c pos then
    let p := if c.ptn < 8 then c.ptn else 0
    let n := recordRepair (fun m => { m with rows := m.rows ++ [(chan, pos, row)] }) n
    spareRecord clk p spRow (placeOf chan pos + 2 ^ 32 * row)
      (modMem (fun m => { m with chans := vmod m.chans chan (fun c => { c with rowsUsed := mset c.rowsUsed pos (spareLeft c pos - 1) }) }) (count p .drnActs 1 n))
  else n

end Sys2Proof.Machine
end

