-- ==== Sys2Proof/Machine/FlashOps.lean ====
section
/-! DEFINITION. The flash engine that families share: cartridges and objects (R203, R212), the mapping cache (R214), the write stage (R215),
programs and copies (R216, R218, R222), block sets and wear (R207, R208, R219, R220, R223), durable commands (R216, R318). -/

namespace Sys2Proof.Machine

def modCart (s : Nat) (g : Cart → Cart) (n : Node) : Node := modFls (fun f => { f with carts := vmod f.carts s g }) n
/-- Counters of Table 10-13: 0 HOST_SECT, 1 NAND_SECT, 2 FOLD_SECT, 3 MAP_MISS, 4 RETRIES, 5 LOST, 6 RETIRED. The life record counts host and
programmed sectors and retired blocks as well (Table 10-4). -/
def countC (s i k : Nat) (n : Node) : Node :=
  modCart s (fun c => { c with
    counts := lmod c.counts i (· + k)
    life := { c.life with hostSect := c.life.hostSect + (if i = 0 then k else 0), nandSect := c.life.nandSect + (if i = 1 then k else 0)
                          retired := c.life.retired + (if i = 6 then k else 0) } }) n
/-! ### Objects (R212) -/

/-- Map page of a block of a host object (R213): slot and page. The node's own objects keep their pages cached (log 38). -/
def pageOfBlk (n : Node) (o : Nat) (b : Nat) : Option (Nat × Nat) := match fobj n o with
  | none => none
  | some x =>
    if 0x80000000 ≤ o then none
    else
      let (j, i) := objPlace x b
      (slotOfBlk n o b).map (fun s => (s, (x.base.getD j 0 + i) / 512))
/-- Logical blocks that host objects reserve on a cartridge, as (first, count). -/
def reserved (n : Node) (serial : Nat) : List (Nat × Nat) :=
  (n.flash.objs.map (fun o => (o.2.carts.zipIdx.filter (fun c => c.1 == serial)).map (fun c => (o.2.base.getD c.2 0, objShare o.2 c.2)))).flatten
def reservedOn (n : Node) (serial : Nat) : Nat := sumNat ((reserved n serial).map (·.2))
/-- The lowest gap of `k` blocks; past the last reservation where no gap is wide enough (log 41). -/
def gapFor (k : Nat) : Nat → List (Nat × Nat) → Nat
  | at_, [] => at_
  | at_, (a, l) :: r => if at_ + k ≤ a then at_ else gapFor k (max at_ (a + l)) r
def baseFor (n : Node) (serial k : Nat) : Nat := gapFor k 0 (sortBy (fun a b => decide (a.1 ≤ b.1)) (reserved n serial))
/-- Numbers of the node's own objects: a collection's, and a table's (log 38). -/
def nodeObj (p : Nat) (k : ObjKind) (num : Nat) : Nat := match k with
  | .coll => 0x80000000 + 256 * p + num
  | .table => 0x80001000 + 64 * p + num
/-- Number of the object that holds a collection's originals (R51). -/
def origObj (p s : Nat) : Nat := 0x80004000 + 256 * p + s
/-- What flash holds of a collection: its update log, its originals, its generations (Table 3-4). -/
def collObjs (p s : Nat) (c : Coll) : List Nat :=
  nodeObj p .coll s :: origObj p s :: nubNat (((c.cur.toList ++ c.staged.toList ++ c.retired ++ c.root.toList).map (·.store)).filter (· != 0))
/-- Creates the node object on every ACTIVE cartridge if it is not there. -/
def needObj (p o : Nat) (n : Node) : Node :=
  match fobj n o with
  | some x => if x.carts.isEmpty then modFls (fun f => { f with objs := mset f.objs o { x with carts := (activeSlots n).map (fun s => (getCart n s).serial) } }) n else n
  | none => modFls (fun f => { f with objs := mset f.objs o { ptn := p, carts := (activeSlots n).map (fun s => (getCart n s).serial) } }) n
/-- All the cartridges of an object serve; and all of them may be written. -/
def objWhole (n : Node) (o : Nat) : Bool := match fobj n o with
  | some x => x.carts.all (fun c => (slotSerial n c).isSome)
  | none => true
def objWritable (n : Node) (o : Nat) : Bool := match fobj n o with
  | some x => x.carts.all (fun c => match slotSerial n c with
    | some s => (getCart n s).st == .active
    | none => false)
  | none => true
/-- SERVING or READ_ONLY by what its cartridges take. -/
def CollSt.settled (ok : Bool) : CollSt → CollSt
  | .serving => if ok then .serving else .readOnly
  | .readOnly => if ok then .serving else .readOnly
  | st => st
/-- Collections whose flash data lies on a cartridge that is READ_ONLY or absent are READ_ONLY, and serve again when it is not so (R208,
R209, R210). Of one that is SWAPPING the state it returns to follows (R57). -/
def settleColls (n : Node) : Node :=
  { n with ptns := n.ptns.mapIdx (fun p x => { x with colls := x.colls.map (fun c =>
      let ok := (collObjs p c.1 c.2).all (objWritable n)
      (c.1, { c.2 with st := c.2.st.settled ok, before := c.2.before.settled ok })) }) }

/-! ### Life (R207, R208) -/

/-- `LIFE` in permille. -/
def lifeUsed (wear : Nat) : Nat := 1000 * wear / (64 * 1500 * 2543104)
/-- Table 10-4. -/
def lifeBytes (l : LifeRec) : List Byte :=
  let b := toLe 8 l.seq ++ toLe 8 l.wear ++ toLe 8 l.hostSect ++ toLe 8 l.nandSect ++ toLe 4 l.retired ++ toLe 2 l.unsafeCnt ++
    toLe 2 (b2n l.openFlag + 2 * b2n l.sanPending + 4 * b2n l.unsanit) ++ toLe 16 l.nodeFp
  b ++ toLe 4 (crc32c b).toNat ++ toLe 4 0
/-- A copy is valid when its CRC-32C is that of bytes 0x00 to 0x37. -/
def lifeValid (b : List Byte) : Bool := b.length == 64 && leAt b 0x38 4 == (crc32c (b.take 0x38)).toNat
def lifeFrom (b : List Byte) : LifeRec :=
  { seq := leAt b 0x00 8, wear := leAt b 0x08 8, hostSect := leAt b 0x10 8, nandSect := leAt b 0x18 8, retired := leAt b 0x20 4, unsafeCnt := leAt b 0x24 2
    openFlag := (leAt b 0x26 2).testBit 0, sanPending := (leAt b 0x26 2).testBit 1, unsanit := (leAt b 0x26 2).testBit 2, nodeFp := leAt b 0x28 16 }
/-- Copy A is the one to keep: it is valid, and copy B is not or has no higher `SEQ`. -/
def lifeNewA (a b : List Byte) : Bool := lifeValid a && (!lifeValid b || decide (leAt b 0 8 ≤ leAt a 0 8))
/-- The valid copy with the higher `SEQ`; a blank record where none is valid (log 39). -/
def lifeOf (a b : List Byte) : LifeRec := if lifeNewA a b then lifeFrom a else if lifeValid b then lifeFrom b else {}
/-- `WEAR` as the erase counts of the block summaries give it. -/
def setsWear (l : List (Nat × BSet)) : Nat := sumNat (l.map (fun x => 4 * (64 * (x.2.erases - x.2.ones) + 2 * x.2.ones)))
/-- Writes a new life record over the other copy, with `SEQ` one higher. -/
def writeLife (clk : Clock) (s : Nat) (n : Node) : Node :=
  modCart s (fun c =>
    let l := { c.life with seq := c.life.seq + 1, nodeFp := Config.nodeFp }
    let a := lifeNewA c.lifeA c.lifeB
    { c with life := l, lifeAt := clk.node, lifeA := if a then c.lifeA else lifeBytes l, lifeB := if a then lifeBytes l else c.lifeB }) n
/-- The slot becomes READ_ONLY. -/
def setReadOnly (s why : Nat) (n : Node) : Node :=
  if (getCart n s).st == .active then settleColls (raiseAt attnCartridge 0 (modCart s (fun c => { c with st := .readOnly, why := why }) n)) else n
def roNoId : Nat := 1
def roUnsigned : Nat := 2
def roMismatch : Nat := 3
def roExpired : Nat := 4
def roWorn : Nat := 5
/-- Adds wear units and settles what `LIFE` then does. -/
def addWear (clk : Clock) (s w : Nat) (n : Node) : Node :=
  let old := (getCart n s).lifeP
  let n := modCart s (fun c => { c with life := { c.life with wear := c.life.wear + w }, lifeP := lifeUsed (c.life.wear + w) }) n
  let new := (getCart n s).lifeP
  let n := if new = old then n else writeLife clk s n
  let n := if old < 900 ∧ 900 ≤ new then raiseAt attnCartridge 0 n else n
  if 1000 ≤ new then setReadOnly s roExpired n else n
/-- Over-provisioning left below 8 % of raw capacity (R208). -/
def wornOut (c : Cart) : Bool :=
  decide (100 * ((635776 - c.lost) * 24576) < 100 * cartBlocks + 8 * (635776 * 24576))

/-! ### Block sets -/

def modSet (s i : Nat) (g : BSet → BSet) (n : Node) : Node := modCart s (fun c => { c with sets := mset c.sets i (g (getSet c i)) }) n
/-- Set `i` may take a sector in this mode; host writes to a die with fewer than 2 free sets wait (R219). -/
def setTakes (c : Cart) (i : Nat) (onebit host : Bool) : Bool :=
  let b := getSet c i
  decide (i < setCount) && (!host || decide (2 ≤ freeOnDie c (dieOf i))) && (b.phase == 0 || (b.phase == 1 && b.qlc != onebit && decide (b.used < setCap b)))
/-- Takes the next sector of the set, opening it if it is free: its position there. -/
def takeSector (clk : Clock) (s i : Nat) (onebit : Bool) (n : Node) : Nat × Node :=
  let b := getSet (getCart n s) i
  (if b.phase = 0 then 0 else b.used,
   modSet s i (fun b => if b.phase = 0 then { b with qlc := !onebit, phase := 1, used := 1, at_ := clk.node, refresh := false } else { b with used := b.used + 1 }) n)
/-- Sectors that a set can still take. -/
def setRoom (b : BSet) (onebit : Bool) : Nat := if b.phase = 0 then (if onebit then 6144 else 24576) else setCap b - b.used
/-- Plane of a position: sectors fill a page on each of the four planes, then the next pages (log 158). -/
def planeOf (pos : Nat) : Nat := pos / 4 % 4
/-- A set's block on a plane. -/
def blockOf (b : BSet) (i pl : Nat) : Nat := (mget b.repl pl).getD (i % 4967)
/-- Table 10-6: the map entry of a sector. -/
def mapEntry (c : Cart) (x : Copy) : Nat :=
  let d := dieOf x.set_
  2 ^ 36 + 2 ^ 35 * b2n x.onebit + 2 ^ 32 * (d / 16) + 2 ^ 28 * (d % 16) + 2 ^ 26 * planeOf x.pos + 2 ^ 13 * blockOf (getSet c x.set_) x.set_ (planeOf x.pos) + 4 * (x.pos / 16) + x.pos % 4
/-- The lowest open set of the mode with room, else the lowest free set, other than `not` (log 8). -/
def freeSetFrom (c : Cart) (not_ : Nat) : Nat → Nat → Nat
  | 0, i => i
  | k + 1, i => if (getSet c i).phase = 0 ∧ i ≠ not_ then i else freeSetFrom c not_ k (i + 1)
def anySet (c : Cart) (onebit : Bool) (not_ : Nat) : Nat :=
  match c.sets.find? (fun x => x.1 != not_ && x.2.phase == 1 && x.2.qlc != onebit && decide (x.2.used < setCap x.2)) with
  | some x => x.1
  | none => freeSetFrom c not_ (c.sets.length + 2) 0
/-- Programs under way into a set. -/
def progsInto (n : Node) (s i : Nat) : Bool := n.flash.progs.any (fun g => g.2.cart == s && g.2.set_ == i)
/-- Mapped sectors of a set. -/
def validIn (n : Node) (s i : Nat) : List Copy := n.flash.copies.filter (fun c => c.cart == s && c.set_ == i && c.mapped)
/-- A set whose last valid sector has gone waits for its erase: a closed one-bit set, a set that the Wringer empties. -/
def emptied (s i : Nat) (n : Node) : Node :=
  let b := getSet (getCart n s) i
  if (validIn n s i).isEmpty ∧ !progsInto n s i ∧ (b.phase = 5 ∨ (b.phase = 2 ∧ !b.qlc)) then modSet s i (fun b => { b with phase := 4 }) n else n

/-- A full set without programs under way closes; a one-bit set keeps the time it was opened, by which Fold goes (R217). -/
def closeSet (clk : Clock) (s i : Nat) (n : Node) : Node :=
  let b := getSet (getCart n s) i
  if b.phase = 1 ∧ setCap b ≤ b.used ∧ !progsInto n s i then emptied s i (modSet s i (fun b => { b with phase := 2, at_ := if b.qlc then clk.node else b.at_ }) n) else n

/-! ### The mapping cache (R214) -/

def pageIn (n : Node) (g : Nat × Nat) : Bool := n.flash.cache.any (fun m => m.cart == g.1 && m.page == g.2)
/-- The clock sweep: the first clean page without its mark goes; marked pages lose their mark and move behind the hand. -/
def sweep : Nat → List MapPg → List MapPg → List MapPg
  | 0, l, back => l.drop 1 ++ back
  | _, [], back => back.drop 1
  | k + 1, m :: r, back => if m.dirty.isNone && !m.ref then r ++ back else sweep k r (back ++ [{ m with ref := false }])
def evict (c : List MapPg) : List MapPg :=
  if c.length < 1048576 then c
  else if c.any (fun m => m.dirty.isNone && !m.ref) then sweep c.length c [] else
    let c := c.map (fun m => { m with ref := false })
    if c.any (fun m => m.dirty.isNone) then sweep c.length c [] else c.drop 1
def loadPage (g : Nat × Nat) (n : Node) : Node :=
  if pageIn n g then n else modFls (fun f => { f with cache := evict f.cache ++ [{ cart := g.1, page := g.2 }] }) n
/-- Starts the reads of absent pages, each counted as a miss. -/
def startReads (gs : List (Nat × Nat)) (n : Node) : Node :=
  foldNode gs (fun g n => if pageIn n g || n.flash.reads.contains g then n
    else countC g.1 3 1 (modFls (fun f => { f with reads := f.reads ++ [g] }) n)) n
def usePage (g : Nat × Nat) (n : Node) : Node :=
  modFls (fun f => { f with cache := modAll (fun m => m.cart == g.1 && m.page == g.2) (fun m => { m with ref := true }) f.cache }) n
/-- A dirty page is programmed: its journal entries are no longer needed (R213). -/
def writePage (slot page : Nat) (n : Node) : Node :=
  let keep (e : Nat × Nat) : Bool := e.1 / 512 != page
  modCart slot (fun c => { c with journal := c.journal.filter keep, jpend := c.jpend.filter keep })
    (countC slot 1 1 (modFls (fun f => { f with cache := modAll (fun m => m.cart == slot && m.page == page) (fun m => { m with dirty := none }) f.cache }) n))
/-- Above a quarter of the cache dirty pages are written at once, the longest dirty first (R214). -/
def tidyCache (n : Node) : Node :=
  let ds := n.flash.cache.filter (·.dirty.isSome)
  if ds.length ≤ 262144 then n
  else match (sortBy (fun a b => decide (a.dirty.getD 0 ≤ b.dirty.getD 0)) ds).head? with
    | some m => writePage m.cart m.page n
    | none => n
/-- A changed map entry makes its page dirty. -/
def dirtyPage (clk : Clock) (o b : Nat) (n : Node) : Node := match pageOfBlk n o b with
  | none => n
  | some g => tidyCache (modFls (fun f => { f with cache := modAll (fun m => m.cart == g.1 && m.page == g.2) (fun m => { m with ref := true, dirty := some (m.dirty.getD clk.node) }) f.cache }) n)
/-- Logical block on its cartridge of an object's block (R213); where the node's own objects lie is not in the spec (log 159). -/
def lblockOf (n : Node) (o b : Nat) : Nat := match fobj n o with
  | none => 0
  | some x =>
    let (j, i) := objPlace x b
    if x.base.isEmpty then Config.nodeLBlock o b else x.base.getD j 0 + i
/-- The new entry of a logical block waits for the next journal program of its cartridge (R213, R225). -/
def noteMap (s o b entry : Nat) (n : Node) : Node := modCart s (fun c => { c with jpend := mset c.jpend (lblockOf n o b) entry }) n

/-! ### Commands that wait for programs, adds and acknowledgements (R173, R216, R318) -/

def finishCmd (clk : Clock) (t : Tok) (n : Node) : Node :=
  match n.flash.durable.find? (fun d => d.tok == t) with
  | none => n
  | some d =>
    if d.adds = 0 ∧ d.progs = 0 ∧ d.acks = 0 then
      post clk t stSuccess 0 (modFls (fun f => { f with durable := f.durable.filter (fun d => d.tok != t) }) n)
    else n
/-- Changes what a command waits for, entering it if it is not there. -/
def modWait (t : Tok) (g : DurCmd → DurCmd) (n : Node) : Node :=
  modFls (fun f => { f with durable := if f.durable.any (fun d => d.tok == t) then modAll (fun d => d.tok == t) g f.durable
                                       else f.durable ++ [g { tok := t }] }) n
def progDone (clk : Clock) (ts : List Tok) (n : Node) : Node :=
  foldNode ts (fun t n => finishCmd clk t (modWait t (fun d => { d with progs := d.progs - 1 }) n)) n

/-! ### The write stage (R215) -/

/-- Stages one sector: a sector of the same block not yet programmed is replaced, and what waited for it waits for the new one (the later fetched
wins). `t`: a durable command that waits for the program. -/
def stageSector (clk : Clock) (o b : Nat) (data : List Byte) (dur : Bool) (t : Option Tok) (n : Node) : Node :=
  let old := n.flash.stage.find? (fun x => x.obj == o && x.blk == b)
  let new : Staged := { obj := o, blk := b, data := data, at_ := (old.map (·.at_)).getD clk.node, ver := n.flash.nextV
                        dur := dur || (match old with
                          | some x => x.dur
                          | none => false)
                        toks := (match old with
                          | some x => x.toks
                          | none => []) ++ t.toList }
  let n := modFls (fun f => { f with nextV := f.nextV + 1, stage := f.stage.filter (fun x => !(x.obj == o && x.blk == b)) ++ [new] }) n
  let n := match slotOfBlk n o b with
    | some s => countC s 0 1 n
    | none => n
  match t with
  | some t => modWait t (fun d => { d with progs := d.progs + 1 }) n
  | none => n

/-! ### The map journal (R213, R216) -/

/-- Starts a program. -/
def startProg (g : Prog) (n : Node) : Node := modFls (fun f => { f with progs := mset f.progs f.nextP g, nextP := f.nextP + 1 }) n
/-- Journal entries as bytes: the logical block and its new map entry (log 158). -/
def journalBytes (es : List (Nat × Nat)) : List Byte := (es.map (fun e => toLe 8 e.1 ++ toLe 8 e.2)).flatten
/-- Sectors that journal entries take. -/
def journalSects (es : List (Nat × Nat)) : Nat := max 1 (cdiv es.length 256)
/-- Programs every waiting journal entry of a cartridge into a one-bit set; `ts` wait for it. -/
def startJournal (clk : Clock) (s : Nat) (ts : List Tok) (n : Node) : Node :=
  let es := (getCart n s).jpend
  let i := anySet (getCart n s) true setCount
  let (pos, n) := takeSector clk s i true n
  let n := foldNode (List.range (journalSects es - 1)) (fun _ n => (takeSector clk s i true n).2) n
  startProg { cart := s, set_ := i, onebit := true, obj := 0, blk := 0, data := journalBytes es, why := .journal, toks := ts, pos := pos, entries := es }
    (modCart s (fun c => { c with jpend := [] }) n)
/-- The entries are programmed. -/
def journaled (s : Nat) (es : List (Nat × Nat)) (n : Node) : Node :=
  countC s 1 (journalSects es) (modCart s (fun c => { c with journal := es.foldl (fun m e => mset m e.1 e.2) c.journal }) n)
/-- The waiting entries are programmed at once: release, removal, sleep entry. -/
def flushJournal (s : Nat) (n : Node) : Node :=
  let es := (getCart n s).jpend
  if es.isEmpty then n else journaled s es (modCart s (fun c => { c with jpend := [] }) n)
/-- A durable command also makes durable every earlier write to the object (R216): it waits for all that is staged, being programmed or without its journal entry. -/
def joinObject (clk : Clock) (o : Nat) (t : Tok) (n : Node) : Node :=
  let slots := objSlots n o
  let inS (x : Staged) : Bool := x.obj == o && !x.toks.contains t
  let inP (g : Prog) : Bool := !g.toks.contains t && ((g.obj == o && g.why == .stage) || (g.why == .journal && slots.contains g.cart))
  let k := (n.flash.stage.filter inS).length + (n.flash.progs.filter (fun g => inP g.2)).length
  let n := modFls (fun f => { f with
    stage := modAll inS (fun x => { x with dur := true, toks := x.toks ++ [t] }) f.stage
    progs := f.progs.map (fun g => if inP g.2 then (g.1, { g.2 with toks := g.2.toks ++ [t] }) else g) }) n
  foldNode (slots.filter (fun s => !(getCart n s).jpend.isEmpty)) (fun s n => startJournal clk s [t] (modWait t (fun d => { d with progs := d.progs + 1 }) n))
    (modWait t (fun d => { d with progs := d.progs + k }) n)

/-! ### Copies and programs -/

/-- Reads one physical sector (R221): the data, and whether it is lost. -/
def readCopy (c : Copy) (n : Node) : Node × List Byte × Bool :=
  let mark (n : Node) : Node := modSet c.cart c.set_ (fun b => { b with refresh := true }) n
  if c.ecc = 0 then (n, c.data, false)
  else if c.ecc = 1 then (mark n, c.data, false)
  else if c.ecc ≤ 8 then (countC c.cart 4 (c.ecc - 1) (mark n), c.data, false)
  else (countC c.cart 5 1 (countC c.cart 4 7 n), List.replicate 4096 0, true)
/-- Fixes what reads of a new sector meet (log 40); what was lost where it came from stays lost. -/
def newEcc (lost : Bool) (n : Node) : Nat × Node :=
  let (i, n) := nextFree n
  (if lost then 9 else Config.sectorEcc i, n)
/-- A programmed sector joins the map unless a later write of the block is mapped (R215). -/
def mapCopy (clk : Clock) (c : Copy) (n : Node) : Node :=
  let newer := n.flash.copies.any (fun x => x.obj == c.obj && x.blk == c.blk && x.mapped && decide (c.ver < x.ver))
  let gone := (n.flash.copies.filter (fun x => x.obj == c.obj && x.blk == c.blk && x.mapped)).map (fun x => (x.cart, x.set_))
  if newer then modFls (fun f => { f with copies := f.copies ++ [{ c with mapped := false }] }) n
  else
    let n := modFls (fun f => { f with
      copies := modAll (fun x => x.obj == c.obj && x.blk == c.blk) (fun x => { x with mapped := false }) f.copies ++ [{ c with mapped := true }] }) n
    foldNode gone (fun g n => emptied g.1 g.2 n) (dirtyPage clk c.obj c.blk (noteMap c.cart c.obj c.blk (mapEntry (getCart n c.cart) c) n))
/-- Reads a mapped sector and programs it at once into another set of slot `s` (R209, R222, R226). -/
def moveCopy (clk : Clock) (s not_ : Nat) (onebit : Bool) (c : Copy) (n : Node) : Node :=
  let (n, _, lost) := readCopy c n
  let i := anySet (getCart n s) onebit not_
  let (e, n) := newEcc lost n
  let (pos, n) := takeSector clk s i onebit n
  countC s 1 1 (closeSet clk s i (mapCopy clk { c with cart := s, set_ := i, pos := pos, onebit := onebit, ecc := e } n))
/-- Moves every valid sector out of a set. -/
def relocate (clk : Clock) (s i : Nat) (n : Node) : Node := foldNode (validIn n s i) (fun c n => moveCopy clk s i c.onebit c n) n
/-- Programs a sector and its journal entry at once, without a program in flight: release, removal, sleep entry. -/
def programNow (clk : Clock) (s : Nat) (x : Staged) (n : Node) : Node :=
  let i := anySet (getCart n s) true setCount
  let (e, n) := newEcc false n
  let n := modFls (fun f => { f with stage := f.stage.filter (fun y => y.ver != x.ver) }) n
  let (pos, n) := takeSector clk s i true n
  let n := mapCopy clk { cart := s, set_ := i, pos := pos, obj := x.obj, blk := x.blk, data := x.data, onebit := true, mapped := true, ver := x.ver, ecc := e } n
  progDone clk x.toks (flushJournal s (countC s 1 1 (closeSet clk s i n)))
/-- Starts to copy sectors into a QLC set of their cartridge: Fold and the Wringer. -/
def startCopies (clk : Clock) (s set : Nat) (why : ProgWhy) (cs : List Copy) (n : Node) : Node :=
  foldNode cs (fun c n =>
    let (n, _, lost) := readCopy c n
    let (pos, n) := takeSector clk s set false n
    startProg { cart := s, set_ := set, pos := pos, onebit := false, obj := c.obj, blk := c.blk, data := c.data, ver := c.ver, ecc := if lost then 9 else 0, why := why } n) n
/-- Ends a program that succeeded (R216): the sector exists and is mapped by why it was made; what waited for it waits for its journal entry now. A Fold copy stays unmapped until
its set closes (R218). -/
def endProg (clk : Clock) (i : Nat) (g : Prog) (n : Node) : Node :=
  let n := modFls (fun f => { f with progs := mdel f.progs i }) n
  if g.why == .journal then progDone clk g.toks (closeSet clk g.cart g.set_ (journaled g.cart g.entries n))
  else
    let (e, n) := newEcc (decide (9 ≤ g.ecc)) n
    let c : Copy := { cart := g.cart, set_ := g.set_, pos := g.pos, obj := g.obj, blk := g.blk, data := g.data, onebit := g.onebit, mapped := true, ver := g.ver, ecc := e }
    let keep (n : Node) : Node := modFls (fun f => { f with copies := f.copies ++ [{ c with mapped := false }] }) n
    let n :=
      if g.dead || g.why == .fold then keep n
      else if g.why == .wring then
        -- the copy takes over only while its source is still mapped
        if n.flash.copies.any (fun x => x.obj == g.obj && x.blk == g.blk && x.mapped && x.ver == g.ver) then mapCopy clk c n else keep n
      else mapCopy clk c n
    let n := closeSet clk g.cart g.set_ (countC g.cart 1 1 n)
    if g.toks.isEmpty then n else startJournal clk g.cart g.toks n

/-! ### Erase (R220, R223) -/

/-- The copies in a set's blocks go, but for those of a block that kept its data: they are known by that block from now on (`keep`: its plane and its number as a set; R226). -/
def dropSectors (s i : Nat) (keep : Option (Nat × Nat)) (n : Node) : Node :=
  modFls (fun f => { f with copies := f.copies.filterMap (fun c =>
    if c.cart == s && c.set_ == i then (match keep with
      | some (pl, j) => if planeOf c.pos = pl then some { c with set_ := j, mapped := false } else none
      | none => none)
    else some c) }) n
/-- A set is erased: wear, erase count, and back to the free list or retired. -/
def wipeSet (clk : Clock) (s i : Nat) (retire : Bool) (keep : Option (Nat × Nat)) (n : Node) : Node :=
  let b := getSet (getCart n s) i
  let n := modSet s i (fun b => { b with phase := if retire then 3 else 0, erases := b.erases + 1, ones := b.ones + b2n (!b.qlc), used := 0, refresh := false, at_ := clk.node })
    (dropSectors s i keep n)
  addWear clk s (4 * (if b.qlc then 64 else 2)) n
/-- Spare blocks of a plane, numbered die × 4 + plane. -/
def spareOn (c : Cart) (pl : Nat) : List Nat := (mget c.spares pl).getD ((List.range 48).map (4967 + ·))
/-- The number by which the next block to retire is known as a set. -/
def retiredSet (c : Cart) : Nat := setCount + c.retired.length
/-- Retires the block of a set on plane `pl` (R223): recorded, and replaced by a spare of its plane, or the set is retired and its other blocks become spares of theirs. True: the set
goes on. -/
def retireBlock (clk : Clock) (s i pl : Nat) (n : Node) : Node × Bool :=
  let c := getCart n s
  let d := dieOf i
  let blk (k : Nat) : Nat := blockOf (getSet c i) i k
  let n := modCart s (fun c => { c with retired := c.retired ++ [(d, pl, blk pl)] }) (countC s 6 1 n)
  match spareOn c (4 * d + pl) with
  | sp :: rest =>
    (spareRecord clk 0 spFlash (i + 2 ^ 32 * s) (modSet s i (fun b => { b with repl := mset b.repl pl sp }) (modCart s (fun c => { c with spares := mset c.spares (4 * d + pl) rest }) n)), true)
  | [] =>
    let n := modCart s (fun c => { c with
      lost := c.lost + 1
      spares := ([0, 1, 2, 3].filter (· != pl)).foldl (fun m k => mset m (4 * d + k) (spareOn c (4 * d + k) ++ [blk k])) c.spares }) n
    (if wornOut (getCart n s) then setReadOnly s roWorn n else n, false)
/-- A command's end by sanitisation: success, or `ST_SANITISE_FAILED` (R226). -/
def endSanit (clk : Clock) (x : Sanit) (n : Node) : Node :=
  let still (s : Nat) : Bool := n.flash.sanits.any (fun y => y != x && y.carts.contains s)
  let n := foldNode x.carts (fun s n => if still s then n else
    writeLife clk s (modCart s (fun c => { c with sanHold := false, life := { c.life with sanPending := false } }) n)) n
  let n := modFls (fun f => { f with sanits := f.sanits.filter (fun y => y != x)
                                     objs := x.free.foldl mdel f.objs }) n
  let n := match x.coll with
    | some (p, c) => modP p (fun y => { y with colls := mdel y.colls c }) n
    | none => n
  let n := match x.adopt with
    | some s => if x.bad then n else settleColls (writeLife clk s (modCart s (fun c => { c with
        st := .active, why := 0, known := true, power := true, safe := false, life := { c.life with openFlag := true } }) n))
    | none => n
  postO clk x.tok (if x.bad then stSanitiseFailed else stSuccess) 0 n
/-- A set of sanitisation lists is done with: `bad` where a block could be neither erased nor overwritten. -/
def sanitSet (clk : Clock) (s i : Nat) (bad : Bool) (n : Node) : Node :=
  let n := if bad && n.flash.sanits.any (fun x => x.sets.contains (s, i)) then modCart s (fun c => { c with life := { c.life with unsanit := true } }) n else n
  let n := modFls (fun f => { f with sanits := modAll (fun x => x.sets.contains (s, i)) (fun x => { x with sets := x.sets.filter (· != (s, i)), bad := x.bad || bad }) f.sanits }) n
  foldNode (n.flash.sanits.filter (fun x => x.sets.isEmpty)) (endSanit clk) n
def inSanit (n : Node) (s i : Nat) : Bool := n.flash.sanits.any (fun x => x.sets.contains (s, i))

/-! ### Unmapping (R225, R226) -/

/-- Unmaps blocks `lo` to `hi - 1` of an object: staged sectors go, programs in flight are dead, copies are stale. A command that waited for a staged sector has nothing
left to wait for there. -/
def unmap (clk : Clock) (o lo hi : Nat) (n : Node) : Node :=
  let inR (ob b : Nat) : Bool := ob == o && decide (lo ≤ b) && decide (b < hi)
  let toks := ((n.flash.stage.filter (fun x => inR x.obj x.blk)).map (·.toks)).flatten
  let gone := n.flash.copies.filter (fun c => inR c.obj c.blk && c.mapped)
  let n := modFls (fun f => { f with
    stage := f.stage.filter (fun x => !inR x.obj x.blk)
    progs := f.progs.map (fun g => if inR g.2.obj g.2.blk && g.2.why != .journal then (g.1, { g.2 with dead := true }) else g)
    copies := modAll (fun c => inR c.obj c.blk) (fun c => { c with mapped := false }) f.copies }) n
  let n := foldNode gone (fun c n => emptied c.cart c.set_ (dirtyPage clk c.obj c.blk (noteMap c.cart c.obj c.blk 0 n))) n
  progDone clk toks n
/-- Sets that hold copies of blocks `lo` to `hi - 1`, or take one by a program in flight. -/
def setsHolding (n : Node) (o lo hi : Nat) : List (Nat × Nat) :=
  let inR (ob b : Nat) : Bool := ob == o && decide (lo ≤ b) && decide (b < hi)
  ((n.flash.copies.filter (fun c => inR c.obj c.blk)).map (fun c => (c.cart, c.set_)) ++
   (n.flash.progs.filter (fun g => inR g.2.obj g.2.blk && g.2.why != .journal)).map (fun g => (g.2.cart, g.2.set_))).eraseDups
/-- Starts a sanitisation (R226 steps 1 to 3); with nothing to erase it ends at once. -/
def startSanit (clk : Clock) (x : Sanit) (n : Node) : Node :=
  let carts := nubNat (x.carts ++ x.sets.map (·.1))
  let x := { x with carts := carts }
  let n := foldNode carts (fun s n => writeLife clk s (modCart s (fun c => { c with life := { c.life with sanPending := true } }) n)) n
  let n := modFls (fun f => { f with sanits := f.sanits ++ [x] }) n
  if x.sets.isEmpty then endSanit clk x n else n

/-! ### Reading (R221) -/

/-- A sanitisation found at mount holds the reads of a block (R227). -/
def blkHeld (n : Node) (o b : Nat) : Bool := (slotOfBlk n o b).any (fun s => (getCart n s).sanHold)
/-- The newest data of a block: the stage, a program in flight, the mapped copy, or nothing. -/
def readBlk (o b : Nat) (n : Node) : Node × List Byte × Bool :=
  match n.flash.stage.find? (fun x => x.obj == o && x.blk == b) with
  | some x => (n, x.data, false)
  | none =>
    match (sortBy (fun a b => decide (b.2.ver ≤ a.2.ver)) (n.flash.progs.filter (fun g => g.2.obj == o && g.2.blk == b && g.2.why == .stage && !g.2.dead))).head? with
    | some g => (n, g.2.data, false)
    | none =>
      match n.flash.copies.find? (fun c => c.obj == o && c.blk == b && c.mapped && (getCart n c.cart).serves) with
      | some c => readCopy c n
      | none => (n, List.replicate 4096 0, (slotOfBlk n o b).isNone)

/-! ### Sleep entry (R207, Table 10-8) -/

/-- Everything staged, every dirty map page, the journal and every life record is written; programs in flight end, and then the journal programs that follow them. -/
def flushFlash (clk : Clock) (n : Node) : Node :=
  let ended (n : Node) : Node := foldNode n.flash.progs (fun g n => endProg clk g.1 g.2 n) n
  let n := ended (ended n)
  let n := foldNode n.flash.stage (fun x n => match slotOfBlk n x.obj x.blk with
    | some s => programNow clk s x n
    | none => n) n
  let n := foldNode (n.flash.cache.filter (·.dirty.isSome)) (fun m n => writePage m.cart m.page n) n
  let n := foldNode (List.range 4) flushJournal n
  foldNode ((List.range 4).filter (fun s => (getCart n s).st == .active)) (writeLife clk) n

end Sys2Proof.Machine
end

