-- ==== Sys2Proof/Machine/Durable.lean ====
section
/-! DEFINITION. The update log and its mirror (R315, R316): what every committed update writes, and what a drop discards of it. -/

namespace Sys2Proof.Machine

def getC (n : Node) (p s : Nat) : Option Coll := mget (getP n p).colls s
def modC (p s : Nat) (g : Coll → Coll) (n : Node) : Node := modP p (fun x => { x with colls := mmod x.colls s g }) n
/-- The thread watchdog does not count the time from `since` on in which these updates were held (R286). -/
def creditHeld (clk : Clock) (p since : Nat) (cs : List Nat) (n : Node) : Node :=
  modP p (fun x => { x with ctxs := x.ctxs.map (fun y => if cs.contains y.1 then (y.1, { y.2 with since := y.2.since + (pctr clk p - max y.2.since since) }) else y) }) n
def getT (n : Node) (p t : Nat) : Option Tbl := mget (getP n p).tbls t
def modT (p t : Nat) (g : Tbl → Tbl) (n : Node) : Node := modP p (fun x => { x with tbls := mmod x.tbls t g }) n
/-- Durability of an object. -/
def getDur (n : Node) (p : Nat) (k : ObjKind) (num : Nat) : Option Dur := match k with
  | .coll => (getC n p num).map (·.dur)
  | .table => (getT n p num).map (·.dur)
def modDur (p : Nat) (k : ObjKind) (num : Nat) (g : Dur → Dur) : Node → Node := match k with
  | .coll => modC p num (fun c => { c with dur := g c.dur })
  | .table => modT p num (fun t => { t with dur := g t.dur })
/-- `COLL_ID` or `TBL_ID`. -/
def objId (n : Node) (p : Nat) (k : ObjKind) (num : Nat) : W64 := match k with
  | .coll => ((getC n p num).map (·.desc.collId)).getD 0
  | .table => ((getT n p num).map (·.tblId)).getD 0
def genNum (n : Node) (p : Nat) (k : ObjKind) (num : Nat) : W64 := match k with
  | .coll => ((getC n p num).bind (fun c => c.cur.map (·.hdr.gen))).getD 0
  | .table => 0

/-! ### Records (log 38) -/

/-- N4 codes, two to a byte (R45). -/
def nibbles : List Int → List Byte
  | [] => []
  | [a] => [BitVec.ofNat 8 ((a % 16).toNat)]
  | a :: b :: r => BitVec.ofNat 8 ((a % 16).toNat + 16 * (b % 16).toNat) :: nibbles r
/-- Size of a Sapling record (R50). -/
def sapSize (d : CollDesc) : Nat := 64 * cdiv (32 + skBits d.skw / 8 + (if d.metric = 3 then 0 else d.dim / 2)) 64
/-- Table 3-8. -/
def sapBytes (d : CollDesc) (r : SapRec) : List Byte :=
  let b := toLe 8 r.id.toNat ++ toLe 8 r.seq ++ toLe 8 r.attr.toNat ++ toLe 2 r.tag.toNat ++
    toLe 2 (b2n r.valid + 2 * b2n r.deleted) ++ toLe 2 r.scale.toNat ++ toLe 2 0 ++ toLe (skBits d.skw / 8) r.sketch ++
    (if d.metric = 3 then [] else nibbles r.codes)
  b ++ List.replicate (sapSize d - b.length) 0
def RecKind.code : RecKind → Nat
  | .insert => 0
  | .delete => 1
  | .upsert => 2
/-- A record of the update log: sequence, kind, list placed, ID and Sapling record; or epoch, row and elements. -/
def recBytes (d : CollDesc) : MRec → List Byte
  | .coll r => toLe 8 r.seq ++ toLe 1 (RecKind.code r.kind) ++ toLe 3 0 ++ toLe 4 r.list ++ toLe 8 r.id.toNat ++ toLe 8 r.epoch ++
      (match r.sap with
        | some s => sapBytes d s
        | none => [])
  | .train r => toLe 8 r.epoch ++ toLe 4 r.row ++ toLe 4 (b2n r.write) ++ bytesOf32 r.delta
def pad64 (bs : List Byte) : List Byte := bs ++ List.replicate (64 * cdiv bs.length 64 - bs.length) 0
def MRec.epoch : MRec → Nat
  | .coll r => r.epoch
  | .train r => r.epoch
def MRec.seq : MRec → Nat
  | .coll r => r.seq
  | .train _ => 0
def descOfObj (n : Node) (p : Nat) (k : ObjKind) (num : Nat) : CollDesc := match k with
  | .coll => ((getC n p num).map (·.desc)).getD {}
  | .table => {}

/-! ### Mirroring (R316) -/

def mirrorOn (x : Ptn) : Bool := bit x.durCfg 0
def buddyPtn (x : Ptn) : Nat := fld x.durCfg 8 3
/-- E of R314, latched at the start of the epoch. -/
def epochCycles (x : Ptn) : Nat := x.epochLen
/-- Table 13-17. -/
def mirrorBody (n : Node) (p : Nat) (k : ObjKind) (num : Nat) (us : List Unack) (epochEnd packed : Bool) : List Byte :=
  let d := descOfObj n p k num
  let durable := us.any (fun u => u.tok.isSome)
  let dur := (getDur n p k num).getD {}
  toLe 8 (objId n p k num).toNat ++ toLe 1 (if k == .coll then 0 else 1) ++
    toLe 1 (b2n epochEnd + 2 * b2n durable + 4 * b2n packed + 8 * b2n (k == .table)) ++ toLe 2 us.length ++ toLe 4 0 ++
    toLe 8 ((us.head?.map (fun u => u.r.epoch)).getD 0) ++ toLe 8 ((us.head?.map (fun u => u.r.seq)).getD 0) ++
    toLe 8 dur.lastSnap ++ toLe 8 (genNum n p k num).toNat ++
    (us.map (fun u => if packed then recBytes d u.r else pad64 (recBytes d u.r))).flatten
/-- Records that one message takes: of one epoch, at most 65,535. -/
def oneMessage (us : List Unack) : List Unack := match us with
  | [] => []
  | u :: _ => (us.takeWhile (fun v => v.r.epoch == u.r.epoch)).take 65535
/-- Messages that carry the records in order; the last record of an epoch that has ended is marked. -/
def mirrorMsgs (clk : Clock) (p : Nat) (k : ObjKind) (num : Nat) (epochEnd : Bool) : Nat → List Unack → Node → Node
  | 0, _, n => n
  | fuel + 1, us, n =>
    let now := oneMessage us
    if now.isEmpty then n
    else
      let x := getP n p
      let dst : W32 := x.buddy.setWidth 32
      let rest := us.drop now.length
      let ends := match rest.head? with
        | some v => v.r.epoch != (now.headD v).r.epoch
        | none => epochEnd
      let body := mirrorBody n p k num now ends (decide (4 ≤ levelTo n dst))
      let seq := n.lnk.msgSeq + 1
      mirrorMsgs clk p k num epochEnd fuel rest
        (modDur p k num (fun y => { y with unacked := y.unacked ++ [(seq, now)] }) (sendAcked clk (64 + p) dst mkMirror p (buddyPtn x) body (.mirror p k num) n))
/-- Sends what has gathered for one object to the buddy; without a buddy, or while the partition resets, it stays. -/
def mirrorSend (clk : Clock) (p : Nat) (k : ObjKind) (num : Nat) (epochEnd : Bool) (n : Node) : Node :=
  let x := getP n p
  match getDur n p k num with
  | none => n
  | some d =>
    if d.unsent.isEmpty || (x.buddy.setWidth 32 : W32) == 0 || !mirrorOn x || x.st == .resetting then n
    else mirrorMsgs clk p k num epochEnd d.unsent.length d.unsent (modDur p k num (fun y => { y with unsent := [] }) n)
/-- A record of the update log goes to flash through the write stage (R315); `t` waits for its program. -/
def logLocal (clk : Clock) (p : Nat) (k : ObjKind) (num : Nat) (r : MRec) (t : Option Tok) (n : Node) : Node :=
  let o := nodeObj p k num
  let bs := recBytes (descOfObj n p k num) r
  let k := max 1 (cdiv bs.length 4096)
  let n := needObj p o n
  let blk := match r with
    | .coll r => r.seq
    | .train _ => nextBlk n o (((getT n p num).map (·.logN)).getD 0)
  let n := match r with
    | .coll _ => n
    | .train r => modT p num (fun y => { y with log := y.log ++ [(blk, r)], logN := blk + k }) n
  let n := foldNode (List.range k) (fun i n => stageSector clk o (blk + i) (slice bs (4096 * i) 4096) t.isSome t n) n
  match t with
    | some t => joinObject clk o t n
    | none => n
/-- A committed update (R315, R316, R318): its record goes to flash and, mirrored, to the buddy. `t`: the durable command that waits for both. -/
def commitLog (clk : Clock) (p : Nat) (k : ObjKind) (num : Nat) (r : MRec) (t : Option Tok) (n : Node) : Node :=
  let n := logLocal clk p k num r t n
  if !mirrorOn (getP n p) then n
  else
    let n := modDur p k num (fun y => { y with unsent := y.unsent ++ [{ r := r, at_ := pctr clk p, tok := t }] }) n
    let n := match t with
      | some t => modWait t (fun d => { d with acks := d.acks + 1 }) n
      | none => n
    let size : Nat := match getDur n p k num with
      | some d => sumNat (d.unsent.map (fun u => (pad64 (recBytes (descOfObj n p k num) u.r)).length))
      | none => 0
    if k == .coll && (t.isSome || decide (65536 ≤ size)) then mirrorSend clk p k num false n else n

/-! ### Drops (R66, R226) -/

/-- A flash object is discarded (R212, R225). -/
def dropStore (clk : Clock) (o : Nat) (n : Node) : Node := modFls (fun f => { f with objs := mdel f.objs o }) (unmap clk o 0 (2 ^ 64) n)
/-- What flash holds of a dropped object is discarded (R66, R161). -/
def dropNodeObj (clk : Clock) (p : Nat) (k : ObjKind) (num : Nat) (n : Node) : Node :=
  let os := match k, getC n p num with
    | .coll, some c => collObjs p num c
    | _, _ => [nodeObj p k num]
  foldNode os (dropStore clk) n
/-- A secure drop starts a sanitisation of the collection's flash data, generations and originals with it (R66); `none` when it has none. -/
def secureDrop (clk : Clock) (p s : Nat) (t : Tok) (n : Node) : Option Node :=
  let os := match getC n p s with
    | some c => collObjs p s c
    | none => []
  if n.flash.sanits.any (fun x => x.coll == some (p, s)) then some n
  else
    let sets := (os.map (fun o => setsHolding n o 0 (2 ^ 64))).flatten.eraseDups
    if sets.isEmpty then none
    else some (startSanit clk { tok := some t, sets := sets, free := os, coll := some (p, s) } (foldNode os (fun o n => unmap clk o 0 (2 ^ 64) n) n))

/-! ### Generations and originals on flash (R51, R58, R60) -/

/-- Writes the bytes of a generation to a new flash object over the ACTIVE cartridges, through the write stage; answers the object. -/
def storeGen (clk : Clock) (p : Nat) (bs : List Byte) (n : Node) : Node × Nat :=
  let serials := (activeSlots n).map (fun s => (getCart n s).serial)
  match firstFree n.flash.objs 0x90000000 65536 with
  | none => (n, 0)
  | some o =>
    let x : FObj := { ptn := p, blocks := cdiv bs.length 4096, carts := serials }
    let n := modFls (fun f => { f with objs := mset f.objs o { x with base := serials.mapIdx (fun j c => baseFor n c (objShare x j)) } }) n
    (foldNode (List.range x.blocks) (fun b n => stageSector clk o b (slice bs (4096 * b) 4096) false none n) n, o)
/-- Programs what is still staged of a flash object: the root record that names a generation is durable (R59 step 3). -/
def flushStore (clk : Clock) (o : Nat) (n : Node) : Node :=
  foldNode (n.flash.stage.filter (fun x => x.obj == o)) (fun x n => match slotOfBlk n x.obj x.blk with
    | some s => programNow clk s x n
    | none => n) n
/-- The original of an ID goes. -/
def dropOrig (clk : Clock) (p s : Nat) (id : Nat) (n : Node) : Node :=
  match getC n p s with
  | none => n
  | some c => match mget c.orig id with
    | none => n
    | some (b, _) => unmap clk (origObj p s) b (b + origBlocks c.desc) (modC p s (fun c => { c with orig := mdel c.orig id }) n)
/-- The original of a committed insert goes to flash (R51 step 4), in the lowest free blocks of the collection's originals; `t` waits for it. -/
def putOrig (clk : Clock) (p s : Nat) (id : Nat) (v : List W32) (t : Option Tok) (n : Node) : Node :=
  let n := dropOrig clk p s id n
  match getC n p s with
  | none => n
  | some c =>
    let k := origBlocks c.desc
    let b := gapFor k 0 (sortBy (fun a b => decide (a.1 ≤ b.1)) (c.orig.map (fun o => (o.2.1, k))))
    let bs := bytesOf32 v
    let n := needObj p (origObj p s) (modC p s (fun c => { c with orig := mset c.orig id (b, v) }) n)
    foldNode (List.range k) (fun i n => stageSector clk (origObj p s) (b + i) (slice bs (4096 * i) 4096) t.isSome t n) n

end Sys2Proof.Machine
end

