-- ==== Sys2Proof/Machine/Frames.lean ====
section
/-! DEFINITION. Pages, frames and objects, the node's own among them (R178, R179, R181 to R186, R192, Table 9-5), and what the node's own objects hold (R45 to R50,
R159, log 136). -/

namespace Sys2Proof.Machine

def modPage (g : Nat) (f : Page → Page) (n : Node) : Node := modMem (fun m => { m with pages := mmod m.pages g f }) n
def getPage (n : Node) (g : Nat) : Option Page := mget n.mem.pages g

/-! ### Rows, granules and channels in use (R179, R185) -/

/-- Rows of a tier-1 channel in use by pages or migrations, as (row, 1). -/
def rowsIn (n : Node) (c : Nat) : List (Nat × Nat) :=
  sortBy (fun a b => decide (a.1 ≤ b.1)) ((n.mem.pages.map (fun g =>
    (if g.2.tier = 0 && g.2.chan == c then [(g.2.frame % t1Rows, 1)] else []) ++
    (match g.2.mig with
      | some m => if m.tier = 0 && m.chan == c then [(m.frame % t1Rows, 1)] else []
      | none => []))).flatten)
/-- Granules of 256 bytes that a place takes on tier-2 channel `c`, as (first, count): 256 / n on each of n channels under SPREAD, sectors when compressed, else the frame. -/
def spanOn (c chan frame mode sectors : Nat) (chans : List Nat) : List (Nat × Nat) :=
  if mode = 1 then (if chans.contains c then [(frame, cdiv 256 chans.length)] else [])
  else if chan ≠ c then [] else if mode = 2 then [(16 * (frame % 2 ^ 25), 16 * (sectors + 1))] else [(256 * (frame % 2 ^ 21), 256)]
/-- Granules of a tier-2 channel in use. -/
def granIn (n : Node) (c : Nat) : List (Nat × Nat) :=
  (n.mem.pages.map (fun g =>
    (if g.2.tier = 1 then spanOn c g.2.chan g.2.frame g.2.mode g.2.sectors g.2.chans else []) ++
    (match g.2.mig with
      | some m => if m.tier = 1 then spanOn c m.chan m.frame m.mode m.sectors m.chans else []
      | none => []))).flatten
/-- The lowest run of `k` units of `a` granules that is free on every channel of `cs`: its first granule. -/
def freeGran (n : Node) (cs : List Nat) (a k : Nat) : Option Nat :=
  let used := sortBy (fun x y => decide (x.1 ≤ y.1)) (((cs.map (granIn n)).flatten).map (fun u => (u.1 / a, cdiv (u.1 + u.2) a - u.1 / a)))
  let i := gapFor k (256 * t2Reserved n / a) used
  if cs.all (fun c => decide (a * (i + k) ≤ (vget n.mem.t2 c).gib * 2 ^ 22)) then some (a * i) else none
/-- The `k` lowest rows from `r` on that are not in use. -/
def lowRows : Nat → Nat → Nat → List (Nat × Nat) → List Nat
  | 0, _, _, _ => []
  | _, 0, _, _ => []
  | fuel + 1, k + 1, r, us =>
    if t1Rows ≤ r then []
    else match us with
      | [] => r :: lowRows fuel k (r + 1) []
      | u :: us => if r < u.1 then r :: lowRows fuel k (r + 1) (u :: us) else lowRows fuel (k + 1) (max r (u.1 + 1)) us
/-- Channels that a policy names (Table 9-3). -/
def polT1 (x : Ptn) (w : W64) : List Nat := (t1Chans x).filter (fun c => fld w 32 8 == 0 || bit w (32 + c / 16))
def polT2 (n : Node) (x : Ptn) (w : W64) : List Nat := (t2Chans n x).filter (fun c => fld w 16 12 == 0 || bit w (16 + c))
/-- Channels in round robin from position `i`. -/
def rotate (l : List Nat) (i : Nat) : List Nat := let k := i % max 1 l.length; l.drop k ++ l.take k
/-- `k` rows in round robin over the channels; one without a free row is passed over. -/
def deal : Nat → List (Nat × List Nat) → List (Nat × Nat)
  | 0, _ => []
  | _ + 1, [] => []
  | _ + 1, (_, []) :: _ => []
  | k + 1, (c, r :: rs) :: q => (c, r) :: deal k (q ++ (if rs.isEmpty then [] else [(c, rs)]))
/-- Places for `k` pages of an object in tier 1, from page `i` on. -/
def placeT1 (n : Node) (p : Nat) (cs : List Nat) (i k : Nat) : Option (List PMig) :=
  if capT1 n p < usedT1 n p + k then none
  else
    let qs := (rotate cs i).map (fun c =>
      let us := rowsIn n c
      (c, lowRows (k + us.length) k t1Reserved us))
    let l := deal k (qs.filter (fun q => !q.2.isEmpty))
    if l.length = k then some (l.map (fun x => { tier := 0, chan := x.1, frame := x.1 * t1Rows + x.2 })) else none
/-- A place for page `i` in tier 2, stored in the form `fm` (R185): mode and sectors. The `FRAME` of a SPREAD page is its first granule on its channels (log 138). -/
def placeT2 (n : Node) (p : Nat) (cs : List Nat) (i : Nat) (fm : Nat × Nat) : Option PMig :=
  let k := if fm.1 = 2 then fm.2 + 1 else 16
  if 16 * capT2 n p < usedT2s n p + k || cs.isEmpty then none
  else if fm.1 = 1 then (freeGran n cs 1 (cdiv 256 cs.length)).map (fun g => { tier := 1, chan := cs.headD 0, frame := g, mode := 1, chans := cs })
  else (rotate cs i).findSome? (fun c =>
    if fm.1 = 2 then (freeGran n [c] 16 k).map (fun g => { tier := 1, chan := c, frame := c * 2 ^ 25 + g / 16, mode := 2, sectors := fm.2 })
    else (freeGran n [c] 256 1).map (fun g => { tier := 1, chan := c, frame := c * 2 ^ 21 + g / 256 }))

/-! ### Where the arrays of a generation lie in its objects (R45 to R49, log 136) -/

/-- Offsets of a list's arrays in the objects of its generation: sketches, attribute records, block summaries and tombstones (one object), node record and descriptor (one), codes
and scales (one), IDs (one). -/
structure ListAt where
  sketch : Nat
  attr   : Nat
  sums   : Nat
  tomb   : Nat
  node   : Nat
  desc   : Nat
  code   : Nat
  scale  : Nat
  ids    : Nat
def up64 (a : Nat) : Nat := 64 * cdiv a 64
/-- Bytes of an entry's N4 codes (R45); none under HAMMING. -/
def codeLen (d : CollDesc) : Nat := if d.metric = 3 then 0 else d.dim / 2
/-- Size of a routing-graph node (R49). -/
def nodeSize (d : CollDesc) : Nat := 64 * cdiv (160 + (if d.metric = 3 then skBits d.skw / 8 else d.dim)) 64
/-- Ends of the four objects so far, and the lists placed. -/
def layLists (d : CollDesc) (fmt : Nat) : List (Nat × GList) → Nat × Nat × Nat × Nat → List (Nat × ListAt) × (Nat × Nat × Nat × Nat)
  | [], e => ([], e)
  | (l, x) :: r, (a, g, c, i) =>
    let k := x.body.length
    let attr := up64 (a + k * (skBits d.skw / 8))
    let sums := up64 (attr + 16 * k)
    let tomb := up64 (sums + (if fmt = 4 then 16 * cdiv k 256 else 0))
    let scale := up64 (c + k * codeLen d)
    let at_ : ListAt := { sketch := a, attr := attr, sums := sums, tomb := tomb, node := g, desc := g + nodeSize d, code := c, scale := scale, ids := i }
    let (rest, e) := layLists d fmt r (up64 (tomb + 32 * cdiv k 256), g + nodeSize d + 64, if d.metric = 3 then c else up64 (scale + 2 * k), up64 (i + 8 * k))
    ((l, at_) :: rest, e)
def layGen (d : CollDesc) (g : Gen) : List (Nat × ListAt) × (Nat × Nat × Nat × Nat) := layLists d g.hdr.fmt g.lists (0, 0, 0, 0)
def listAt (d : CollDesc) (g : Gen) (l : Nat) : Option ListAt := mget (layGen d g).1 l
/-- Slots of the ID map: at most three in four are taken (R47). -/
def idSlots (g : Gen) : Nat := cdiv (4 * g.idMap.length) 3
/-- Bytes of the object that holds a part of a generation. -/
def partBytes (d : CollDesc) (g : Gen) (k : GenPart) : Nat :=
  let e := (layGen d g).2
  match k with
  | .rinse => e.1
  | .graph => e.2.1
  | .codes => e.2.2.1
  | .ids => e.2.2.2 + 16 * idSlots g

/-! ### Objects by use -/

def objUsed (x : Ptn) (u : ObjUse) : Option (Nat × Obj) := x.objs.find? (fun o => o.2.use_ == u)
/-- Node address of an offset of an object (R178). -/
def nodeAddr (o : Obj) (off : Nat) : Nat := 65536 * o.pages.getD (off / 65536) 0 + off % 65536
/-- Node address of an offset of the object of this use; 0 where there is none. -/
def useAddr (x : Ptn) (u : ObjUse) (off : Nat) : Nat := ((objUsed x u).map (fun o => nodeAddr o.2 off)).getD 0
/-- The generation of a collection with this number, with what was replayed into it where a swap fills it. -/
def genNamed (c : Coll) (gen : W64) : Option Gen :=
  (c.cur.toList ++ (c.swap.map (·.work)).toList ++ c.staged.toList ++ c.retired).find? (fun g => g.hdr.gen == gen)

/-! ### Rows of a table (R159) -/

/-- A row's elements: +0 where nothing was written (R159). -/
def rowOfT (t : Tbl) (r : Nat) : List W32 := (mget t.data r).getD (List.replicate t.width 0)
def rowPoisoned (t : Tbl) (r : Nat) : Bool := t.poison.any (fun x => x.1 == r)
/-- A row stored; a row of +0 in every element is not listed. -/
def putRow (t : Tbl) (r : Nat) (v : List W32) : Tbl :=
  { t with data := if v.all (· == 0) then mdel t.data r else mset t.data r v }
/-- Where a row lies: its hot slot, or base + 4W × r of the home array (R159). -/
def rowPlace (tn : Nat) (t : Tbl) (r : Nat) : ObjUse × Nat := match mget t.dir r with
  | some s => (.hot tn, 4 * t.width * s)
  | none => (.home tn, 4 * t.width * r)

/-! ### What the node's objects hold -/

/-- N8 codes as bytes. -/
def codeBytes (l : List Int) : List Byte := l.map (fun c => BitVec.ofInt 8 c)
/-- Table 3-7. -/
def nodeRecord (d : CollDesc) (l : Nat) (x : GList) : List Byte :=
  let nb := x.nbr.take 32
  let b := toLe 4 l ++ toLe 2 (b2n x.waypoint) ++ toLe 1 nb.length ++ toLe 9 0 ++ toLe 2 x.cscale.toNat ++ toLe 14 0 ++
    (nb.map (toLe 4)).flatten ++ List.replicate (4 * (32 - nb.length)) 0xFF ++ (if d.metric = 3 then toLe (skBits d.skw / 8) x.csketch else codeBytes x.centroid)
  b ++ List.replicate (nodeSize d - b.length) 0
/-- Table 3-6. -/
def listDesc (x : Ptn) (d : CollDesc) (s : Nat) (gen : W64) (a : ListAt) (y : GList) : List Byte :=
  let ad (k : GenPart) (off : Nat) : List Byte := toLe 8 (useAddr x (.gen s gen k) off)
  let ham (b : List Byte) : List Byte := if d.metric = 3 then toLe 8 0 else b
  ad .rinse a.sketch ++ ad .rinse a.attr ++ ham (ad .codes a.code) ++ ham (ad .codes a.scale) ++ ad .ids a.ids ++ ad .rinse a.tomb ++
    toLe 4 y.body.length ++ toLe 4 y.sap.length ++ toLe 4 y.live ++ toLe 4 (y.chunks.headD 0xFFFFFFFF)
/-- Bits as bytes, the first bit in bit 0. -/
def bitBytes (l : List Bool) (bytes : Nat) : List Byte := toLe bytes (l.foldr (fun b a => b2n b + 2 * a) 0)
/-- Sketches, attribute records (Table 3-5), block summaries and tombstone bits of a list (R45, R46), each array at its offset. -/
def rinseSegs (d : CollDesc) (fmt : Nat) (a : ListAt) (y : GList) : List (Nat × List Byte) :=
  let blocks := cdiv y.body.length 256
  let blk (b : Nat) : List BodyEntry := (y.body.drop (256 * b)).take 256
  [(a.sketch, (y.body.map (fun e => toLe (skBits d.skw / 8) e.sketch)).flatten),
   (a.attr, (y.body.map (fun e => toLe 8 e.attr.toNat ++ toLe 2 e.tag.toNat ++ toLe 6 0)).flatten),
   (a.sums, if fmt = 4 then ((List.range blocks).map (fun b => toLe 8 ((blk b).foldl (fun w e => w ||| e.attr) (0 : W64)).toNat ++ toLe 8 0)).flatten else []),
   (a.tomb, ((List.range blocks).map (fun b => bitBytes ((blk b).map (·.tomb) ++ List.replicate (256 - (blk b).length) true) 32)).flatten)]
/-- One slot of the ID map (R47). -/
def idSlot (e : Nat × Nat) : List Byte := toLe 8 e.1 ++ toLe 8 e.2
/-- A Sapling chunk: header and records, by its position in the chain (chapter 03). -/
def chunkSeg (d : CollDesc) (y : GList) (j c : Nat) : Nat × List Byte :=
  (chunkBytes * c, toLe 4 (y.chunks.getD (j + 1) 0xFFFFFFFF) ++ List.replicate 60 0 ++ (((y.sap.drop (64 * j)).take 64).map (sapBytes d)).flatten)
/-- The pieces of a copy's weight image that one object holds. -/
def modelPieces (x : Ptn) (m v : Nat) (u : ObjUse) : List (Nat × List Byte) :=
  match modelOf x m, (mget x.mdls m).bind (fun y => ((y.cur.map (fun b => (y.version, b))).toList ++ y.old).find? (fun c => c.1 == v)) with
  | some d, some (_, img) => ((modelSegs d m v).filter (fun s => s.2.2.1 == u)).map (fun s => (s.2.2.2, slice img s.1 s.2.1))
  | _, _ => []
/-- What an object of the node holds, as (offset, bytes); the rest reads as zeros. The window of a streamed model, whose layout the spec does not give, shows nothing (log 136). -/
def objSegs (x : Ptn) : ObjUse → List (Nat × List Byte)
  | .host => []
  | .gen s gen k => match (mget x.colls s).bind (fun c => (genNamed c gen).map (fun g => (c.desc, g))) with
    | none => []
    | some (d, g) =>
      let (ats, e) := layGen d g
      let each (f : Nat → ListAt → GList → List (Nat × List Byte)) : List (Nat × List Byte) :=
        (ats.map (fun a => match mget g.lists a.1 with
          | some y => f a.1 a.2 y
          | none => [])).flatten
      match k with
      | .rinse => each (fun _ a y => rinseSegs d g.hdr.fmt a y)
      | .graph => each (fun l a y => [(a.node, nodeRecord d l y), (a.desc, listDesc x d s gen a y)])
      | .codes => each (fun _ a y => [(a.code, (y.body.map (fun e => nibbles e.codes)).flatten), (a.scale, (y.body.map (fun e => toLe 2 e.scale.toNat)).flatten)])
      | .ids => each (fun _ a y => [(a.ids, (y.body.map (fun e => toLe 8 e.id.toNat)).flatten)]) ++ [(e.2.2.2, (g.idMap.map idSlot).flatten)]
  | .sapling => (x.colls.map (fun c => ((c.2.cur.toList ++ (c.2.swap.map (·.work)).toList).map (fun g =>
      (g.lists.map (fun l => l.2.chunks.mapIdx (chunkSeg c.2.desc l.2))).flatten)).flatten)).flatten
  | .home tn => match mget x.tbls tn with
    | some t => (t.data.filter (fun r => !mhas t.dir r.1)).map (fun r => (4 * t.width * r.1, bytesOf32 r.2))
    | none => []
  | .hot tn => match mget x.tbls tn with
    | some t => t.dir.map (fun d => (4 * t.width * d.2, bytesOf32 (rowOfT t d.1)))
    | none => []
  | .hotDir tn => match mget x.tbls tn with
    | some t => t.dir.map (fun d => (8 * d.2, toLe 4 d.1 ++ toLe 4 1))
    | none => []
  | .model m v => modelPieces x m v (.model m v)
  | .vectors m v => modelPieces x m v (.vectors m v)
  | .window _ => []
/-- Bytes `off` to `off + len - 1` of pieces. -/
def segRead (segs : List (Nat × List Byte)) (off len : Nat) : List Byte :=
  segs.foldl (fun bs s =>
    if off + len ≤ s.1 || s.1 + s.2.length ≤ off then bs
    else (patch bs (s.1 - off) (s.2.drop (off - s.1))).take len) (List.replicate len 0)
def objRead (x : Ptn) (o : Obj) (off len : Nat) : List Byte := if o.use_ = .host then Mem.readN o.data off len else segRead (objSegs x o.use_) off len
/-- Offset of a record of a generation in its object: the first word of the record (log 136). -/
def recOff (d : CollDesc) (g : Gen) : RecLoc → Option (GenPart × Nat)
  | .node l => (listAt d g l).map (fun a => (.graph, a.node))
  | .block l b => (listAt d g l).map (fun a => (.rinse, a.sketch + 256 * b * (skBits d.skw / 8)))
  | .row l i => (listAt d g l).map (fun a => (.codes, (a.code + i * codeLen d) / 8 * 8))
  | .sap _ _ => none
/-- Offset of a Sapling record in the pool. -/
def sapOff (d : CollDesc) (g : Gen) (l pos : Nat) : Option Nat :=
  (mget g.lists l).bind (fun y => (y.chunks[pos / 64]?).map (fun c => chunkBytes * c + 64 + pos % 64 * sapSize d))
/-- Unreadable records of a generation. -/
def badRecs (g : Gen) : List RecLoc :=
  (g.lists.map (fun l => (if l.2.badNode then [RecLoc.node l.1] else []) ++ l.2.badBlocks.map (RecLoc.block l.1) ++
    l.2.badRows.map (fun i => if i < l.2.body.length then RecLoc.row l.1 i else RecLoc.sap l.1 (i - l.2.body.length)))).flatten
/-- The object and offset of a word that a finding or a read names. -/
def wordAt (x : Ptn) : MemLoc → Option (Nat × Obj × Nat)
  | .obj _ ob off => (mget x.objs ob).map (fun o => (ob, o, off / 8 * 8))
  | .shard _ s gen loc => match (mget x.colls s).bind (fun c => (genNamed c gen).map (fun g => (c.desc, g))) with
    | none => none
    | some (d, g) => match loc with
      | .sap l i => (sapOff d g l i).bind (fun off => (objUsed x .sapling).map (fun o => (o.1, o.2, off)))
      | loc => (recOff d g loc).bind (fun r => (objUsed x (.gen s gen r.1)).map (fun o => (o.1, o.2, r.2)))
  | .row _ tn r e => (mget x.tbls tn).bind (fun t =>
      let (u, off) := rowPlace tn t r
      (objUsed x u).map (fun o => (o.1, o.2, off + e / 2 * 8)))
  | .sram _ _ => none
  | .ctx _ _ => none
/-- Poisoned words of an object, as offsets. -/
def objBad (p : Nat) (x : Ptn) (o : Obj) : List Nat :=
  let at_ (l : MemLoc) : List Nat := ((wordAt x l).filter (fun w => w.2.1.use_ == o.use_)).toList.map (fun w => w.2.2)
  let recs (s : Nat) (g : Gen) : List Nat := ((badRecs g).map (fun r => at_ (.shard p s g.hdr.gen r))).flatten
  let rows (tn : Nat) : List Nat := match mget x.tbls tn with
    | some t => (t.poison.map (fun z => at_ (.row p tn z.1 z.2))).flatten
    | none => []
  nubNat (o.poison ++ match o.use_ with
    | .gen s gen _ => ((mget x.colls s).bind (fun c => (genNamed c gen).map (recs s))).getD []
    | .sapling => (x.colls.map (fun c => ((c.2.cur.toList ++ (c.2.swap.map (·.work)).toList).map (recs c.1)).flatten)).flatten
    | .home tn => rows tn
    | .hot tn => rows tn
    | _ => [])

/-! ### What a policy asks of a page (R183, R185) -/

/-- The 64 KiB of a page's content. -/
def pageBytes (x : Ptn) (o : Obj) (i : Nat) : List Byte := objRead x o (65536 * i) 65536
/-- How page `i` of an object is stored in tier 2 (R185): mode and sectors. -/
def t2Form (x : Ptn) (o : Obj) (i : Nat) : Nat × Nat :=
  match fld o.policy 4 2 with
  | 2 => if bit o.policy 3 then (let k := Config.sectorsOf (pageBytes x o i); if 1 ≤ k && decide (k < 16) then (2, k - 1) else (0, 0)) else (0, 0)
  | m => (m, 0)
/-- Where page `i` should move to conform; `none` when it conforms. -/
def pageWant (n : Node) (p : Nat) (o : Obj) (i : Nat) (g : Page) : Option Nat :=
  let x := getP n p
  let w := o.policy
  let cs := polT2 n x w
  let okT1 := g.tier == 0 && (polT1 x w).contains g.chan
  let okT2 := g.tier == 1 && (if g.mode = 1 then g.chans == cs else cs.contains g.chan) && (g.mode, g.sectors) == t2Form x o i
  match fld w 0 2 with
  | 1 => if okT1 then none else some 0
  | 2 => if okT2 then none else some 1
  | _ => if okT1 || okT2 then none else some g.tier
/-- A place for page `i` of an object in a tier. -/
def placeIn (p : Nat) (o : Obj) (i tier : Nat) (n : Node) : Option PMig :=
  let x := getP n p
  if tier = 0 then (placeT1 n p (polT1 x o.policy) i 1).bind (·.head?) else placeT2 n p (polT2 n x o.policy) i (t2Form x o i)
/-- Starts the migration of page `i` of an object to a tier, where a frame is free (R181 step 1). -/
def movePage (p : Nat) (o : Obj) (i gp tier : Nat) (n : Node) : Node :=
  match placeIn p o i tier n with
  | some m => modPage gp (fun g => { g with mig := some m }) n
  | none => n
/-- Pages of an object that do not conform, as (position, page number, tier wanted). -/
def unruly (n : Node) (p : Nat) (o : Obj) : List (Nat × Nat × Nat) :=
  o.pages.zipIdx.filterMap (fun g => (getPage n g.1).bind (fun y => (pageWant n p o g.2 y).map (fun t => (g.2, g.1, t))))
/-- Starts what migrations an object's policy asks for. -/
def conform (p ob : Nat) (n : Node) : Node :=
  match mget (getP n p).objs ob with
  | none => n
  | some o => foldNode (unruly n p o) (fun u n => match getPage n u.2.1 with
      | some g => if g.mig.isSome then n else movePage p o u.1 u.2.1 u.2.2 n
      | none => n) n
/-- Frees an object's pages. -/
def freeObj (p ob : Nat) (n : Node) : Node :=
  match mget (getP n p).objs ob with
  | none => n
  | some o => modP p (fun x => { x with objs := mdel x.objs ob }) (modMem (fun m => { m with pages := m.pages.filter (fun g => !o.pages.contains g.1) }) n)
/-- `OBJECT_POLICY` commands whose pages conform complete, and an object whose free waited for them is freed. -/
def settlePols (clk : Clock) (p : Nat) (n : Node) : Node :=
  foldNode (getP n p).polCmds (fun c n =>
    let n := conform p c.2 n
    match mget (getP n p).objs c.2 with
    | none => post clk c.1 stSuccess 0 (modP p (fun x => { x with polCmds := x.polCmds.erase c }) n)
    | some o =>
      if (unruly n p o).isEmpty && o.pages.all (fun g => ((getPage n g).bind (·.mig)).isNone) then
        let n := post clk c.1 stSuccess 0 (modP p (fun x => { x with polCmds := x.polCmds.erase c }) n)
        match o.freeing with
        | some t => if (getP n p).polCmds.any (fun y => y.2 == c.2) then n else post clk t stSuccess 0 (freeObj p c.2 n)
        | none => n
      else n) n

/-! ### Where a word lies, and what meets poison there (R190) -/

/-- Tier-1 channels of a partition, ascending. -/
def chansOf (x : Ptn) : List Nat := t1Chans x
/-- Where entry group g of list l lies: channel and chain position (R192). -/
def groupAt (x : Ptn) (l : Nat) (y : GList) (g : Nat) : Nat × Nat :=
  let cs := chansOf x
  (cs.getD ((y.chan + g / 2048) % max 1 cs.length) 0, (l + g) % 32)
/-- Where a Sapling chunk lies (R192). -/
def chunkAt (x : Ptn) (c : Nat) : Nat × Nat := ((chansOf x).getD (c / 32 % max 1 (chansOf x).length) 0, c % 32)
/-- Channel and chain position of hot slot `s`: bank s mod n of the partition's n tier-1 banks, 32 to a channel (R159, log 44). -/
def slotBank (x : Ptn) (s : Nat) : Nat × Nat :=
  let cs := chansOf x
  let b := s % (32 * max 1 cs.length)
  (cs.getD (b / 32) 0, b % 32)
/-- Where a word of an object lies (Table 13-6, the bits above the kind): stack, channel and chain position of a tier-1 page, the channel of a LOCAL or compressed tier-2 page,
the granule's channel of a SPREAD one (R185). -/
def wordPlace (n : Node) (_p : Nat) (o : Obj) (off : Nat) : Nat := match getPage n (o.pages.getD (off / 65536) 0) with
  | none => 0
  | some g =>
    if g.tier = 0 then placeOf g.chan (off % 65536 / 2048)
    else 2 ^ 17 + 2 ^ 13 * (if g.mode = 1 then g.chans.getD (off % 65536 / 256 % max 1 g.chans.length) 0 else g.chan)
/-- The same for any word: a rinse record, a Sapling record and a hot slot lie where R192 and R159 put them. -/
def locPlace (n : Node) (p : Nat) (l : MemLoc) : Nat :=
  let x := getP n p
  let bank (b : Nat × Nat) : Nat := placeOf b.1 b.2
  let gl (s : Nat) (gen : W64) (l : Nat) : Option GList := ((mget x.colls s).bind (genNamed · gen)).bind (fun g => mget g.lists l)
  match l, wordAt x l with
  | .shard _ s gen (.block l b), _ => ((gl s gen l).map (fun y => bank (groupAt x l y (4 * b)))).getD 0
  | .shard _ s gen (.sap l i), _ => ((gl s gen l).bind (fun y => (y.chunks[i / 64]?).map (fun c => bank (chunkAt x c)))).getD 0
  | .row _ tn r _, some w => match (mget x.tbls tn).bind (fun t => mget t.dir r) with
    | some s => bank (slotBank x s)
    | none => wordPlace n p w.2.1 w.2.2
  | _, some w => wordPlace n p w.2.1 w.2.2
  | _, none => 0
/-- The word lies in tier 1: a scrub meets it by DSCRUB. -/
def locTier1 (n : Node) (p : Nat) (l : MemLoc) : Bool := match wordAt (getP n p) l with
  | some w => (getPage n (w.2.1.pages.getD (w.2.2 / 65536) 0)).any (fun g => g.tier == 0)
  | none => false
/-- Address that a memory error record gives: the node address, or the SRAM location (R190). -/
def locAddr (n : Node) (p : Nat) (l : MemLoc) : Nat := match l with
  | .sram _ w => w
  | l => ((wordAt (getP n p) l).map (fun w => nodeAddr w.2.1 w.2.2)).getD 0
/-- A word that a command, scrub or a page copy meets: one record of the kind given. `dop`: the Darner operation, where one met it. -/
def metWord (clk : Clock) (p kind : Nat) (l : MemLoc) (dop : Nat) (t : Option Tok) (thread : Nat) (n : Node) : Node :=
  memRecord clk p kind (locAddr n p l) (locPlace n p l) dop t thread n
/-- Poisoned words that a thread meets: a POISON_READ record each. -/
def metLocs (clk : Clock) (p dop thread : Nat) (t : Option Tok) (ls : List MemLoc) (n : Node) : Node :=
  foldNode ls (fun l n => metWord clk p 3 l dop t thread n) n
/-- The two elements of a poisoned 64-bit word of a row count once. -/
def rowWords (p tn : Nat) (t : Tbl) (r : Nat) : List MemLoc := (nubNat ((t.poison.filter (fun z => z.1 == r)).map (fun z => z.2 / 2 * 2))).map (fun e => .row p tn r e)

/-! ### Errors that accesses and scrub meet (R187, R188, R194, R303) -/

/-- The owner of a word. -/
def locPtn : MemLoc → Nat
  | .obj p _ _ => p
  | .shard p _ _ _ => p
  | .row p _ _ _ => p
  | .sram p _ => p
  | .ctx p _ => p
/-- Damage to a record of a generation, or its repair. -/
def setBad (bad : Bool) (loc : RecLoc) (g : Gen) : Gen :=
  let upd (l : List Nat) (i : Nat) : List Nat := if bad then nubNat (i :: l) else l.filter (· != i)
  match loc with
  | .node l => { g with lists := mmod g.lists l (fun x => { x with badNode := bad }) }
  | .block l b => { g with lists := mmod g.lists l (fun x => { x with badBlocks := upd x.badBlocks b }) }
  | .row l i => { g with lists := mmod g.lists l (fun x => { x with badRows := upd x.badRows i }) }
  | .sap l i => { g with lists := mmod g.lists l (fun x => { x with badRows := upd x.badRows (x.body.length + i) }) }
/-- The same in the copy of a collection's generation with this number, current, staged, being swapped in or retired; what flash holds of it is not touched. -/
def damage (p s : Nat) (gen : W64) (bad : Bool) (loc : RecLoc) (n : Node) : Node :=
  let at_ (g : Gen) : Gen := if g.hdr.gen = gen then setBad bad loc g else g
  modC p s (fun c => { c with
    cur := c.cur.map at_, retired := c.retired.map at_, swap := c.swap.map (fun w => { w with work := at_ w.work })
    staged := c.staged.map at_ }) n
/-- Records of a list with the offsets that they take in the object of part `k`: (record, first, length). -/
def listRecs (d : CollDesc) (k : GenPart) (l : Nat) (a : ListAt) (y : GList) : List (RecLoc × Nat × Nat) :=
  let sk := skBits d.skw / 8
  let blocks := List.range (cdiv y.body.length 256)
  match k with
  | .graph => [(.node l, a.node, nodeSize d)]
  | .rinse => (blocks.map (fun b => [(RecLoc.block l b, a.sketch + 256 * b * sk, 256 * sk), (.block l b, a.attr + 4096 * b, 4096), (.block l b, a.sums + 16 * b, 16), (.block l b, a.tomb + 32 * b, 32)])).flatten
  | .codes => ((List.range y.body.length).map (fun i => [(RecLoc.row l i, a.code + i * codeLen d, codeLen d), (.row l i, a.scale + 2 * i, 2)])).flatten
  | .ids => []
/-- The record or row to which a word of one of the node's objects belongs; the word itself where there is none. -/
def locOfWord (p : Nat) (x : Ptn) (ob off : Nat) : MemLoc :=
  let self : MemLoc := .obj p ob off
  match mget x.objs ob with
  | none => self
  | some o => match o.use_ with
    | .home tn => match mget x.tbls tn with
      | some t => .row p tn (off / (4 * max 1 t.width)) (off % (4 * max 1 t.width) / 4)
      | none => self
    | .hot tn => match (mget x.tbls tn).bind (fun t => (t.dir.find? (fun d => d.2 == off / (4 * max 1 t.width))).map (fun d => (t, d.1))) with
      | some (t, r) => .row p tn r (off % (4 * max 1 t.width) / 4)
      | none => self
    | .gen s gen k => match (mget x.colls s).bind (fun c => (genNamed c gen).map (fun g => (c.desc, g))) with
      | some (d, g) =>
        match (((layGen d g).1.map (fun a => ((mget g.lists a.1).map (listRecs d k a.1 a.2)).getD [])).flatten).find? (fun r => decide (r.2.1 ≤ off ∧ off < r.2.1 + r.2.2)) with
        | some r => .shard p s gen r.1
        | none => self
      | none => self
    | .sapling =>
      let at_ (s : Nat) (c : Coll) (g : Gen) : List MemLoc := (g.lists.map (fun l => (l.2.chunks.zipIdx.filter (fun k => k.1 == off / chunkBytes && decide (64 ≤ off % chunkBytes))).map (fun k =>
        MemLoc.shard p s g.hdr.gen (.sap l.1 (64 * k.2 + (off % chunkBytes - 64) / sapSize c.desc))))).flatten
      ((x.colls.map (fun c => ((c.2.cur.toList ++ (c.2.swap.map (·.work)).toList).map (at_ c.1 c.2)).flatten)).flatten).headD self
    | _ => self
def normLoc (n : Node) (l : MemLoc) : MemLoc := match l with
  | .obj p ob off => locOfWord p (getP n p) ob off
  | l => l
/-- The word holds poison already. -/
def poisoned (n : Node) (l : MemLoc) : Bool :=
  let x := getP n (locPtn l)
  match l with
  | .obj _ ob off => (mget x.objs ob).any (fun o => o.poison.contains (off / 8 * 8))
  | .shard _ s gen loc => ((mget x.colls s).bind (genNamed · gen)).any (fun g => (badRecs g).contains loc)
  | .row _ tn r e => (mget x.tbls tn).any (fun t => t.poison.contains (r, e / 2 * 2))
  | .sram _ w => x.sramBad.contains w
  | .ctx _ _ => false
/-- Writes poison over a word (R188), or retires what holds it (R303). -/
def poisonAt (clk : Clock) (l : MemLoc) (n : Node) : Node := match l with
  | .obj p ob off => modP p (fun x => { x with objs := mmod x.objs ob (fun o => { o with poison := nubNat (o.poison ++ [off / 8 * 8]) }) }) n
  | .shard p c gen loc => damage p c gen true loc n
  | .row p t r k => modT p t (fun y => { y with poison := y.poison.filter (fun z => z != (r, k / 2 * 2) && z != (r, k / 2 * 2 + 1)) ++ [(r, k / 2 * 2), (r, k / 2 * 2 + 1)] }) n
  | .sram p w => modP p (fun x => { x with sramBad := nubNat (x.sramBad ++ [w]) }) n
  | .ctx p i =>
    let n := if n.mem.spareCtx = 0 then modP p (fun x => { x with share := x.share - 1 }) n else modMem (fun m => { m with spareCtx := m.spareCtx - 1 }) n
    spareRecord clk p spCtx i n
/-- A word that reads wrongly (R187): the model follows it in host objects and table rows (log 17). -/
def spoilAt (l : MemLoc) (v : W64) (n : Node) : Node := match l with
  | .obj p ob off => modP p (fun x => { x with objs := mmod x.objs ob (fun o => { o with data := Mem.writeN o.data (off / 8 * 8) (toLe 8 v.toNat) }) }) n
  | .row p t r k => modT p t (fun y => putRow y r ((rowOfT y r).mapIdx (fun j w =>
      if j = k / 2 * 2 then v.setWidth 32 else if j = k / 2 * 2 + 1 then (v >>> 32).setWidth 32 else w))) n
  | _ => n
/-- A tier-1 row: all but on-die SRAM and what the channel number does not reach. -/
def inT1 (f : Finding) : Bool := f.chan < 128 && (match f.loc with
  | .sram _ _ => false
  | _ => true)
/-- An uncorrectable word: poison is written over it and a record of the kind given is logged; a tier-1 row is spared (R187, R188, R190, R303). -/
def uncorrectable (clk : Clock) (kind dop : Nat) (t : Option Tok) (thread : Nat) (f : Finding) (n : Node) : Node :=
  let p := locPtn f.loc
  let sram : Bool := match f.loc with
    | .sram _ _ => true
    | _ => false
  let n := memRecord clk p (if sram then 6 else kind) (locAddr n p f.loc) (if inT1 f then placeOf f.chan f.pos else locPlace n p f.loc) dop t thread (poisonAt clk f.loc n)
  if inT1 f then
    spareRow clk f.chan f.pos f.row (modMem (fun m => { m with chans := vmod m.chans f.chan (fun c => { c with
      ueRows := c.ueRows.filter (fun r => !(r.1 == f.pos && r.2.1 == f.row)) ++ [(f.pos, f.row, clk.node)] }) }) n)
  else n
/-- One codeword found in error (R187): one or two bits are corrected, three are uncorrectable, and what four or more give is free. Poison that further errors have hit stays poison. -/
def meetError (clk : Clock) (kind dop : Nat) (t : Option Tok) (thread : Nat) (f : Finding) (n : Node) : Node :=
  let p := locPtn f.loc
  if f.bits = 0 || 8 ≤ p then n
  else if f.bits ≤ 2 then count p .memCe 1 n
  else if poisoned n f.loc then n
  else if f.bits = 3 then uncorrectable clk kind dop t thread f n
  else
    let (i, n) := nextFree n
    match (Config.missKind i).val with
    | 0 => uncorrectable clk kind dop t thread f n
    | 1 => count p .memCe 1 (spoilAt f.loc (Config.miscorrect i) n)
    | _ => spoilAt f.loc (Config.miscorrect i) n
/-- An access reads the words that `hit` names: the errors there that nothing has read yet are met with the kind given (R187). -/
def meetErrs (clk : Clock) (kind dop : Nat) (t : Option Tok) (thread : Nat) (hit : MemLoc → Bool) (n : Node) : Node :=
  let fs := n.mem.errs.filter (fun f => hit (normLoc n f.loc))
  if fs.isEmpty then n
  else foldNode fs (fun f n => meetError clk kind dop t thread { f with loc := normLoc n f.loc } n) (modMem (fun m => { m with errs := m.errs.filter (fun f => !fs.contains f) }) n)
/-- Errors met by reads that depend on what they find: `hit` is asked again after each round of errors met. -/
def meetAll (clk : Clock) (dop : Nat) (t : Option Tok) (thread : Nat) (hit : Node → MemLoc → Bool) : Nat → Node → Node
  | 0, n => n
  | k + 1, n => if n.mem.errs.any (fun f => hit n (normLoc n f.loc)) then meetAll clk dop t thread hit k (meetErrs clk 1 dop t thread (hit n) n) else n
/-- What the reads of a thread meet: errors at the words that `locs` names, and the poison that lay at those of `pois` before. -/
def readAll (clk : Clock) (p dop : Nat) (t : Option Tok) (thread : Nat) (locs pois : Node → List MemLoc) (n : Node) : Node :=
  let n1 := meetAll clk dop t thread (fun n l => (locs n).contains l) n.mem.errs.length n
  metLocs clk p dop thread t ((pois n1).filter (poisoned n)) n1
/-- A read by a thread: poison that lies there already is recorded as POISON_READ, and errors not met before as UE_READ (Table 9-7). -/
def readWords (clk : Clock) (p : Nat) (t : Option Tok) (thread : Nat) (bad : List MemLoc) (hit : MemLoc → Bool) (n : Node) : Node :=
  meetErrs clk 1 0 t thread hit (metLocs clk p 0 thread t bad n)
/-- The row of a table. -/
def isRow (p tn r : Nat) : MemLoc → Bool
  | .row q t k _ => q == p && t == tn && k == r
  | _ => false
/-- A record of a generation. -/
def isRec (p s : Nat) (gen : W64) (r : RecLoc) (l : MemLoc) : Bool := l == .shard p s gen r

/-! ### Pages taken -/

/-- Each 64-byte access raises the heat of its page, and a modifying one marks its granules (R181, R182). -/
def heatRange (o : Obj) (off len : Nat) (dirty : Bool) (n : Node) : Node :=
  if len = 0 then n
  else foldNode (o.pages.zipIdx.filter (fun g => decide (65536 * g.2 < off + len ∧ off < 65536 * (g.2 + 1)))) (fun g n =>
    let lo := max off (65536 * g.2)
    let hi := min (off + len) (65536 * (g.2 + 1))
    modPage g.1 (fun y => { y with
      heat := min 255 (y.heat + cdiv (hi - lo) 64)
      mig := if dirty then y.mig.map (fun m => { m with dirty := nubNat (m.dirty ++ (List.range (cdiv hi 256 - lo / 256)).map (fun k => (lo / 256 + k) % 256)) }) else y.mig }) n) n
/-- The same for an object of the node. -/
def heatUse (p : Nat) (u : ObjUse) (off len : Nat) (dirty : Bool) (n : Node) : Node := match objUsed (getP n p) u with
  | some o => heatRange o.2 off len dirty n
  | none => n
/-- Access to a row of a table where it lies. -/
def heatRow (p tn r : Nat) (dirty : Bool) (n : Node) : Node := match getT n p tn with
  | some t =>
    let (u, off) := rowPlace tn t r
    heatUse p u off (4 * t.width) dirty n
  | none => n
/-- A page with its place. -/
def Page.at_ (g : Page) (m : PMig) : Page := { g with tier := m.tier, chan := m.chan, frame := m.frame, mode := m.mode, sectors := m.sectors, chans := m.chans, mig := none }
/-- Allocates pages in tier 2 one after another; none when a frame is missing. -/
def allocT2 (p ob : Nat) (o : Obj) : List (Nat × Nat) → Node → Option Node
  | [], n => some n
  | (i, gp) :: r, n =>
    match placeT2 n p (polT2 n (getP n p) o.policy) i (t2Form (getP n p) o i) with
    | none => none
    | some m => allocT2 p ob o r (modMem (fun y => { y with pages := mset y.pages gp (Page.at_ { obj := ob, ptn := p, pin := bit o.policy 2 } m) }) n)
/-- Allocates the pages of an object, given as (position, page number): in tier 1 under `PLACE` TIER1, else in tier 2 (R183). -/
def allocPages (p ob : Nat) (o : Obj) (gs : List (Nat × Nat)) (n : Node) : Option Node :=
  if fld o.policy 0 2 = 1 then
    (placeT1 n p (polT1 (getP n p) o.policy) 0 gs.length).map (fun ms =>
      modMem (fun y => { y with pages := (List.zip gs ms).foldl (fun l g => mset l g.1.2 (Page.at_ { obj := ob, ptn := p, pin := bit o.policy 2 } g.2)) y.pages }) n)
  else allocT2 p ob o gs n

/-! ### Objects that the node makes (R186, Table 9-5) -/

/-- Pages 0 to P - 1 exist (R178). -/
def pageCount (n : Node) : Nat := 16384 * (512 + sumNat ((n.mem.t2.toList.filter (fun t => t.st == 1)).map (·.gib)))
/-- Policies of Table 9-5, by place, pin, `T2MODE`, layout. Body parts are SEALED once staged; host writes to the node's other structures are refused in the same way (log 136). -/
def usePolicy (u : ObjUse) : W64 := match u with
  | .host => 0
  | .gen _ _ .rinse => 0x10D
  | .gen _ _ .graph => 0x00D
  | .gen _ _ .codes => 0x018
  | .gen _ _ .ids => 0x00E
  | .sapling => 0x10D
  | .home _ => 0
  | .hot _ => 0x20D
  | .hotDir _ => 0x00D
  | .model _ _ => 0x00D
  | .vectors _ _ => 0x00D
  | .window _ => 0x00D
/-- Makes an object of the node: the lowest free number from 0xF000, the lowest run of free page numbers that holds it (log 8), frames under its policy; none where one of them is missing.
Nothing is made for no bytes. -/
def makeObj (p : Nat) (u : ObjUse) (policy : W64) (bytes : Nat) (n : Node) : Option Node :=
  let k := cdiv bytes 65536
  if k = 0 then some n
  else match firstFree (getP n p).objs 0xF000 0xFFF with
    | none => none
    | some ob =>
      let b := gapFor k 0 (n.mem.pages.map (fun g => (g.1, 1)))
      if pageCount n < b + k then none
      else
        let gs := (List.range k).map (b + ·)
        let o : Obj := { use_ := u, policy := policy, pages := gs }
        (allocPages p ob o (gs.mapIdx (fun i g => (i, g))) n).map (modP p (fun x => { x with objs := mset x.objs ob o }))
/-- Frees the node's objects of some uses; a command that changes their policy has nothing left to wait for. -/
def dropUses (clk : Clock) (p : Nat) (f : ObjUse → Bool) (n : Node) : Node :=
  let os := ((getP n p).objs.filter (fun o => f o.2.use_)).map (·.1)
  if os.isEmpty then n else settlePols clk p (foldNode os (freeObj p) n)
def genParts : List GenPart := [.rinse, .graph, .codes, .ids]
/-- Policy of a part of a generation: the partition section's where it gives one; the rinse objects' is fixed (Table 9-5). -/
def partPolicy (x : Ptn) (s : Nat) (gen : W64) (k : GenPart) : W64 :=
  match (if k = .rinse then none else x.sec.bind (fun y => y.place.find? (fun e => e.1 == k))) with
  | some e => e.2 ||| 8
  | none => usePolicy (.gen s gen k)
/-- Makes the objects of a generation that the collection already names. -/
def makeGen (p s : Nat) (g : Gen) (n : Node) : Option Node :=
  match getC n p s with
  | none => none
  | some c => genParts.foldl (fun m k => m.bind (makeObj p (.gen s g.hdr.gen k) (partPolicy (getP n p) s g.hdr.gen k) (partBytes c.desc g k))) (some n)
/-- The objects of the generations of slot `s` that `f` names are freed (R60). -/
def dropGens (clk : Clock) (p s : Nat) (f : W64 → Bool) (n : Node) : Node :=
  dropUses clk p (fun u => match u with
    | .gen c g _ => c == s && f g
    | _ => false) n
/-- The ID map has outgrown its object: a larger one takes its place, where there is room (R47, log 136). -/
def growIds (clk : Clock) (p s : Nat) (n : Node) : Node :=
  match (getC n p s).bind (fun c => c.cur.map (fun g => (c.desc, g))) with
  | none => n
  | some (d, g) =>
    let u : ObjUse := .gen s g.hdr.gen .ids
    match objUsed (getP n p) u with
    | none => n
    | some o =>
      if partBytes d g .ids ≤ 65536 * o.2.pages.length then n
      else (makeObj p u o.2.policy (partBytes d g .ids) (dropUses clk p (· == u) n)).getD n
/-- The Sapling pool's object. -/
def makePool (clk : Clock) (p : Nat) (n : Node) : Node :=
  let k := ((getP n p).sec.map (·.sapPool)).getD 0
  match objUsed (getP n p) .sapling with
  | some o => if o.2.pages.length = cdiv (k * chunkBytes) 65536 then n
    else
      let n := dropUses clk p (· == .sapling) n
      (makeObj p .sapling (usePolicy .sapling) (k * chunkBytes) n).getD n
  | none => (makeObj p .sapling (usePolicy .sapling) (k * chunkBytes) n).getD n

end Sys2Proof.Machine
end

