-- ==== Sys2Proof/Machine/Route.lean ====
section
/-! DEFINITION. The routing walk (R71, R72), entries of a list, pipeline stages and their parameters (R68), and the checks of model
stages (R139) that searches and inserts share. -/

namespace Sys2Proof.Machine

/-! ### Pipeline stages -/

def stageOf (g : Graph) (k : StageKind) : Option Stage := g.stages.find? (fun s => s.kind == k)
def hasStage (g : Graph) (k : StageKind) : Bool := (stageOf g k).isSome
/-- A stage parameter (Table 4-4); `dflt` where the graph has no such stage: a search runs ROUTE, RINSE, PRESS and SELECT in any case (DESIGN CHOICE, log 86: the spec does not say what a
graph without them runs). -/
def stagePar (g : Graph) (k : StageKind) (off len dflt : Nat) : Nat := match stageOf g k with
  | some s => leAt s.par off len
  | none => dflt
def graphOf (x : Ptn) (g : Nat) : Option Graph := x.sec.bind (fun s => mget s.graphs g)
/-- A query in flight pools from the table or takes tag rows of it (R166). -/
def poolsFrom (x : Ptn) (tn : Nat) (q : Query) : Bool := (graphOf x q.par.graph).any (fun g => g.stages.any (fun s => s.kind == .pool && (leAt s.par 0 1 == tn || leAt s.par 1 1 == tn)))
/-- A durable command on the table waits for a program or for the buddy. -/
def durOnTbl (n : Node) (p tn : Nat) (t : Tbl) : Bool :=
  let o := nodeObj p .table tn
  n.flash.stage.any (fun x => x.obj == o && !x.toks.isEmpty) || n.flash.progs.any (fun g => g.2.obj == o && !g.2.toks.isEmpty) ||
    t.dur.unsent.any (·.tok.isSome) || t.dur.unacked.any (fun m => m.2.any (·.tok.isSome))
/-- Ends a drop once the fetched commands on the table are done (R161): its rows, hot region, directory and flash data are freed. -/
def finishTblDrop (clk : Clock) (p tn : Nat) (n : Node) : Node :=
  match getT n p tn with
  | none => n
  | some t => match t.drop with
    | none => n
    | some k =>
      if (getP n p).adds.any (fun a => a.2.tbl == tn) || t.own.xfer.isSome || (getP n p).queries.any (fun q => poolsFrom (getP n p) tn q.2) || durOnTbl n p tn t then n
      else
        let n := dropUses clk p (fun u => u == .home tn || u == .hot tn || u == .hotDir tn) n
        post clk k stSuccess 0 (modP p (fun x => { x with tbls := mdel x.tbls tn }) (dropNodeObj clk p .table tn n))
/-- Every drop of a table of the partition that can end. -/
def settleTbls (clk : Clock) (p : Nat) (n : Node) : Node :=
  foldNode (((getP n p).tbls.filter (fun t => t.2.drop.isSome)).map (·.1)) (finishTblDrop clk p) n
def quantOf (x : Ptn) : Quant := match x.sec with
  | some s => s.quant
  | none => {}
/-- `EFF_THR` (Table 5-8). -/
def effThr (x : Ptn) : Nat := if bit x.qntCfg 16 then fld x.qntCfg 0 16 else (quantOf x).clipThr.toNat
/-- State READY or RELOADING (Table 7-7): a copy is there. -/
def modelServes (x : Ptn) (m : Nat) : Bool := match mget x.mdls m with
  | some y => y.cur.isSome
  | none => false
def outWidth (d : ModelDesc) : Nat := if d.outDim = 0 then d.dModel else d.outDim
/-- Every model that a graph names is READY or RELOADING (R139). -/
def graphModels (g : Graph) : List Nat :=
  (g.stages.filter (fun s => s.kind == .encode || s.kind == .score)).map (fun s => leAt s.par 0 1)
def modelsReady (x : Ptn) (g : Graph) : Bool := (graphModels g).all (modelServes x)
/-- Waiting time and batch limits of a stage (Table 7-8). -/
def taskOf (clk : Clock) (p : Nat) (g : Graph) (k : StageKind) (f : TaskFor) (seqs : List (List Nat)) (urgent : Bool) (x : Ptn) : Task :=
  { for_ := f, seqs := seqs, at_ := pctr clk p, urgent := urgent, thr := effThr x, forceN8 := bit x.qntCfg 24
    batchTok := stagePar g k 2 2 512, batchUs := stagePar g k 4 2 20, cores := stagePar g k 6 1 16 }
/-- Puts a task into its model's queue, with a thread of its own, or one that waits for a context (R88). -/
def addTask (clk : Clock) (p m parent : Nat) (tok : Option Tok) (t : Task) (n : Node) : Node :=
  let kind : Nat := match t.for_ with
    | .score _ => 9
    | _ => 2
  let (ci, n) := (takeCtx p { threadCtx clk p kind 2 tok n with parent := parent } n).getD (noCtx, n)
  modP p (fun x => { x with mdls := mmod x.mdls m (fun y => { y with queue := y.queue ++ [{ t with ctx := ci }] }) }) n
/-- The threads of the tasks that work for a thread end with it; a batch that runs goes on without them (Table 7-5). -/
def endTasks (p parent : Nat) (n : Node) : Node :=
  let x := getP n p
  let mine (i : Nat) : Bool := parent != noCtx && ((mget x.ctxs i).any (fun c => c.parent == parent && (c.kind == 2 || c.kind == 9)))
  let off (t : Task) : Task := if mine t.ctx then { t with ctx := noCtx } else t
  modP p (fun x => { x with
    mdls := x.mdls.map (fun m => (m.1, { m.2 with queue := m.2.queue.map off })), batches := x.batches.map (fun b => (b.1, { b.2 with tasks := b.2.tasks.map off }))
    ctxs := x.ctxs.filter (fun c => !mine c.1) }) n
/-- Class Urgent of a command's queue. -/
def isUrgent (n : Node) (t : Tok) : Bool := match getQ n t.fn t.qid with
  | some q => q.cls == 0
  | none => false
/-- Index of a stage in its graph. -/
def stageIdx (g : Graph) (k : StageKind) : Nat := (g.stages.findIdx? (fun s => s.kind == k)).getD 0
/-- R139 for the ENCODE stage of a graph: the outcome of the checks. -/
inductive EncCheck where
  | ok (model : Nat)
  | field
  | token (i : Nat)
  | unavailable
deriving DecidableEq, Repr
def checkEncode (x : Ptn) (g : Graph) (dim : Nat) (toks : List Nat) : EncCheck :=
  if !hasStage g .encode then .field
  else
    let m := stagePar g .encode 0 1 0
    match modelOf x m with
    | none => .unavailable
    | some d =>
      if d.maxSeq < toks.length || outWidth d != dim then .field
      else
        let i := (toks.takeWhile (fun t => decide (t < d.vocab))).length
        if i < toks.length then .token i
        else if modelsReady x g then .ok m else .unavailable

/-! ### Vectors -/

/-- A vector as the collection takes it (R43): its unit vector under COSINE; none for the zero vector there. -/
def prepVec (m : Metric) (v : List W32) : Option (List W32) := match m with
  | .cosine => normalise v
  | _ => some v
/-- The sketch of a prepared vector (R44), and its N8 row. -/
def sketchRow (d : CollDesc) (v : List W32) : CodeRow × Nat :=
  let r := quantise v 127 0x3F80 .fp32
  (r, sketchOf d.projSeed (skBits d.skw) r.codes)
/-- Position of the first NaN or infinity. -/
def firstBad (v : List W32) : Option Nat :=
  let i := (v.takeWhile finite32).length
  if i < v.length then some i else none

/-! ### Lists -/

def glOf (g : Gen) (l : Nat) : Option GList := mget g.lists l
/-- An entry as RINSE and PRESS see it. -/
structure Ent where
  id     : W64
  attr   : W64
  tag    : W16
  sketch : Nat
  codes  : List Int
  scale  : W16
  dead   : Bool
  sap    : Bool
/-- Entry index i of a list (R80): a body entry, then Sapling positions. -/
def entAt (x : GList) (i : Nat) : Option Ent :=
  match x.body[i]? with
  | some e => some ⟨e.id, e.attr, e.tag, e.sketch, e.codes, e.scale, e.tomb, false⟩
  | none => match x.sap[i - x.body.length]? with
    | some r => if r.valid then some ⟨r.id, r.attr, r.tag, r.sketch, r.codes, r.scale, r.deleted, true⟩ else none
    | none => none

/-! ### The walk (R71) -/

/-- What a walk compares with. -/
structure WalkCfg where
  key    : GList → W32
  probe  : GList → Bool
  larger : Bool
  beam   : Nat
  width  : Nat
  maxSt  : Nat
def nearer (larger : Bool) (a b : W32 × Nat) : Bool := better larger a.1 a.2 b.1 b.2
/-- `score(n)`. -/
def scoreList (c : WalkCfg) (g : Gen) (w : Walk) (l : Nat) : Walk :=
  if w.seen.contains l then w
  else
    let w := { w with seen := w.seen ++ [l] }
    match glOf g l with
    | none => { w with skipped := w.skipped + 1 }
    | some x =>
      if x.badNode then { w with skipped := w.skipped + 1 }
      else
        let k := c.key x
        { w with
          scored := w.scored + 1
          bad := w.bad + b2n (isNaN32 k)
          frontier := insertBy (nearer c.larger) (k, l) w.frontier
          result := if !x.waypoint && c.probe x then (insertBy (nearer c.larger) (k, l) w.result).take c.beam else w.result }
/-- The head of the loop: over, or the next round of up to `WIDTH` nodes. -/
def beginRound (c : WalkCfg) (w : Walk) : Walk :=
  match w.frontier with
  | [] => { w with done := true }
  | f :: _ =>
    if c.maxSt ≤ w.steps then { w with done := true, capped := true }
    else
      let worse := match w.result.getLast? with
        | some r => decide (c.beam ≤ w.result.length) && nearer c.larger r f
        | none => false
      if worse then { w with done := true }
      else { w with round := (w.frontier.take c.width).map (·.2), frontier := w.frontier.drop c.width }
/-- One expansion: one ROUTE thread scores the neighbours of one node; after the last of a round the loop head runs. -/
def expandOne (c : WalkCfg) (g : Gen) (w : Walk) : Walk :=
  let w := if w.started then w else
    beginRound c { (g.hdr.entryNode.take g.hdr.nEntry).foldl (scoreList c g) w with started := true }
  match w.round with
  | [] => { w with done := true }
  | l :: rest =>
    let nbr := match glOf g l with
      | some x => x.nbr
      | none => []
    let w := nbr.foldl (scoreList c g) { w with steps := w.steps + 1, round := rest }
    if rest.isEmpty then beginRound c w else w
def walkAll (c : WalkCfg) (g : Gen) : Nat → Walk → Walk
  | 0, w => w
  | k + 1, w => if w.done then w else walkAll c g k (expandOne c g w)
/-- A list's key against a query (R70, R112): N4 codes with their scale, or the sketch under HAMMING. -/
def listKey (m : Metric) (skw : Nat) (scale : W32) (codes : List Int) (sketch : Nat) (x : GList) : W32 := match m with
  | .hamming => hamKey (hamming (skBits skw) sketch x.csketch)
  | m => dequant m scale codes x.cscale x.centroid
/-- The nodes that a walk reads raise the heat of their pages (R182). -/
def heatNodes (p s : Nat) (d : CollDesc) (g : Gen) (seen : List Nat) (n : Node) : Node :=
  let u : ObjUse := .gen s g.hdr.gen .graph
  if (objUsed (getP n p) u).isNone then n
  else
    let ats := (layGen d g).1
    foldNode seen (fun l n => match mget ats l with
      | some a => heatUse p u a.node (nodeSize d) false n
      | none => n) n
/-- The walk of a placement (R52, R72): the defaults of Table 4-4, lists of `LIVE_COUNT` 0 included. -/
def placeWalk (d : CollDesc) (g : Gen) (scale : W32) (codes : List Int) (sketch : Nat) : Walk :=
  let m := metricOf d.metric
  let c : WalkCfg := { key := listKey m d.skw scale codes sketch, probe := fun _ => true, larger := m.larger
                       beam := max 64 d.spill, width := 4, maxSt := 256 }
  walkAll c g 260 {}
/-- Routing order of a placement. -/
def placeOrder (d : CollDesc) (g : Gen) (scale : W32) (codes : List Int) (sketch : Nat) : List Nat := (placeWalk d g scale codes sketch).result.map (·.2)

end Sys2Proof.Machine
end

