-- ==== Sys2Proof/Machine/Collections.lean ====
section
/-! DEFINITION. Collections, updates, exports, loads and swaps (chapter 03). -/

namespace Sys2Proof.Machine

/-- A collection number names a collection that the issuer may name (R253): its own partition's, or any for an admin command of
the physical function. -/
def collRef (n : Node) (fn : Nat) (admin : Bool) (num : Nat) : Option (Nat × Nat) :=
  let p := num / 256
  if p < 8 && ((getFn n fn).map == some p || (admin && fn == 0)) && (getC n p (num % 256)).isSome then some (p, num % 256) else none

/-! ### Sapling space and the mutable part of a generation -/

/-- Chunks in use in a generation. -/
def genChunks (g : Gen) : List Nat := (g.lists.map (fun l => l.2.chunks)).flatten
/-- Chunks of the partition's pool in use: current generations, and staged ones that a swap is filling (R52). Those of a replaced generation are free from the commit of its swap, though
queries may still pin it (DESIGN CHOICE, log 139: R52 names the swap and no later event). -/
def usedChunks (x : Ptn) : List Nat :=
  (x.colls.map (fun c =>
    (match c.2.cur with
      | some g => genChunks g
      | none => []) ++
    (match c.2.swap with
      | some w => genChunks w.work
      | none => []))).flatten
def poolSize (x : Ptn) : Nat := match x.sec with
  | some s => s.sapPool
  | none => 0
/-- The lowest free chunk (log 8). -/
def freeChunk (used : List Nat) (pool : Nat) : Nat → Nat → Option Nat
  | 0, _ => none
  | k + 1, i => if pool ≤ i then none else if used.contains i then freeChunk used pool k (i + 1) else some i
def takeChunk (used : List Nat) (pool : Nat) : Option Nat := freeChunk used pool (used.length + 1) 0

/-- Location word of R47. -/
def locOf (list idx : Nat) (sap : Bool) : Nat := list + 2 ^ 32 * idx + 2 ^ 56 * b2n sap
/-- Appends a record to list `l` if the list has room (R52). -/
def appendSap (cap pool : Nat) (used : List Nat) (g : Gen) (l : Nat) (r : SapRec) : Option Gen :=
  match glOf g l with
  | none => none
  | some x =>
    if cap ≤ x.sap.length then none
    else
      let put (y : GList) : Gen :=
        { g with lists := mset g.lists l { y with sap := y.sap ++ [r], live := y.live + 1 }
                 idMap := mset g.idMap r.id.toNat (locOf l x.sap.length true) }
      if x.sap.length % 64 ≠ 0 then some (put x)
      else match takeChunk used pool with
        | none => none
        | some c => some (put { x with chunks := x.chunks ++ [c] })
/-- The first list of an order that takes the record. -/
def placeFirst (cap pool : Nat) (used : List Nat) (g : Gen) (r : SapRec) : List Nat → Option (Gen × Nat)
  | [] => none
  | l :: ls => match appendSap cap pool used g l r with
    | some g => some (g, l)
    | none => placeFirst cap pool used g r ls
/-- Marks the entry at a location deleted (R53). -/
def killAt (g : Gen) (loc : Nat) : Gen :=
  let l := loc % 2 ^ 32
  let i := loc / 2 ^ 32 % 2 ^ 24
  let kill (x : GList) : GList :=
    if loc / 2 ^ 56 % 2 = 1 then { x with sap := lmod x.sap i (fun r => { r with deleted := true }), live := x.live - 1 }
    else { x with body := lmod x.body i (fun e => { e with tomb := true }), live := x.live - 1 }
  { g with lists := mmod g.lists l kill }
/-- Deletes an ID; none when it is not live. -/
def genDelete (g : Gen) (id : W64) : Option Gen :=
  match mget g.idMap id.toNat with
  | none => none
  | some loc => some { killAt g loc with idMap := mdel g.idMap id.toNat }
/-- Places and commits a new entry, then deletes the old entry of the ID if there is one (R55). `spill` limits the lists tried;
none: no limit (R59). -/
def genInsert (d : CollDesc) (pool : Nat) (used : List Nat) (spill : Option Nat) (g : Gen) (r : SapRec) : Option (Gen × Nat) :=
  let order := placeOrder d g (widen r.scale) r.codes r.sketch
  let order := match spill with
    | some k => order.take k
    | none => order
  let old := mget g.idMap r.id.toNat
  match placeFirst d.sapCap pool used g r order with
  | none => none
  | some (g, l) => match old with
    | none => some (g, l)
    | some loc => some (killAt g loc, l)

/-- Replays one log record (R59, R61). None when the pool runs out. The lists tried without limit are those that the walk of R52 returns, its beam (DESIGN CHOICE, log 140: R59 names no
order for the lists that the walk does not return). -/
def replayRec (d : CollDesc) (pool : Nat) (used : List Nat) (g : Gen) (r : LogRec) : Option Gen :=
  match r.sap with
  | none => some ((genDelete g r.id).getD g)
  | some s => (genInsert d pool (used ++ genChunks g) none g s).map (·.1)
def replayAll (d : CollDesc) (pool : Nat) (used : List Nat) : Gen → List LogRec → Option Gen
  | g, [] => some g
  | g, r :: rs => match replayRec d pool used g r with
    | some g => replayAll d pool used g rs
    | none => none

/-! ### Commit -/

/-- The stored row and sketch of a vector (R51 step 2, Table 5-6). -/
def makeSap (d : CollDesc) (q : Quant) (u : Upd) (v : List W32) : SapRec × Nat :=
  let row := quantise v 7 q.rhoStore .bf16
  let (n8, sk) := sketchRow d v
  ({ id := u.id, seq := u.seq, attr := (u.sap.map (·.attr)).getD 0, tag := (u.sap.map (·.tag)).getD 0
     scale := row.scale16, sketch := sk, codes := row.codes }, b2n row.degen + b2n n8.degen)

/-- What an update does to the current generation: the outcome status, or the new generation and the list placed. -/
inductive UpdOut where
  | refuse (status : Nat)
  | done (g : Gen) (list : Nat)
deriving DecidableEq, Repr
def applyUpd (x : Ptn) (c : Coll) (u : Upd) : UpdOut :=
  match c.cur with
  | none => .refuse stCollUnavail
  | some g =>
    match u.kind with
    | .delete => match genDelete g u.id with
      | none => .refuse stNotFound
      | some g => .done g 0
    | k =>
      if k == .insert && mhas g.idMap u.id.toNat then .refuse stIdExists
      else match u.sap with
        | none => .refuse stInvalidField
        | some r => match genInsert c.desc (poolSize x) (usedChunks x) (some c.desc.spill) g r with
          | none => .refuse stSaplingFull
          | some (g, l) => .done g l

/-- The walk that places an update (R52); none for a delete. -/
def updWalk (c : Coll) (u : Upd) : Option (Gen × Walk) := match c.cur, u.sap with
  | some g, some r => if u.kind == .delete then none else some (g, placeWalk c.desc g (widen r.scale) r.codes r.sketch)
  | _, _ => none
/-- Nodes that the walk of a placement reads. -/
def walkLocs (p s : Nat) (u : Upd) (n : Node) : List MemLoc := match (getC n p s).bind (updWalk · u) with
  | some (g, w) => w.seen.map (fun v => .shard p s g.hdr.gen (.node v))
  | none => []
/-- What the walk of a placement leaves behind beside what its reads met: NaN keys in `PTN_BAD_SCALE` (R111), heat. -/
def walkMeets (p s : Nat) (c : Coll) (u : Upd) (n : Node) : Node := match updWalk c u with
  | none => n
  | some (g, w) => heatNodes p s c.desc g w.seen (count p .badScale w.bad n)
/-- The record that holds the mark of an entry: its rinse block, or its Sapling record. -/
def markRec (loc : Nat) : RecLoc :=
  let i := loc / 2 ^ 32 % 2 ^ 24
  if loc / 2 ^ 56 % 2 = 1 then .sap (loc % 2 ^ 32) i else .block (loc % 2 ^ 32) (i / 256)
/-- What the DMASKSET that marks the old entry of an ID deleted meets in its word: poison or an error, against the update's thread (R194), and its activate. -/
def killMeets (clk : Clock) (p s : Nat) (c : Coll) (u : Upd) (n : Node) : Node :=
  match u.kind, c.cur.bind (fun g => (mget g.idMap u.id.toNat).map (fun loc => (g, markRec loc))) with
  | .insert, _ => n
  | _, none => n
  | _, some (g, r) =>
    let ls := if (badRecs g).contains r then [MemLoc.shard p s g.hdr.gen r] else []
    count p .drnActs 1 (meetErrs clk 2 5 u.tok u.ctx (isRec p s g.hdr.gen r) (metLocs clk p 5 u.ctx u.tok ls n))
/-- Removes an update from the pending ones and frees its thread. -/
def dropUpd (p s : Nat) (u : Upd) (n : Node) : Node :=
  delCtx p u.ctx (endTasks p u.ctx (modC p s (fun c => { c with upds := c.upds.filter (fun v => v.seq != u.seq) }) n))
/-- The update at its commit point (R54): applied, logged, mirrored, completed; or refused with nothing applied and nothing logged. -/
def commitUpd (clk : Clock) (p s : Nat) (u : Upd) (n : Node) : Node :=
  let n := readAll clk p 0 u.tok u.ctx (walkLocs p s u) (walkLocs p s u) n
  match getC n p s with
  | none => n
  | some c =>
    let n1 := dropUpd p s u (walkMeets p s c u n)
    match applyUpd (getP n p) c u with
    | .refuse st => postO clk u.tok st 0 n1
    | .done g l =>
      let r : LogRec := { seq := u.seq, kind := u.kind, id := u.id, list := l, sap := u.sap, epoch := (getP n p).epoch }
      let n2 := growIds clk p s (killMeets clk p s c u (modC p s (fun c => { c with cur := some g, applied := u.seq, log := c.log ++ [r] }) n1))
      let n2 := if u.kind == .delete then dropOrig clk p s u.id.toNat n2
                else if c.desc.keepOrig && !u.vec.isEmpty then putOrig clk p s u.id.toNat u.vec (if u.durable then u.tok else none) n2 else n2
      if u.durable then commitLog clk p .coll s (.coll r) u.tok (markCmdO u.tok true false n2)
      else postO clk u.tok stSuccess 0 (commitLog clk p .coll s (.coll r) none n2)

/-- Commits are not held: by a freeze (R59), a durability hold (R317), or a swap waiting on nothing. -/
def commitsOpen (c : Coll) : Bool :=
  (match c.swap with
    | some w => !w.frozen
    | none => true) && !c.dur.held
/-- The update that commits next: the lowest sequence, encoded and not held by a release (R308). -/
def nextUpd (c : Coll) : Option Upd := match c.upds with
  | u :: _ => if u.waitEnc || u.held then none else some u
  | [] => none
/-- Commits pending updates in sequence order (R59 step 4). -/
def commitAll (clk : Clock) (p s : Nat) : Nat → Node → Node
  | 0, n => n
  | k + 1, n => match getC n p s with
    | none => n
    | some c => if commitsOpen c then
        match nextUpd c with
        | some u => commitAll clk p s k (commitUpd clk p s u n)
        | none => n
      else n

/-! ### Retirement and drop (R60, R66) -/

/-- A query of the collection pins this generation. -/
def pinned (x : Ptn) (s : Nat) (gen : W64) : Bool := x.queries.any (fun q => q.2.coll == s && q.2.gen == gen)
/-- The tier copies of a generation are freed and its flash copy is discarded (R60). -/
def freeGen (clk : Clock) (p s : Nat) (g : Gen) (n : Node) : Node :=
  let n := dropGens clk p s (· == g.hdr.gen) n
  if g.store = 0 then n else dropStore clk g.store n
/-- Frees retired generations that no query pins (R60). -/
def retireGens (clk : Clock) (p s : Nat) (n : Node) : Node :=
  match getC n p s with
  | none => n
  | some c =>
    let gone := c.retired.filter (fun g => !pinned (getP n p) s g.hdr.gen)
    if gone.isEmpty then n
    else foldNode gone (freeGen clk p s) (modC p s (fun c => { c with retired := c.retired.filter (fun g => pinned (getP n p) s g.hdr.gen) }) n)
/-- Records that neither the current generation's replay nor an open export cut needs leave the log (R61). -/
def trimLog (clk : Clock) (p s : Nat) (n : Node) : Node :=
  match getC n p s with
  | none => n
  | some c =>
    let from_ := c.cuts.foldl min ((c.cur.map (·.hdr.baseSeq)).getD 0)
    if from_ < c.logFrom then n
    else
      let gone := c.log.filter (fun r => decide (r.seq ≤ from_))
      let n := modC p s (fun c => { c with log := c.log.filter (fun r => decide (from_ < r.seq)), logFrom := from_ + 1 }) n
      foldNode gone (fun r n => unmap clk (nodeObj p .coll s) r.seq (r.seq + 1) n) n
/-- Ends a drop once pinned queries, pending updates and a running swap are done (R66); a secure drop first erases what flash holds. -/
def finishDrop (clk : Clock) (p s : Nat) (n : Node) : Node :=
  match getC n p s with
  | none => n
  | some c => match c.drop with
    | none => n
    | some (t, secure) =>
      let x := getP n p
      if x.queries.any (fun q => q.2.coll == s && q.2.gen != 0) || !c.upds.isEmpty || c.own.xfer.isSome || c.swap.isSome then n
      else match (if secure then secureDrop clk p s t n else none) with
        | some n => dropGens clk p s (fun _ => true) n
        | none => post clk t stSuccess 0 (modP p (fun x => { x with colls := mdel x.colls s }) (dropNodeObj clk p .coll s (dropGens clk p s (fun _ => true) n)))

/-! ### Commands -/

/-- Table 3-1. -/
def descOf (bs : List Byte) : CollDesc :=
  { name := slice bs 0 64, dim := leAt bs 0x40 2, skw := leAt bs 0x42 1, metric := leAt bs 0x43 1, fmt := leAt bs 0x44 1
    keepOrig := leAt bs 0x45 1 % 2 == 1, spill := leAt bs 0x46 2, sapCap := leAt bs 0x48 4
    projSeed := BitVec.ofNat 64 (leAt bs 0x50 8), collId := BitVec.ofNat 64 (leAt bs 0x58 8) }
/-- The level that `DIM` and `SKW` require (Table 3-10). -/
def needLevel (dim skw : Nat) : Nat := if skw = 3 ∨ dim > 2048 then 3 else 2
/-- Offset of a field that R42 refuses. -/
def descBad (n : Node) (x : Ptn) (d : CollDesc) : Option Nat :=
  if !nameOk d.name || x.colls.any (fun c => c.2.desc.name == d.name) then some 0x00
  else if d.metric > 3 then some 0x43
  else if d.metric = 3 ∧ d.dim ≠ 0 then some 0x40
  else if d.metric ≠ 3 ∧ (d.dim < 32 ∨ 4096 < d.dim ∨ d.dim % 32 ≠ 0) then some 0x40
  else if d.skw > 3 then some 0x42
  else if d.fmt < 2 ∨ imgFmt n < d.fmt ∨ d.fmt < needLevel d.dim d.skw then some 0x44
  else if d.spill < 1 ∨ 16 < d.spill then some 0x46
  else if d.sapCap < 256 ∨ 65536 < d.sapCap ∨ d.sapCap % 64 ≠ 0 then some 0x48
  else if d.collId = 0 then some 0x58
  else none
def collectionCreate : Job := fun clk host t e n =>
  match (getFn n t.fn).map with
  | none => invalid clk t 0 0 n
  | some p =>
    let d := descOf (Mem.readN host e.addr0 128)
    match descBad n (getP n p) d with
    | some off => invalid clk t off 1 n
    | none => match firstFree (getP n p).colls 0 256 with
      | none => invalid clk t 0 0 n
      | some s =>
        let c : Coll := { desc := d, own := { owner := n.lnk.nodeId, ownerP := p } }
        post clk t stSuccess (256 * p + s) (modP p (fun x => { x with colls := mset x.colls s c }) n)
def fnPtn (n : Node) (fn : Nat) (_e : Sqe) : Option Nat := (getFn n fn).map
def execCollectionCreate (e : Env) (q : QRef) (s : State) : Host.Outcome State Fault Refusal :=
  run e (hostCmd Rows.collectionCreate anyEntry noChk fnPtn collectionCreate q) s

/-- Partition of the collection that `TARGET` names. -/
def collPtn (n : Node) (fn : Nat) (e : Sqe) : Option Nat := (collRef n fn true e.target).map (·.1)
/-- `TARGET` must name a collection. -/
def collChk (admin : Bool) (n : Node) (fn : Nat) (e : Sqe) : Option Nat :=
  if (collRef n fn admin e.target).isSome then none else some 0x04
/-- A job on the collection of `TARGET`. -/
def onColl (admin : Bool) (g : Clock → Mem → Tok → Sqe → Nat → Nat → Coll → Node → Node) : Job := fun clk host t e n =>
  match collRef n t.fn admin e.target with
  | none => invalid clk t 0x04 0 n
  | some (p, s) => match getC n p s with
    | none => invalid clk t 0x04 0 n
    | some c => g clk host t e p s c n

/-- A frozen collection is dropped like any other (DESIGN CHOICE, log 141: R66 makes no exception, and R311 speaks of what the node itself discards). -/
def collectionDrop : Job := onColl true fun clk _ t e p s c n =>
  if c.drop.isSome then post clk t stBusy 0 n
  else finishDrop clk p s (modC p s (fun c => { c with drop := some (t, e.flag 1) }) n)
def execCollectionDrop (e : Env) (q : QRef) (s : State) : Host.Outcome State Fault Refusal :=
  run e (hostCmd Rows.collectionDrop anyEntry (collChk true) collPtn collectionDrop q) s

/-! Updates. -/

/-- Form checks of an insert entry (Table 11-12). -/
def insertChk (n : Node) (fn : Nat) (e : Sqe) : Option Nat :=
  match collRef n fn false e.target with
  | none => some 0x04
  | some (p, s) =>
    let form := e.arg2 / 65536 % 16
    let qlen := e.arg2 / 2 ^ 32
    let ham := match getC n p s with
      | some c => c.desc.metric == 3
      | none => false
    if e.arg0 = 2 ^ 64 - 1 then some 0x18
    else if form > 2 || (form == 2) != ham then some 0x28
    else if form = 1 then (if qlen < 1 ∨ 512 < qlen then some 0x28 else none)
    else if qlen ≠ 0 then some 0x28
    else if e.arg3 ≠ 0 then some 0x30
    else none
/-- The state of the collection refuses updates: status and result (R57, R66, Table 13-14). Where its state and its ownership both refuse, a drop comes first, then ownership, then the
state (DESIGN CHOICE, log 142: the spec gives no order). -/
def updRefused (c : Coll) : Option (Nat × Nat) :=
  if c.drop.isSome then some (stCollUnavail, 0)
  else match c.own.st with
    | .frozen => some (stFrozen, 0)
    | .released => some (stBusy, c.own.owner.toNat + 2 ^ 32 * c.own.ownerP)
    | .claiming => some (stBusy, c.own.owner.toNat + 2 ^ 32 * c.own.ownerP)
    | _ => match c.st with
      | .serving => none
      | .swapping => if c.before == .serving then none else some (stCollUnavail, 0)
      | .frozen => some (stFrozen, 0)
      | _ => some (stCollUnavail, 0)
/-- Takes an update into the pending ones with the next sequence number, and settles it at once when nothing precedes it and it is
refused (R51, R53). -/
def takeUpd (clk : Clock) (p s : Nat) (u : Upd) (n : Node) : Node :=
  let (ci, n) := addCtx p { threadCtx clk p 0x0C 2 u.tok n with coll := 256 * p + s } n
  match getC n p s with
  | none => n
  | some c =>
    let u := { u with ctx := ci, held := c.own.st == .releasing }
    let n1 := modC p s (fun c => { c with seq := u.seq, upds := c.upds ++ [u] }) n
    if c.upds.isEmpty && !u.waitEnc && !u.held && commitsOpen c then
      match applyUpd (getP n1 p) c u with
      | .refuse st => postO clk u.tok st 0 (dropUpd p s u n1)
      | .done _ _ => n1
    else n1
/-- `INSERT` and `UPSERT` (R51, R55). The original kept for `KEEP_ORIG` is the vector as given, under COSINE too (DESIGN CHOICE, log 143: R43 replaces the vector before any other step, and
R51 speaks of the original). -/
def insertJob (kind : RecKind) : Job := onColl false fun clk host t e p s c n =>
  match updRefused c with
  | some (st, r) => post clk t st r n
  | none =>
    let form := e.arg2 / 65536 % 16
    let d := c.desc
    let base : SapRec := { id := BitVec.ofNat 64 e.arg0, seq := c.seq + 1, attr := BitVec.ofNat 64 e.arg1, tag := BitVec.ofNat 16 e.arg2 }
    let u : Upd := { tok := some t, seq := c.seq + 1, kind := kind, id := BitVec.ofNat 64 e.arg0, sap := some base, durable := e.durable }
    if form = 2 then
      takeUpd clk p s { u with sap := some { base with sketch := leNat (Mem.readN host e.addr0 (skBits d.skw / 8)) } } n
    else if form = 1 then
      let qlen := e.arg2 / 2 ^ 32
      let toks := (words32 (Mem.readN host e.addr0 (4 * qlen)) qlen).map (·.toNat)
      match graphOf (getP n p) (e.arg3 % 256) with
      | none => invalid clk t 0x30 0 n
      | some g => match checkEncode (getP n p) g d.dim toks with
        | .field => invalid clk t 0x28 0 n
        | .token i => invalid clk t (4 * i) 1 n
        | .unavailable => post clk t stModelUnavail 0 n
        | .ok m =>
          let n := takeUpd clk p s { u with waitEnc := true } n
          let par := (((getC n p s).bind (fun c => c.upds.find? (fun v => v.seq == u.seq))).map (·.ctx)).getD noCtx
          addTask clk p m par (some t) (taskOf clk p g .encode (.encodeInsert s u.seq) [toks] (isUrgent n t) (getP n p)) n
    else
      let v := words32 (Mem.readN host e.addr0 (4 * d.dim)) d.dim
      match firstBad v with
      | some i => invalid clk t (4 * i) 1 n
      | none => match prepVec (metricOf d.metric) v with
        | none => invalid clk t 0 1 n
        | some v' =>
          let (r, deg) := makeSap d (quantOf (getP n p)) u v'
          takeUpd clk p s { u with sap := some r, vec := v } (count p .degenerate deg n)
def execInsertCmd (e : Env) (q : QRef) (s : State) : Host.Outcome State Fault Refusal :=
  run e (hostCmd Rows.insert anyEntry insertChk noPtn (insertJob .insert) q) s
def execUpsertCmd (e : Env) (q : QRef) (s : State) : Host.Outcome State Fault Refusal :=
  run e (hostCmd Rows.upsert anyEntry insertChk noPtn (insertJob .upsert) q) s
def deleteJob : Job := onColl false fun clk _ t e p s c n =>
  match updRefused c with
  | some (st, r) => post clk t st r n
  | none => takeUpd clk p s { tok := some t, seq := c.seq + 1, kind := .delete, id := BitVec.ofNat 64 e.arg0, durable := e.durable } n
def execDeleteCmd (e : Env) (q : QRef) (s : State) : Host.Outcome State Fault Refusal :=
  run e (hostCmd Rows.delete anyEntry (collChk false) noPtn deleteJob q) s
/-- The vector that ENCODE made for a token insert (R140): the update continues by R51. -/
def insertEncoded (clk : Clock) (p s seq : Nat) (v : List W32) (n : Node) : Node :=
  match getC n p s with
  | none => n
  | some c => match c.upds.find? (fun u => u.seq == seq) with
    | none => n
    | some u =>
      match (if (firstBad v).isSome then none else prepVec (metricOf c.desc.metric) v) with
      | none => postO clk u.tok stInvalidField (badField 0 1) (dropUpd p s u n)
      | some v' =>
        let (r, deg) := makeSap c.desc (quantOf (getP n p)) u v'
        let set (w : Upd) : Upd := if w.seq = seq then { w with sap := some r, vec := v, waitEnc := false } else w
        stepCtx clk p u.ctx 2 (count p .degenerate deg (modC p s (fun c => { c with upds := c.upds.map set }) n))
/-- `COMMIT_POINT`: the next update in sequence order commits. -/
def commitPoint (p s seq : Nat) (clk : Clock) (_host : Mem) (n : Node) : Node :=
  match getC n p s with
  | none => n
  | some c => match nextUpd c with
    | none => n
    | some u =>
      if u.seq = seq && commitsOpen c && (getP n p).st != .resetting then finishDrop clk p s (commitUpd clk p s u (ungate p n)) else n

/-! Generations. -/

/-- Table 3-9. -/
def genHeader (bs : List Byte) : GenHeader :=
  { magic := BitVec.ofNat 32 (leAt bs 0 4), fmt := leAt bs 4 1, skw := leAt bs 5 1, metric := leAt bs 6 1, nEntry := leAt bs 7 1
    gen := BitVec.ofNat 64 (leAt bs 8 8), collId := BitVec.ofNat 64 (leAt bs 0x10 8), baseSeq := leAt bs 0x18 8
    projSeed := BitVec.ofNat 64 (leAt bs 0x20 8), dim := leAt bs 0x28 2, lists := leAt bs 0x2C 4, entries := leAt bs 0x30 8
    entryNode := [leAt bs 0x38 4, leAt bs 0x3C 4, leAt bs 0x40 4, leAt bs 0x44 4], digest := leAt bs 0x50 48 }
/-- The number that a new generation must exceed: the current one's, the root record's while it is not mounted, and that of a swap in progress (log 144). -/
def topGen (c : Coll) : Nat :=
  ((c.cur.toList ++ c.root.toList ++ (c.swap.map (·.base)).toList).map (·.hdr.gen.toNat)).foldl max 0
/-- Offset of a header field that R58 refuses. -/
def genBad (c : Coll) (h : GenHeader) (bs : List Byte) : Option Nat :=
  if h.magic ≠ 0x4E454756 then some 0x00
  else if h.skw ≠ c.desc.skw then some 0x05
  else if h.metric ≠ c.desc.metric then some 0x06
  else if h.gen.toNat ≤ topGen c then some 0x08
  else if h.collId ≠ c.desc.collId then some 0x10
  else if h.projSeed ≠ c.desc.projSeed then some 0x20
  else if h.dim ≠ c.desc.dim then some 0x28
  else if leNat (sha384 (bs.drop 128)) ≠ h.digest then some 0x50
  else none
/-- N4 codes from bytes (R45). -/
def codesFrom (bs : List Byte) : List Int :=
  (bs.map (fun b => [((b.extractLsb' 0 4 : BitVec 4)).toInt, ((b.extractLsb' 4 4 : BitVec 4)).toInt])).flatten
/-- One list from the bytes of a generation (R45, R46, R49): its number and its record. `DEGREE` and `BODY_COUNT` stay within Tables 3-6 and 3-7. -/
def listFrom (d : CollDesc) (bs : List Byte) (q : ListPart) : Nat × GList :=
  let r := slice bs q.node (nodeSize d)
  let ham := d.metric == 3
  let sk := skBits d.skw / 8
  (leAt r 0 4,
   { waypoint := leAt r 4 2 % 2 == 1, cscale := BitVec.ofNat 16 (leAt r 0x10 2)
     nbr := (List.range (min 32 (leAt r 6 1))).map (fun i => leAt r (0x20 + 4 * i) 4)
     centroid := if ham then [] else (slice r 0xA0 d.dim).map (fun b => b.toInt)
     csketch := if ham then leAt r 0xA0 sk else 0
     body := (List.range (min 16777215 q.entries)).map (fun i =>
       { id := BitVec.ofNat 64 (leAt bs (q.ids + 8 * i) 8), attr := BitVec.ofNat 64 (leAt bs (q.attr + 16 * i) 8), tag := BitVec.ofNat 16 (leAt bs (q.attr + 16 * i + 8) 2)
         sketch := leAt bs (q.sketch + sk * i) sk, codes := codesFrom (slice bs (q.code + codeLen d * i) (codeLen d))
         scale := if ham then 0 else BitVec.ofNat 16 (leAt bs (q.scale + 2 * i) 2) }) })
/-- First channels for the lists in turn (R192): each starts on the channel position that holds the fewest entry groups so far, the lowest of equals (log 8). -/
def evenChans (n : Nat) : List (Nat × GList) → List Nat → List (Nat × GList)
  | [], _ => []
  | (l, x) :: r, load =>
    let f := ((sortBy (fun a b => decide (a.1 < b.1) || (a.1 == b.1 && decide (a.2 ≤ b.2))) load.zipIdx).head?.map (·.2)).getD 0
    let groups := cdiv x.body.length 64
    let load := (List.range (cdiv groups 2048)).foldl (fun m j => lmod m ((f + j) % max 1 n) (· + min 2048 (groups - 2048 * j))) load
    (l, { x with chan := f }) :: evenChans n r load
/-- The lists of a generation as `GENERATION_LOAD` carries them, placed over `n` tier-1 channels. -/
def listsFrom (d : CollDesc) (n : Nat) (bs : List Byte) (parts : List ListPart) : List (Nat × GList) :=
  evenChans n (parts.foldl (fun m q => let l := listFrom d bs q; mset m l.1 l.2) []) (List.replicate n 0)
/-- ID map of a body (R47) and live counts (R48). -/
def freshGen (h : GenHeader) (lists : List (Nat × GList)) : Gen :=
  let ls := lists.map (fun l => (l.1, { l.2 with sap := [], chunks := [], live := (l.2.body.filter (fun e => !e.tomb)).length }))
  { hdr := h, lists := ls
    idMap := ls.foldl (fun m l => (l.2.body.foldl (fun (a : Nat × List (Nat × Nat)) e =>
      (a.1 + 1, if e.tomb then a.2 else mset a.2 e.id.toNat (locOf l.1 a.1 false))) (0, m)).2) [] }
/-- A staged generation that no swap is installing goes, with its tier copies and its flash copy. -/
def dropStaged (clk : Clock) (p s : Nat) (n : Node) : Node :=
  match getC n p s with
  | none => n
  | some c => match c.staged with
    | none => n
    | some g => if c.swap.any (fun w => w.gen == g.hdr.gen) then n else freeGen clk p s g (modC p s (fun c => { c with staged := none }) n)
/-- A generation is staged beside the current one, in place of one staged before (R58); none where tier 1, tier 2 or flash cannot hold it. -/
def stageGen (clk : Clock) (p s : Nat) (d : CollDesc) (h : GenHeader) (bs : List Byte) (parts : List ListPart) (n : Node) : Option Node :=
  let n := dropStaged clk p s n
  let lists := listsFrom d (t1Chans (getP n p)).length bs parts
  let (t1, t2) := genBytes d h.fmt lists
  if freeT1 n p < t1 || freeT2 n p < t2 || freeFlash n < bs.length then none
  else
    let (n, o) := storeGen clk p bs n
    let g : Gen := { freshGen h lists with size := bs.length, store := o, parts := parts.foldl (fun m q => mset m (leAt bs q.node 4) q) [] }
    makeGen p s g (modC p s (fun c => { c with staged := some g, loadBuf := [] }) n)
/-- `parts`: where the lists lie in the bytes (log 137). A collection that is being dropped takes no generation (log 144). -/
def generationLoad (parts : List ListPart) : Job := onColl false fun clk host t e p s c n =>
  if c.drop.isSome then post clk t stCollUnavail 0 n
  else
    let old := if e.arg0 = 0 then [] else c.loadBuf
    let buf := patch old e.arg0 (Mem.readN host e.addr0 e.arg1)
    let n := modC p s (fun c => { c with loadBuf := buf }) n
    if !e.flag 1 then post clk t stSuccess 0 n
    else
      let h := genHeader buf
      match genBad c h buf with
      | some off => invalid clk t off 1 n
      | none =>
        if imgFmt n < h.fmt then post clk t stFormatLevel 0 n
        else match stageGen clk p s c.desc h buf parts n with
          | none => post clk t stNoSpace 0 n
          | some n => post clk t stSuccess 0 n
def execGenerationLoad (e : Env) (q : QRef) (parts : List ListPart) (s : State) : Host.Outcome State Fault Refusal :=
  run e (hostCmd Rows.generationLoad anyEntry (collChk false) noPtn (generationLoad parts) q) s

/-- A generation as flash holds it: no record of it damaged. -/
def cleanGen (g : Gen) : Gen := { g with lists := g.lists.map (fun l => (l.1, { l.2 with badNode := false, badBlocks := [], badRows := [] })) }
/-- Log records above a sequence number. -/
def logAbove (c : Coll) (seq : Nat) : List LogRec := c.log.filter (fun r => decide (seq < r.seq))
/-- Ends a swap without a commit. -/
def endSwap (clk : Clock) (p s : Nat) (status : Nat) (n : Node) : Node :=
  match getC n p s with
  | none => n
  | some c => match c.swap with
    | none => n
    | some w => finishDrop clk p s (commitAll clk p s (c.upds.length + 1) (post clk w.tok status 0
        (modC p s (fun c => { c with swap := none, st := if c.st == .swapping then c.before else c.st }) n)))
/-- Replays the log into the staged copy (R59 step 1). `freeze`: step 2 follows. -/
def catchUp (clk : Clock) (p s : Nat) (freeze : Bool) (n : Node) : Node :=
  match getC n p s with
  | none => n
  | some c => match c.swap with
    | none => n
    | some w =>
      let x := getP n p
      match replayAll c.desc (poolSize x) (usedChunks x) w.work (logAbove c w.done) with
      | none => endSwap clk p s stSaplingFull n
      | some g => modC p s (fun c => { c with swap := some { w with work := g, done := c.applied, frozen := freeze } }) n
/-- A transfer or a live load delays the swap (R38, R62). -/
def swapWaits (n : Node) (p s : Nat) : Bool :=
  (getP n p).load.isSome || (match getC n p s with
    | some c => c.own.xfer.isSome
    | none => false)
/-- Commits to the current generation go on while a swap waits; it replays what they log when it goes on (R62). -/
def thaw (p s : Nat) : Node → Node := modC p s (fun c => { c with swap := c.swap.map (fun w => { w with frozen := false }) })
def swapChk (n : Node) (fn : Nat) (e : Sqe) : Option Nat :=
  match collChk true n fn e with
  | some o => some o
  | none =>
    let fr := e.arg1 % 2 ^ 32
    if fr > 65536 ∨ e.arg1 / 2 ^ 32 > 3600 then some 0x20 else none
def generationSwap : Job := onColl true fun clk _ t e p s c n =>
  if c.drop.isSome then post clk t stCollUnavail 0 n
  else if c.own.st == .frozen then post clk t stFrozen 0 n
  else if c.swap.isSome then post clk t stBusy 0 n
  else match c.staged with
    | none => invalid clk t 0x18 0 n
    | some g =>
      if g.hdr.gen.toNat ≠ e.arg0 then invalid clk t 0x18 0 n
      else if g.hdr.baseSeq + 1 < c.logFrom || (c.st == .created && g.hdr.baseSeq != 0) then post clk t stGenStale 0 n
      else if imgFmt n < g.hdr.fmt then post clk t stFormatLevel 0 n
      else
        let fr := e.arg1 % 2 ^ 32
        let lim := e.arg1 / 2 ^ 32
        let w : Swap := { tok := t, gen := g.hdr.gen, freezeAt := if fr = 0 then 256 else fr
                          limitAt := pctr clk p + 300000000 * (if lim = 0 then 600 else lim), done := g.hdr.baseSeq, base := cleanGen g, work := g }
        let n := modC p s (fun c => { c with swap := some w, before := c.st, st := if c.st == .serving || c.st == .readOnly then .swapping else c.st }) n
        if swapWaits n p s then n else catchUp clk p s false n
def execGenerationSwap (e : Env) (q : QRef) (s : State) : Host.Outcome State Fault Refusal :=
  run e (hostCmd Rows.generationSwap anyEntry swapChk collPtn generationSwap q) s
/-- `SWAP_FREEZE`: at most `FREEZE_AT` updates remain, so commits stop and the rest is replayed (R59 step 2). -/
def swapFreeze (p s : Nat) (clk : Clock) (_host : Mem) (n : Node) : Node :=
  match getC n p s with
  | none => n
  | some c => match c.swap with
    | none => n
    | some w => if w.frozen || swapWaits n p s then n
      else catchUp clk p s (decide ((logAbove c w.done).length ≤ w.freezeAt)) n
def execSwapFreeze (e : Env) (p c : Nat) (s : State) : Host.Outcome State Fault Refusal := run e (swapFreeze p c) s
/-- The state after a swap's commit point: a collection that took no updates before for want of a cartridge stays READ_ONLY (R57); else it serves. -/
def CollSt.swapped (c : Coll) : CollSt := if c.st == .swapping then c.before else if c.st == .frozen then .frozen else .serving
/-- `SWAP_COMMIT`: the root record names the new generation, which becomes current; held updates commit to it (R59 steps 3 and 4). -/
def swapCommit (p s : Nat) (clk : Clock) (_host : Mem) (n : Node) : Node :=
  match getC n p s with
  | none => n
  | some c => match c.swap with
    | none => n
    | some w =>
      if !w.frozen || swapWaits n p s then n
      else
        let set (c : Coll) : Coll := { c with
          cur := some w.work, root := some w.base, staged := if c.staged.any (fun g => g.hdr.gen == w.gen) then none else c.staged
          st := CollSt.swapped c, swap := none, cuts := c.cuts.erase w.base.hdr.baseSeq
          retired := c.retired ++ (if c.cur.isNone then c.root.toList else c.cur.toList) }
        let n := trimLog clk p s (retireGens clk p s (modC p s set (flushStore clk w.base.store n)))
        finishDrop clk p s (post clk w.tok stSuccess 0 (commitAll clk p s (c.upds.length + 1) n))
def execSwapCommit (e : Env) (p c : Nat) (s : State) : Host.Outcome State Fault Refusal := run e (swapCommit p c) s
/-- `SWAP_LIMIT`: the freeze has not begun by `SWAP_LIMIT` (R59). -/
def swapLimit (p s : Nat) (clk : Clock) (_host : Mem) (n : Node) : Node :=
  match getC n p s with
  | none => n
  | some c => match c.swap with
    | none => n
    | some w => if !w.frozen && decide (w.limitAt ≤ pctr clk p) then endSwap clk p s stSwapTimeout n else n
def execSwapLimit (e : Env) (p c : Nat) (s : State) : Host.Outcome State Fault Refusal := run e (swapLimit p c) s
/-- A discard that meets a swap of the collection completes with `ST_BUSY` (DESIGN CHOICE, log 145: R61 and R62 do not name the case). -/
def generationDiscard : Job := onColl true fun clk _ t e p s c n =>
  if c.swap.isSome then post clk t stBusy 0 n
  else if e.arg0 = 0 then post clk t stSuccess 0 (trimLog clk p s (modC p s (fun c => { c with cuts := [], exports := [] }) n))
  else match c.staged with
    | none => invalid clk t 0x18 0 n
    | some g => if g.hdr.gen.toNat ≠ e.arg0 then invalid clk t 0x18 0 n
      else post clk t stSuccess 0 (trimLog clk p s (modC p s (fun c => { c with cuts := c.cuts.erase g.hdr.baseSeq }) (dropStaged clk p s n)))
def execGenerationDiscard (e : Env) (q : QRef) (s : State) : Host.Outcome State Fault Refusal :=
  run e (hostCmd Rows.generationDiscard anyEntry (collChk true) collPtn generationDiscard q) s

/-! Export (R254). -/

/-- Live entries of a generation as records, each with the damaged record of the generation that it is read from, if any. -/
def liveRecs (g : Gen) : List (SapRec × Option RecLoc) :=
  (g.lists.map (fun l =>
    (l.2.body.zipIdx.filter (fun e => !e.1.tomb)).map (fun (e, i) =>
      (({ id := e.id, seq := Config.bodySeq e.id, attr := e.attr, tag := e.tag, scale := e.scale, sketch := e.sketch, codes := e.codes : SapRec }),
       if l.2.badRows.contains i then some (RecLoc.row l.1 i)
       else if i % 256 = 0 && l.2.badBlocks.contains (i / 256) then some (RecLoc.block l.1 (i / 256)) else none)) ++
    (l.2.sap.zipIdx.filter (fun r => r.1.valid && !r.1.deleted)).map (fun (r, i) =>
      (r, if l.2.badRows.contains (l.2.body.length + i) then some (RecLoc.sap l.1 i) else none)))).flatten
/-- A record as `SHARD_EXPORT` writes it: the word that is lost reads as all ones (R189): the first of the row's codes, of the block's sketches, or of the Sapling record. -/
def exportBytes (d : CollDesc) (r : SapRec × Option RecLoc) : List Byte :=
  let ones (off : Nat) : List Byte := (patch (sapBytes d r.1) off (List.replicate 8 0xFF)).take (sapSize d)
  match r.2 with
  | none => sapBytes d r.1
  | some (.row _ _) => ones (32 + skBits d.skw / 8)
  | some (.block _ _) => ones 32
  | some _ => ones 0
def shardExport : Job := onColl false fun clk _ t e p s c n =>
  if c.drop.isSome || c.st == .mounting || c.st == .failed then post clk t stCollUnavail 0 n
  else if c.own.st == .frozen then post clk t stFrozen 0 n
  else if e.arg1 = 0 && e.arg0 < 8 then invalid clk t 0x18 0 n
  else
    let recs := if e.arg1 = 0 then some (match c.cur with
        | some g => liveRecs g
        | none => []) else mget c.exports e.arg1
    match recs with
    | none => invalid clk t 0x20 0 n
    | some rs =>
      let head := if e.arg1 = 0 then toLe 8 c.applied else []
      let k := (e.arg0 - head.length) / sapSize c.desc
      let left := rs.drop k
      let next := if left.isEmpty then 0 else c.nextCur
      let bad := (rs.take k).filterMap (·.2)
      let n := metLocs clk p 0 0xFFFFFFFF (some t) (bad.map (fun r => .shard p s ((c.cur.map (·.hdr.gen)).getD 0) r)) n
      let n := emit (.data e.addr0 (head ++ ((rs.take k).map (exportBytes c.desc)).flatten)) n
      post clk t (if bad.isEmpty then stSuccess else stDataPoison) next (modC p s (fun c => { c with
        cuts := if e.arg1 = 0 then c.cuts ++ [c.applied] else c.cuts
        nextCur := if left.isEmpty then c.nextCur else c.nextCur + 1
        exports := if left.isEmpty then c.exports else mset c.exports next left }) n)
def execShardExport (e : Env) (q : QRef) (s : State) : Host.Outcome State Fault Refusal :=
  run e (hostCmd Rows.shardExport anyEntry (collChk false) noPtn shardExport q) s

/-! Mount and restoration (R61, R63, R64). -/

/-- Blocks of a generation's flash copy that hold a record. -/
def recBlocks (d : CollDesc) (g : Gen) (loc : RecLoc) : List Nat :=
  let sk := skBits d.skw / 8
  let at_ (l : Nat) (f : ListPart → List (Nat × Nat)) : List (Nat × Nat) := match mget g.parts l with
    | some q => f q
    | none => []
  let rs : List (Nat × Nat) := match loc with
    | .node l => at_ l (fun q => [(q.node, nodeSize d)])
    | .block l b => at_ l (fun q => [(q.sketch + 256 * b * sk, 256 * sk), (q.attr + 4096 * b, 4096)])
    | .row l i => at_ l (fun q => [(q.code + codeLen d * i, codeLen d), (q.scale + 2 * i, 2), (q.ids + 8 * i, 8)])
    | .sap _ _ => []
  nubNat ((rs.map (fun r => (List.range (cdiv (r.1 % 4096 + r.2) 4096)).map (r.1 / 4096 + ·))).flatten)
/-- Reads blocks of a flash object: those that are lost (R221). -/
def readStore (o : Nat) (bs : List Nat) (n : Node) : Node × List Nat :=
  bs.foldl (fun a b =>
    let (n, _, lost) := readBlk o b a.1
    (n, if lost then a.2 ++ [b] else a.2)) (n, [])
/-- Every body and graph record of a generation. -/
def bodyLocs (g : Gen) : List RecLoc :=
  (g.lists.map (fun l => RecLoc.node l.1 :: (List.range (cdiv l.2.body.length 256)).map (RecLoc.block l.1) ++ (List.range l.2.body.length).map (RecLoc.row l.1))).flatten
/-- Records on lost sectors cannot be read (R63, R221). -/
def markLost (d : CollDesc) (g : Gen) (lost : List Nat) : Gen :=
  if lost.isEmpty then g else ((bodyLocs g).filter (fun r => (recBlocks d g r).any (lost.contains ·))).foldl (fun g r => setBad true r g) g
/-- `COLLECTION_MOUNT`, after READY: the root record and its generation are read and the log replayed, once no sanitisation holds the flash data back (R227). `readable`: root, digest and data
could be read. -/
def collectionMount (p s : Nat) (readable : Bool) (_clk : Clock) (_host : Mem) (n : Node) : Node :=
  let fail (n : Node) : Node := modC p s (fun c => { c with st := .failed, cur := none }) n
  match getC n p s with
  | none => n
  | some c =>
    if !n.boot.ready || c.st != .mounting || (collObjs p s c).any (fun o => (objSlots n o).any (fun k => (getCart n k).sanHold)) then n
    else
      let x := getP n p
      let set (st : CollSt) (g : Option Gen) (c : Coll) : Coll := { c with
        st := if c.own.st == .frozen then .frozen else if c.swap.isSome && st == .serving then .swapping else st, before := st, cur := g }
      match c.root with
      | none => modC p s (set .created none) n
      | some g =>
        if !readable || imgFmt n < g.hdr.fmt || !objWhole n g.store then fail n
        else match replayAll c.desc (poolSize x) (usedChunks x) g (logAbove c g.hdr.baseSeq) with
          | none => fail n
          | some g =>
            let (n, lost) := readStore g.store (List.range (((fobj n g.store).map (·.blocks)).getD 0)) n
            let g := markLost c.desc g lost
            match makeGen p s g (modC p s (set .serving (some g)) n) with
            | some n => settleColls n
            | none => fail n
def execCollectionMount (e : Env) (p c : Nat) (readable : Bool) (s : State) : Host.Outcome State Fault Refusal :=
  run e (collectionMount p c readable) s
/-- `RECORD_RESTORE`: the record is rewritten from flash or from the log, with fresh check bits (R63); on sectors that are lost it stays as it is (R221), and a sanitisation at mount holds
the read back (R227). -/
def recordRestore (p s : Nat) (gen : W64) (loc : RecLoc) (n : Node) : Node :=
  match (getC n p s).bind (fun c => (genNamed c gen).map (fun g => (c.desc, g))) with
  | none => n
  | some (d, g) =>
    let bs := recBlocks d g loc
    if bs.any (blkHeld n g.store) then n
    else
      let (n, lost) := readStore g.store bs n
      if lost.isEmpty then damage p s gen false loc n else n
def execRecordRestore (e : Env) (p c : Nat) (r : RecRef) (s : State) : Host.Outcome State Fault Refusal :=
  run e (pureBody (recordRestore p c r.gen r.loc)) s

end Sys2Proof.Machine
end

