-- ==== Sys2Proof/Machine/Flash.lean ====
section
/-! DEFINITION. The commands and events of chapter 10: cartridges, flash objects, the write stage, Fold, the Wringer, discards. -/

namespace Sys2Proof.Machine

/-! ### Commands on ranges (Table 10-5) -/

/-- First block, and one past the last, of an entry's range. -/
def blkLo (e : Sqe) : Nat := e.arg1 / 4096
def blkHi (e : Sqe) : Nat := (e.arg1 + e.arg2) / 4096
def blksOf (e : Sqe) : List Nat := (List.range (blkHi e - blkLo e)).map (blkLo e + ·)
/-- Entry checks: a host object of the function's partition, multiples of 4 KiB, at most 16 MiB where `limit`, within the object. -/
def flashChk (limit : Bool) (n : Node) (fn : Nat) (e : Sqe) : Option Nat :=
  match fobj n e.arg0 with
  | none => some 0x18
  | some o =>
    if 0x80000000 ≤ e.arg0 || (getFn n fn).map != some o.ptn then some 0x18
    else if e.arg1 % 4096 ≠ 0 then some 0x20
    else if e.arg2 % 4096 ≠ 0 || (limit && decide (2 ^ 24 < e.arg2)) || decide (4096 * o.blocks < e.arg1 + e.arg2) then some 0x28
    else none
/-- Map pages of a range that are not cached. -/
def missing (n : Node) (e : Sqe) : List (Nat × Nat) :=
  (((blksOf e).filterMap (pageOfBlk n e.arg0)).eraseDups).filter (fun g => !pageIn n g)
/-- Sectors that the write stage holds, those being programmed included, and its size. -/
def stageFill (n : Node) : Nat := n.flash.stage.length + (n.flash.progs.filter (fun g => g.2.why == .stage)).length
def stageSize : Nat := 524288
/-- Commands fetched before `t` that wait. -/
def waitsBefore (n : Node) (t : Tok) : List Tok := n.flash.waits.takeWhile (· != t)
def isWrite (n : Node) (t : Tok) : Bool := match cmdOf n t with
  | some c => c.opc == 0xA2
  | none => false
/-- Stages the sectors of a write. -/
def stageWrite (clk : Clock) (host : Mem) (t : Tok) (e : Sqe) (n : Node) : Node :=
  let n := foldNode (blksOf e) (fun b n => stageSector clk e.arg0 b (Mem.readN host (e.addr0 + 4096 * (b - blkLo e)) 4096) e.durable (if e.durable then some t else none) n) n
  let n := markCmd t false true n
  if e.durable then finishCmd clk t (joinObject clk e.arg0 t n) else post clk t stSuccess 0 n
/-- Reads a range: the bytes and whether a sector is lost. -/
def readRange (e : Sqe) (n : Node) : Node × List Byte × Bool :=
  (blksOf e).foldl (fun a b =>
    let (n, bs, bad) := readBlk e.arg0 b a.1
    (n, a.2.1 ++ bs, a.2.2 || bad)) (n, [], false)
/-- After the read of a range that ends in the last of a run of cached pages, the next page is fetched (R214, log 42). -/
def prefetch (e : Sqe) (n : Node) : Node :=
  match (blksOf e).getLast? with
  | none => n
  | some b => match pageOfBlk n e.arg0 b, fobj n e.arg0 with
    | some (s, pg), some o =>
      let next := (s, pg + 1)
      let used := o.carts.zipIdx.any (fun c => slotSerial n c.1 == some s && decide (512 * (pg + 1) < o.base.getD c.2 0 + objShare o c.2))
      if pg ≠ 0 && pageIn n (s, pg - 1) && used && !pageIn n next && !n.flash.reads.contains next then
        modFls (fun f => { f with reads := f.reads ++ [next] }) n else n
    | _, _ => n
/-- Cartridges that a range lies on hold reads until a sanitisation found at mount has ended (R227). -/
def rangeHeld (n : Node) (e : Sqe) : Bool := (blksOf e).any (blkHeld n e.arg0)
/-- A fetched flash command tries to go on: true when it is no longer waiting. -/
def flashTry (clk : Clock) (host : Mem) (t : Tok) (e : Sqe) (n : Node) : Node × Bool :=
  let miss := missing n e
  if e.opc = 0xA2 then
    if !objWhole n e.arg0 then (post clk t stDataLost 0 n, true)
    else if (waitsBefore n t).any (isWrite n) || decide (stageSize < stageFill n + (blksOf e).length) then (n, false)
    else (stageWrite clk host t e n, true)
  else if !miss.isEmpty then (startReads miss n, false)
  else if e.opc = 0xA3 then
    if rangeHeld n e then (n, false)
    else
      let n := foldNode ((blksOf e).filterMap (pageOfBlk n e.arg0)).eraseDups usePage n
      let (n, bs, lost) := readRange e n
      (post clk t (if lost then stDataLost else stSuccess) 0 (emit (.data e.addr0 bs) (prefetch e n)), true)
  else if e.durable then
    let slots := ((blksOf e).filterMap (slotOfBlk n e.arg0)).eraseDups
    let n := foldNode slots (fun s n => startJournal clk s [t] n) n
    (finishCmd clk t (joinObject clk e.arg0 t (modWait t (fun d => { d with progs := d.progs + slots.length }) n)), true)
  else (post clk t stSuccess 0 n, true)
/-- MIRROR_WRITE messages whose records are now programmed are acknowledged (R316). -/
def settleKept (clk : Clock) (n : Node) : Node :=
  let busy (m : Msg) (o b : Nat) : Bool :=
    let inM (ob bl : Nat) : Bool := ob == o && decide (b ≤ bl) && decide (bl < b + cdiv m.body.length 4096)
    n.flash.stage.any (fun x => inM x.obj x.blk) || n.flash.progs.any (fun g => inM g.2.obj g.2.blk)
  let (wait, go) := n.flash.ackWhen.partition (fun x => busy x.1 x.2.1 x.2.2)
  foldNode go (fun x n => ackBack clk x.1 n) (modFls (fun f => { f with ackWhen := wait }) n)

/-! ### The end of a release (R209) -/

/-- The other ACTIVE cartridge with most space (log 43). -/
def otherSlot (n : Node) (slot : Nat) : Option Nat :=
  ((sortBy (fun a b => decide (reservedOn n (getCart n a).serial ≤ reservedOn n (getCart n b).serial)) ((activeSlots n).filter (· != slot))).head?)
/-- The masks of the objects on a slot name the other ACTIVE cartridges instead. -/
def moveMasks (slot : Nat) (n : Node) : Node :=
  let ser := (getCart n slot).serial
  foldNode (n.flash.objs.filter (fun o => o.2.carts.contains ser)) (fun o n => match otherSlot n slot with
    | none => n
    | some dest =>
      let s2 := (getCart n dest).serial
      let base := baseFor n s2
      modFls (fun f => { f with objs := mmod f.objs o.1 (fun x => { x with
        base := if x.base.isEmpty then [] else x.carts.mapIdx (fun j c => if c = ser then base (objShare x j) else x.base.getD j 0)
        carts := x.carts.map (fun c => if c = ser then s2 else c) }) }) n) n
/-- Copies every valid sector of a slot to the cartridges that its object's mask now names, into QLC. -/
def evacuate (clk : Clock) (slot : Nat) (n : Node) : Node :=
  foldNode (n.flash.copies.filter (fun c => c.cart == slot && c.mapped)) (fun c n => match slotOfBlk n c.obj c.blk with
    | none => n
    | some dest => if dest = slot then n else moveCopy clk dest setCount false c n) n
/-- Commands end with `ST_DATA_LOST` and wait for nothing any more. -/
def loseToks (clk : Clock) (ts : List Tok) (n : Node) : Node :=
  let rest (l : List Tok) : List Tok := l.filter (fun t => !ts.contains t)
  foldNode ts.eraseDups (post clk · stDataLost 0) (modFls (fun f => { f with
    waits := rest f.waits, durable := f.durable.filter (fun d => !ts.contains d.tok), stage := f.stage.map (fun x => { x with toks := rest x.toks })
    progs := f.progs.map (fun g => (g.1, { g.2 with toks := rest g.2.toks })) }) n)
/-- The sanitisations that touch a slot go on without it: their commands end with `ST_DATA_LOST`, and the cartridge keeps its own list (R227). -/
def parkSanits (clk : Clock) (slot : Nat) (n : Node) : Node :=
  let hit (x : Sanit) : Bool := x.carts.contains slot
  let hits := n.flash.sanits.filter hit
  let mine := ((hits.map (·.sets)).flatten.filter (fun y => y.1 == slot)).map (·.2)
  let n := modCart slot (fun c => { c with toErase := nubNat (c.toErase ++ mine) }) n
  let n := modFls (fun f => { f with sanits := modAll hit (fun x => { x with
    tok := none, sets := x.sets.filter (fun y => y.1 != slot), carts := x.carts.filter (· != slot), adopt := if x.adopt = some slot then none else x.adopt }) f.sanits }) n
  foldNode (n.flash.sanits.filter (fun x => x.sets.isEmpty)) (endSanit clk) (loseToks clk (hits.filterMap (·.tok)) n)
/-- `CART_RELEASE` ends once nothing is staged for the slot or being programmed on it: steps 2 to 7. -/
def finishRelease (clk : Clock) (slot : Nat) (n : Node) : Node :=
  let c := getCart n slot
  if c.st != .releasing || n.flash.progs.any (fun g => g.2.cart == slot) || n.flash.stage.any (fun x => slotOfBlk n x.obj x.blk == some slot) then n
  else
    let n := if c.relEvac then evacuate clk slot n else n
    let n := foldNode (n.flash.cache.filter (fun m => m.cart == slot && m.dirty.isSome)) (fun m n => writePage slot m.page n) n
    let n := parkSanits clk slot (flushJournal slot n)
    let n := modFls (fun f => { f with cache := f.cache.filter (fun m => m.cart != slot), reads := f.reads.filter (fun g => g.1 != slot) }) n
    let n := writeLife clk slot (modCart slot (fun c => { c with life := { c.life with openFlag := false } }) n)
    let n := modCart slot (fun c => { c with st := .released, why := 0, power := false, safe := true, dirSeq := c.dirSeq + 1, relTok := none, relEvac := false }) n
    postO clk c.relTok stSuccess 0 (settleKept clk (settleColls n))
/-- Tries every waiting command again, in fetch order; releases, and drops of tables that a durable command held back, end where they can. -/
def retryAll (clk : Clock) (host : Mem) (n : Node) : Node :=
  let n := foldNode (List.range 8) (settleTbls clk) (foldNode (List.range 4) (finishRelease clk) n)
  foldNode n.flash.waits (fun t n => match cmdOf n t with
    | none => modFls (fun f => { f with waits := f.waits.filter (· != t) }) n
    | some c =>
      let (n, done) := flashTry clk host t c.entry n
      if done then modFls (fun f => { f with waits := f.waits.filter (· != t) }) n else n) n
/-- A flash command starts: it goes on at once or waits. -/
def flashStart (clk : Clock) (host : Mem) (t : Tok) (e : Sqe) (n : Node) : Node :=
  let n := modFls (fun f => { f with waits := f.waits ++ [t] }) n
  let (n, done) := flashTry clk host t e n
  if done then modFls (fun f => { f with waits := f.waits.filter (· != t) }) n else n

def flashWrite : Job := fun clk host t e n =>
  if !objWhole n e.arg0 then post clk t stDataLost 0 n
  else if !objWritable n e.arg0 then post clk t stCartRO 0 n
  else flashStart clk host t e n
def execFlashWrite (e : Env) (q : QRef) (s : State) : Host.Outcome State Fault Refusal :=
  run e (hostCmd Rows.flashWrite anyEntry (flashChk true) noPtn flashWrite q) s
def execFlashRead (e : Env) (q : QRef) (s : State) : Host.Outcome State Fault Refusal :=
  run e (hostCmd Rows.flashRead anyEntry (flashChk true) noPtn (fun clk host t e n => flashStart clk host t e n) q) s
/-- `DISCARD` (R225): unmapped in the cycle after the fetch; it completes once the map pages show it, or once its journal entries are programmed. -/
def discardJob : Job := fun clk host t e n => retryAll clk host (flashStart clk host t e (markCmd t false true (unmap clk e.arg0 (blkLo e) (blkHi e) n)))
def execDiscard (e : Env) (q : QRef) (s : State) : Host.Outcome State Fault Refusal :=
  run e (hostCmd Rows.discard anyEntry (flashChk false) noPtn discardJob q) s
/-- The listed sets take no more sectors. -/
def sealSets (l : List (Nat × Nat)) (n : Node) : Node :=
  foldNode (l.filter (fun x => decide (x.2 < setCount))) (fun x n => modSet x.1 x.2 (fun b => if b.phase = 3 then b else { b with phase := 5 }) n) n
/-- `SECURE_DISCARD` (R226): unmapped, the copies found and listed. -/
def secureDiscardJob : Job := fun clk _ t e n =>
  let sets := setsHolding n e.arg0 (blkLo e) (blkHi e)
  startSanit clk { tok := some t, sets := sets } (sealSets sets (markCmd t false true (unmap clk e.arg0 (blkLo e) (blkHi e) n)))
def execSecureDiscard (e : Env) (q : QRef) (s : State) : Host.Outcome State Fault Refusal :=
  run e (hostCmd Rows.secureDiscard anyEntry (flashChk false) noPtn secureDiscardJob q) s

/-! ### Objects (R212) -/

/-- The directory has changed: every ACTIVE cartridge gets a copy with the next sequence. -/
def writeDir (n : Node) : Node :=
  let d := (n.flash.carts.toList.map (·.dirSeq)).foldl max 0 + 1
  foldNode (activeSlots n) (fun s n => modCart s (fun c => { c with dirSeq := d }) n) n

def flashAlloc : Job := fun clk _ t e n =>
  let slots := if e.arg2 = 0 then activeSlots n else (List.range 4).filter (fun s => e.arg2.testBit s)
  if e.arg0 = 0 || decide (0x80000000 ≤ e.arg0) || (fobj n e.arg0).isSome then invalid clk t 0x18 0 n
  else if slots.any (fun s => (getCart n s).st != .active) then invalid clk t 0x28 0 n
  else
    let serials := slots.map (fun s => (getCart n s).serial)
    let o : FObj := { ptn := ((getFn n t.fn).map).getD 0, blocks := e.arg1, carts := serials, dense := e.flag 1 }
    let o := { o with base := serials.mapIdx (fun j c => baseFor n c (objShare o j)) }
    if slots.isEmpty || serials.zipIdx.any (fun c => decide (cartBlocks < reservedOn n c.1 + objShare o c.2)) || decide (freeFlash n < 4096 * e.arg1) then
      post clk t stNoSpace 0 n
    else post clk t stSuccess 0 (writeDir (modFls (fun f => { f with objs := mset f.objs e.arg0 o }) n))
def execFlashAlloc (e : Env) (q : QRef) (s : State) : Host.Outcome State Fault Refusal :=
  run e (hostCmd Rows.flashAlloc anyEntry noChk fnPtn flashAlloc q) s
def flashFreeChk (n : Node) (fn : Nat) (e : Sqe) : Option Nat := match fobj n e.arg0 with
  | some o => if e.arg0 < 0x80000000 && (getFn n fn).map == some o.ptn then none else some 0x18
  | none => some 0x18
def flashFree : Job := fun clk _ t e n =>
  let o := e.arg0
  if e.flag 1 then
    let sets := setsHolding n o 0 (2 ^ 64)
    startSanit clk { tok := some t, sets := sets, free := [o] } (sealSets sets (unmap clk o 0 (2 ^ 64) n))
  else post clk t stSuccess 0 (writeDir (modFls (fun f => { f with objs := mdel f.objs o }) (unmap clk o 0 (2 ^ 64) n)))
def execFlashFree (e : Env) (q : QRef) (s : State) : Host.Outcome State Fault Refusal :=
  run e (hostCmd Rows.flashFree anyEntry flashFreeChk fnPtn flashFree q) s

/-! ### The mapping cache -/

/-- `MAP_PAGE_READ`: the QLC read of an absent page ends. -/
def mapPageRead (slot page : Nat) (clk : Clock) (host : Mem) (n : Node) : Node :=
  if n.flash.reads.contains (slot, page) then
    retryAll clk host (loadPage (slot, page) (modFls (fun f => { f with reads := f.reads.filter (· != (slot, page)) }) n))
  else n
def execMapPageRead (e : Env) (slot page : Nat) (s : State) : Host.Outcome State Fault Refusal := run e (mapPageRead slot page) s
/-- `MAP_PAGE_WRITEBACK`: a dirty page is programmed. -/
def mapPageWriteback (slot page : Nat) (n : Node) : Node :=
  if n.flash.cache.any (fun m => m.cart == slot && m.page == page && m.dirty.isSome) && (getCart n slot).serves then writePage slot page n else n
def execMapPageWriteback (e : Env) (slot page : Nat) (s : State) : Host.Outcome State Fault Refusal := run e (pureBody (mapPageWriteback slot page)) s

/-! ### Programs -/

/-- `WRITE_STAGE_FLUSH`: a staged sector is programmed into `set`. It waits while its map page is absent, and its program is throttled while the
one-bit buffer is full (R217) or its die is short of free sets (R219). -/
def writeStageFlush (obj blk set : Nat) (n : Node) : Clock → Node := fun clk =>
  match n.flash.stage.find? (fun x => x.obj == obj && x.blk == blk) with
  | none => n
  | some x => match slotOfBlk n obj blk with
    | none => n
    | some s =>
      let miss := ((pageOfBlk n obj blk).toList).filter (fun g => !pageIn n g)
      if !miss.isEmpty then startReads miss n
      else
        let onebit := toOnebit n x
        let host := decide (obj < 0x80000000)
        if host && decide (set < setCount) && decide (freeOnDie (getCart n s) (dieOf set) < 2) then
          modFls (fun f => { f with stage := modAll (fun y => y.ver == x.ver) (fun y => { y with die := some (dieOf set) }) f.stage }) n
        else if !setTakes (getCart n s) set onebit host || (onebit && decide (onebitLimit n ≤ onebitFill n s)) then n
        else
          let (pos, n) := takeSector clk s set onebit (modFls (fun f => { f with stage := f.stage.filter (fun y => y.ver != x.ver) }) n)
          startProg { cart := s, set_ := set, pos := pos, onebit := onebit, obj := obj, blk := blk, data := x.data, ver := x.ver, toks := x.toks } n
def execWriteStageFlush (e : Env) (obj blk set : Nat) (s : State) : Host.Outcome State Fault Refusal :=
  run e (fun clk _ n => writeStageFlush obj blk set n clk) s
/-- `PROGRAM_DONE`: verified by status read. -/
def programDone (i : Nat) (clk : Clock) (host : Mem) (n : Node) : Node :=
  match mget n.flash.progs i with
  | none => n
  | some g => retryAll clk host (settleKept clk (endProg clk i g n))
def execProgramDone (e : Env) (prog : Nat) (s : State) : Host.Outcome State Fault Refusal := run e (programDone prog) s
/-- Programs of a set that go on elsewhere: all but those whose block was unmapped meanwhile. -/
def progsOf (n : Node) (s i : Nat) : List (Nat × Prog) := n.flash.progs.filter (fun h => h.2.cart == s && h.2.set_ == i && !h.2.dead)
/-- The failed set's programs that no one needs end; what waited for them goes on. -/
def dropDead (clk : Clock) (s i : Nat) (n : Node) : Node :=
  let ds := n.flash.progs.filter (fun h => h.2.cart == s && h.2.set_ == i && h.2.dead)
  progDone clk ((ds.map (fun h => h.2.toks)).flatten) (modFls (fun f => { f with progs := f.progs.filter (fun h => !(h.2.cart == s && h.2.set_ == i && h.2.dead)) }) n)
/-- `PROGRAM_FAILURE`: the same data goes to another set with room for it; the failed set is emptied and its block on plane `plane` retired (R222). Stale sectors in that block stay known by it. -/
def programFailure (i set plane : Nat) (clk : Clock) (n : Node) : Node :=
  match mget n.flash.progs i with
  | none => n
  | some g =>
    let s := g.cart
    let bad := g.set_
    let ps := progsOf n s bad
    if bad = set || 4 ≤ plane || !setTakes (getCart n s) set g.onebit false || decide (setRoom (getSet (getCart n s) set) g.onebit < ps.length) then n
    else
      let n := dropDead clk s bad n
      let n := foldNode ps (fun h n =>
        let (pos, n) := takeSector clk s set g.onebit n
        modFls (fun f => { f with progs := mmod f.progs h.1 (fun y => { y with set_ := set, pos := pos }) }) n) n
      let n := relocate clk s bad (modSet s bad (fun b => { b with phase := 5 }) n)
      let j := retiredSet (getCart n s)
      let (n, goes) := retireBlock clk s bad plane n
      let n := modFls (fun f => { f with copies := modAll (fun c => c.cart == s && c.set_ == bad && planeOf c.pos == plane) (fun c => { c with set_ := j }) f.copies }) n
      modSet s bad (fun b => { b with phase := if goes then 4 else 3 }) n
def execProgramFailure (e : Env) (bad : OnPlane) (set : Nat) (s : State) : Host.Outcome State Fault Refusal :=
  run e (fun clk host n => retryAll clk host (programFailure bad.num set bad.plane clk n)) s

/-! ### Fold (R217, R218) -/

/-- A Fold copy of this sector exists or is being programmed. -/
def foldPending (n : Node) (c : Copy) : Bool :=
  n.flash.copies.any (fun x => x.obj == c.obj && x.blk == c.blk && x.ver == c.ver && !x.onebit && !x.mapped && x.cart == c.cart) ||
  n.flash.progs.any (fun g => g.2.obj == c.obj && g.2.blk == c.blk && g.2.ver == c.ver && g.2.why == .fold && !g.2.dead)
/-- Sectors of the oldest one-bit set that are not yet folded. -/
def foldNext (n : Node) (s : Nat) : List Copy :=
  let sets := sortBy (fun a b => decide (a.2.at_ < b.2.at_) || (a.2.at_ == b.2.at_ && decide (a.1 ≤ b.1)))
    ((getCart n s).sets.filter (fun x => !x.2.qlc && (x.2.phase == 1 || x.2.phase == 2)))
  match (sets.map (fun x => (validIn n s x.1).filter (fun c => !foldPending n c))).find? (fun l => !l.isEmpty) with
  | some l => l
  | none => []
def fold (slot set : Nat) (clk : Clock) (n : Node) : Node :=
  if (getCart n slot).st != .active || !setTakes (getCart n slot) set false false then n
  else
    startCopies clk slot set .fold ((foldNext n slot).take (setRoom (getSet (getCart n slot) set) false)) n
def execFold (e : Env) (slot set : Nat) (s : State) : Host.Outcome State Fault Refusal := run e (fun clk _ n => fold slot set clk n) s
/-- `FOLD_REMAP`: the set is programmed, closed and verified, so its copies take over from their one-bit sources. -/
def foldRemap (slot set : Nat) (clk : Clock) (n : Node) : Node :=
  let b := getSet (getCart n slot) set
  if !(b.phase == 1 || b.phase == 2) || !b.qlc || progsInto n slot set then n
  else
    let n := modSet slot set (fun b => { b with phase := 2, at_ := if b.phase = 1 then clk.node else b.at_ }) n
    let mine (c x : Copy) : Bool := x.obj == c.obj && x.blk == c.blk && x.ver == c.ver && x.mapped && x.onebit
    let go := n.flash.copies.filter (fun c => c.cart == slot && c.set_ == set && !c.mapped && n.flash.copies.any (mine c))
    foldNode go (fun c n =>
      let src := n.flash.copies.filter (mine c)
      let n := modFls (fun f => { f with copies := f.copies.map (fun x =>
        if mine c x then { x with mapped := false } else if x == c then { x with mapped := true } else x) }) n
      countC slot 2 1 (foldNode src (fun x n => emptied x.cart x.set_ n) (dirtyPage clk c.obj c.blk (noteMap slot c.obj c.blk (mapEntry (getCart n slot) c) n)))) n
def execFoldRemap (e : Env) (slot set : Nat) (s : State) : Host.Outcome State Fault Refusal := run e (fun clk _ n => foldRemap slot set clk n) s

/-! ### The Wringer (R219, R220) -/

/-- Numerator and denominator of a closed set's score. -/
def score (now v : Nat) (b : BSet) : Nat × Nat :=
  ((24576 - v) * (min 65535 ((now - b.at_) / 300000000) + 60) * ((1500 - b.erases) + 100), 24576 + v)
/-- The victim of a die. -/
def victim (now : Nat) (n : Node) (s d : Nat) : Option Nat :=
  let c := getCart n s
  let seen := c.sets.filter (fun x => dieOf x.1 == d)
  let on := seen.filter (fun x => x.2.phase != 3)
  let cl := on.filter (fun x => x.2.qlc && x.2.phase == 2)
  match cl.find? (fun x => x.2.refresh) with
  | some x => some x.1
  | none =>
    let hi : Nat := (on.map (fun x => x.2.erases)).foldl max 0
    let lo : Nat := if seen.length < 4967 then 0 else (on.map (fun x => x.2.erases)).foldl min hi
    if 200 < hi - lo then ((sortBy (fun a b => decide (a.2.erases < b.2.erases) || (a.2.erases == b.2.erases && decide (a.1 ≤ b.1))) cl).head?).map (·.1)
    else
      let sc := cl.map (fun x => (x.1, score now (validIn n s x.1).length x.2))
      let better (a b : Nat × Nat × Nat) : Bool :=
        decide (b.2.1 * a.2.2 < a.2.1 * b.2.2) || (b.2.1 * a.2.2 == a.2.1 * b.2.2 && decide (a.1 ≤ b.1))
      ((sortBy better (sc.filter (fun x => decide (0 < x.2.1)))).head?).map (·.1)
def freeLow (n : Node) : Nat := fld n.flash.cfg 16 8
/-- Set being emptied on a die. -/
def draining (n : Node) (s d : Nat) : Option Nat :=
  ((getCart n s).sets.find? (fun x => dieOf x.1 == d && x.2.phase == 5 && !inSanit n s x.1)).map (·.1)
/-- `WRINGER`: a victim is chosen, unless one was, and its valid sectors start to be copied to the free set `set`. -/
def wringer (slot die set : Nat) (clk : Clock) (n : Node) : Node :=
  let c := getCart n slot
  let dr := draining n slot die
  if c.st != .active || (dr.isNone && decide (freeLow n ≤ freeOnDie c die)) then n
  else match dr.orElse (fun _ => victim clk.node n slot die) with
    | none => n
    | some v =>
      let vs := (validIn n slot v).filter (fun c => !n.flash.progs.any (fun g => g.2.obj == c.obj && g.2.blk == c.blk && g.2.ver == c.ver && g.2.why == .wring))
      if vs.isEmpty then emptied slot v (modSet slot v (fun b => { b with phase := 5 }) n)
      else if set = v || !setTakes c set false false || (getSet c set).phase != 0 then n
      else startCopies clk slot set .wring vs (modSet slot v (fun b => { b with phase := 5 }) n)
def execWringer (e : Env) (slot die set : Nat) (s : State) : Host.Outcome State Fault Refusal := run e (fun clk _ n => wringer slot die set clk n) s
/-- The set, or the retired block, may be erased now: it waits for its erase or is on a sanitisation list, and no program goes into it. -/
def eraseOpen (n : Node) (s i : Nat) : Bool :=
  (getCart n s).power && ((decide (i < setCount) && (getSet (getCart n s) i).phase == 4) || inSanit n s i) && !progsInto n s i
/-- Out of service: a retired set, or a retired block. -/
def outOfService (n : Node) (s i : Nat) : Bool := decide (setCount ≤ i) || (getSet (getCart n s) i).phase == 3
/-- `ERASE_DONE`: the set returns to the free list or counts as sanitised; a running Wringer takes its next victim. -/
def eraseDone (slot set : Nat) (clk : Clock) (host : Mem) (n : Node) : Node :=
  if !eraseOpen n slot set then n
  else if outOfService n slot set then retryAll clk host (sanitSet clk slot set false (dropSectors slot set none n))
  else
    let b := getSet (getCart n slot) set
    let n := sanitSet clk slot set false (wipeSet clk slot set false none (relocate clk slot set n))
    let d := dieOf set
    let n := if b.qlc && b.phase == 4 && (getCart n slot).st == .active && decide (freeOnDie (getCart n slot) d < 2 * freeLow n) && (draining n slot d).isNone then
        match victim clk.node n slot d with
        | some v => emptied slot v (modSet slot v (fun b => { b with phase := 5 }) n)
        | none => n
      else n
    retryAll clk host n
def execEraseDone (e : Env) (slot set : Nat) (s : State) : Host.Outcome State Fault Refusal := run e (eraseDone slot set) s
/-- `ERASE_FAILURE`: the set's block on plane `plane` is retired at once, and its sectors stay known by it (R223). `passes`: in a sanitisation, the block overwritten with zeros reads
back within the limit (R226 step 5), and nothing of it is left. -/
def eraseFailure (slot set plane : Nat) (passes : Bool) (clk : Clock) (host : Mem) (n : Node) : Node :=
  if !eraseOpen n slot set || 4 ≤ plane then n
  else
    let gone := inSanit n slot set && passes
    if outOfService n slot set then retryAll clk host (sanitSet clk slot set (!passes) (if gone then dropSectors slot set none n else n))
    else
      let n := relocate clk slot set n
      let j := retiredSet (getCart n slot)
      let (n, goes) := retireBlock clk slot set plane n
      retryAll clk host (sanitSet clk slot set (!passes) (wipeSet clk slot set (!goes) (if gone then none else some (plane, j)) n))
def execEraseFailure (e : Env) (slot : Nat) (bad : OnPlane) (passes : Bool) (s : State) : Host.Outcome State Fault Refusal := run e (eraseFailure slot bad.num bad.plane passes) s

/-! ### Cartridges -/

/-- `CART_PRESENT`: slot power comes on and identification starts (R361). -/
def cartPresent (slot : Nat) (n : Node) : Node :=
  if slot < 4 && !(getCart n slot).present && n.pins.perst then
    modCart slot (fun c => { c with present := true, power := true, st := .identifying, why := 0, safe := false }) n else n
def execCartPresent (e : Env) (slot : Nat) (s : State) : Host.Outcome State Fault Refusal := runAon e (pureBody (cartPresent slot)) s

/-! Identification (Tables 10-1 to 10-3) -/

/-- Table 10-2. -/
def idRecordOf (b : List Byte) : IdRecord :=
  { magic := BitVec.ofNat 32 (leAt b 0x00 4), recVer := leAt b 0x04 2, model := leAt b 0x06 2, serial := leAt b 0x08 16, channels := leAt b 0x18 1, dies := leAt b 0x19 1
    planes := leAt b 0x1A 1, blocks := leAt b 0x1C 2, spares := leAt b 0x1E 2, pagesQlc := leAt b 0x20 2, pages1bit := leAt b 0x22 2, peRated := leAt b 0x24 4
    lblocks := leAt b 0x28 8, bufGb := leAt b 0x30 4, dieDigest := leAt b 0x40 48 }
/-- The record is an MC64's (R204): what Table 10-2 fixes has the values it gives. A geometry that differs makes the record invalid (DEDUCED, log 160). -/
def recordOk (r : IdRecord) : Bool := { r with serial := 0, dieDigest := 0 } == ({} : IdRecord)
/-- The first check of Table 10-3 that fails of what the cartridge shows: `none` is FAILED, 0 all pass. -/
def idCheck (id : CartIdent) : Option Nat :=
  let r := idRecordOf id.record
  if id.trained ≠ 0xFF || id.dies.length ≠ 128 || !id.dies.all (fun d => d.1 == {}) then none
  else if !id.idAnswers then some roNoId
  else if !recordOk r || !id.rsaOk || !id.slhOk then some roUnsigned
  else if r.dieDigest ≠ leNat (sha384 ((id.dies.map (fun d => d.2.take 16)).flatten)) then some roMismatch else some 0
/-- The life record of an identified cartridge: the valid copy, `WEAR` at least what the block summaries give, a session found open counted in `UNSAFE` (R207). -/
def lifeAtMount (a b : List Byte) (sets : List (Nat × BSet)) : LifeRec :=
  let l := lifeOf a b
  { l with wear := max l.wear (setsWear sets), unsafeCnt := l.unsafeCnt + b2n l.openFlag, openFlag := false }
/-- Collections that a directory names are mounted in their partitions, or in partition 0 where theirs is not there (R39): in the slot they had, or the lowest free one. Their flash objects
take the names of that place (log 161). -/
def findColl (f : FoundColl) (n : Node) : Node :=
  if n.ptns.toList.any (fun x => x.colls.any (fun c => c.2.desc.collId == f.desc.collId)) then n
  else
    let p := if (getP n f.ptn).st == .absent then 0 else f.ptn
    match (if mhas (getP n p).colls f.slot then firstFree (getP n p).colls 0 256 else some f.slot) with
    | none => n
    | some s =>
      let name (o : Nat) : Nat := if o = nodeObj f.ptn .coll f.slot then nodeObj p .coll s else if o = origObj f.ptn f.slot then origObj p s else o
      let n := modFls (fun y => { y with
        objs := y.objs.foldl (fun m o => mset m (name o.1) (if name o.1 = o.1 then o.2 else { o.2 with ptn := p })) []
        copies := y.copies.map (fun c => { c with obj := name c.obj }) }) n
      let top := (f.log.map (·.seq)).foldl max ((f.root.map (·.hdr.baseSeq)).getD 0)
      let c : Coll := { desc := f.desc, st := .mounting, root := f.root, seq := top, applied := top, log := f.log, logFrom := f.logFrom
                        own := { owner := n.lnk.nodeId, ownerP := p }, orig := f.orig }
      modP p (fun x => { x with colls := mset x.colls s c }) n
/-- A sanitisation that the cartridge brings along goes on before it serves a read (R227). -/
def resumeSanit (slot : Nat) (n : Node) : Node :=
  let l := (getCart n slot).toErase
  if l.isEmpty then n
  else modCart slot (fun c => { c with sanHold := true, toErase := [] })
    (modFls (fun f => { f with sanits := f.sanits ++ [{ sets := l.map (slot, ·), carts := [slot] }] }) n)
/-- Ages of closed sets run from the mount (R220). -/
def ageSets (clk : Clock) (l : List (Nat × BSet)) : List (Nat × BSet) :=
  l.map (fun x => (x.1, if x.2.qlc && x.2.phase == 2 then { x.2 with at_ := clk.node } else x.2))
/-- What a cartridge's directory, map, journal and summaries hold becomes the node's (R206, R211, R214). Of this node's cartridges the directory with the highest sequence holds: an older one
brings no object back. -/
def mountCart (clk : Clock) (slot : Nat) (id : CartIdent) (n : Node) : Node :=
  let top := ((n.flash.carts.toList.filter (·.known)).map (·.dirSeq)).foldl max 0
  let stale := id.dirOurs == some true && decide (id.dirSeq < top)
  let n := modCart slot (fun c => { c with
    known := true, ident := none, dirSeq := id.dirSeq, spares := id.spares, retired := id.retired, lost := id.lost, journal := id.journal, jpend := [], toErase := id.toErase
    sets := ageSets clk id.sets }) n
  let objs := if stale then n.flash.objs else id.objs.foldl (fun m o => if mhas m o.1 then m else mset m o.1 o.2) n.flash.objs
  let n := modFls (fun f => { f with
    objs := objs
    copies := f.copies ++ id.copies.map (fun c => { c with cart := slot, mapped := c.mapped && mhas objs c.obj })
    nextV := max f.nextV ((id.copies.map (·.ver)).foldl max 0 + 1) }) n
  resumeSanit slot (if stale then n else foldNode id.colls findColl n)
/-- The slot becomes ACTIVE: `OPEN` is set, the directory and a life record are written. -/
def activate (clk : Clock) (slot : Nat) (n : Node) : Node :=
  let d := (n.flash.carts.toList.map (·.dirSeq)).foldl max 0
  settleColls (writeLife clk slot (resumeSanit slot (modCart slot (fun c => { c with
    st := .active, why := 0, power := true, safe := false, dirSeq := d, life := { c.life with openFlag := true } }) n)))
/-- The factory image at boot adopts every cartridge that holds a valid directory (R39). -/
def factoryBoot (n : Node) : Bool := !n.boot.ready && (match n.boot.image with
  | some i => i.flags.getLsbD 0
  | none => false)
/-- Boot step 0x09 ends when tier 2 is trained and no seated cartridge is left to identify: the mapping cache and the write stage are reserved in tier 2 (R214). -/
def identsDone (n : Node) : Node :=
  if !n.boot.done.contains 8 || n.boot.done.contains 9 || n.flash.carts.toList.any (fun c => c.st == .identifying) then n
  else modMem (fun m => { m with rsvT2 := 0x18000 }) (modBoot (fun b => { b with done := nubNat (9 :: b.done) }) n)
/-- `CART_IDENTIFIED`: the outcome of Table 10-3. -/
def cartIdentified (slot : Nat) (id : CartIdent) (clk : Clock) (host : Mem) (n : Node) : Node :=
  let c := getCart n slot
  if c.st != .identifying then n
  else match idCheck id with
    | none => identsDone (modCart slot (fun c => { c with st := .failed }) n)
    | some fails =>
      let sets := if c.known then c.sets else id.sets
      let a := if c.known then c.lifeA else id.lifeA
      let b := if c.known then c.lifeB else id.lifeB
      let life := lifeAtMount a b sets
      let used := lifeUsed life.wear
      let n := modCart slot (fun c => { c with serial := (idRecordOf id.record).serial, life := life, lifeP := used, lifeA := a, lifeB := b }) n
      let why := if fails = 0 && decide (1000 ≤ used) then roExpired else fails
      let foreign := !c.known && id.dirOurs == some false && !factoryBoot n
      let n := if why = 0 && foreign then modCart slot (fun c => { c with st := .foreign, ident := some id }) n
        else
          let n := if c.known then modCart slot (fun c => { c with sets := ageSets clk c.sets, sanHold := n.flash.sanits.any (fun x => x.carts.contains slot) }) n else mountCart clk slot id n
          if why = 0 then activate clk slot n
          else settleColls (raiseAt attnCartridge 0 (modCart slot (fun c => { c with st := .readOnly, why := why }) n))
      let first := decide (lifeUsed (lifeOf a b).wear < 900 ∧ 900 ≤ used)
      retryAll clk host (identsDone (if first then raiseAt attnCartridge 0 n else n))
def execCartIdentified (e : Env) (slot : Nat) (id : CartIdent) (s : State) : Host.Outcome State Fault Refusal := run e (cartIdentified slot id) s
/-- `LIFE_RECORD_WRITE`: every 10 minutes (R207). -/
def lifeRecordWrite (slot : Nat) (clk : Clock) (n : Node) : Node :=
  let c := getCart n slot
  if c.st == .active && decide (c.lifeAt + 180000000000 ≤ clk.node) then writeLife clk slot n else n
def execLifeRecordWrite (e : Env) (slot : Nat) (s : State) : Host.Outcome State Fault Refusal := run e (fun clk _ n => lifeRecordWrite slot clk n) s

/-! Removal, release, adoption (R209 to R211) -/

/-- The node forgets what a slot held. -/
def forgetSlot (slot : Nat) (n : Node) : Node :=
  modCart slot (fun c => { counts := c.counts, throttle := c.throttle })
    (modFls (fun f => { f with
      copies := f.copies.filter (fun x => x.cart != slot), progs := f.progs.filter (fun g => g.2.cart != slot)
      cache := f.cache.filter (fun m => m.cart != slot), reads := f.reads.filter (fun g => g.1 != slot) }) n)
/-- Commands that wait on a cartridge's flash: for a map page or a sanitisation, for a program or a staged sector of theirs, for a sanitisation of its sets, for its release. -/
def waitOn (n : Node) (slot : Nat) : List Tok :=
  n.flash.waits.filter (fun t => match cmdOf n t with
    | some c => (blksOf c.entry).any (fun b => slotOfBlk n c.entry.arg0 b == some slot)
    | none => false) ++
  ((n.flash.stage.filter (fun x => slotOfBlk n x.obj x.blk == some slot)).map (·.toks)).flatten ++
  ((n.flash.progs.filter (fun g => g.2.cart == slot)).map (fun g => g.2.toks)).flatten ++ (getCart n slot).relTok.toList
/-- Sectors of the write stage that have not reached the slot: staged for it, or being programmed there. No command waits for them any more. -/
def unsettled (clk : Clock) (n : Node) (slot : Nat) : List Staged :=
  (n.flash.progs.filter (fun g => g.2.cart == slot && g.2.why == .stage && !g.2.dead)).map (fun g =>
    { obj := g.2.obj, blk := g.2.blk, data := g.2.data, at_ := clk.node, ver := g.2.ver, dur := true }) ++
  (n.flash.stage.filter (fun x => slotOfBlk n x.obj x.blk == some slot)).map (fun x => { x with toks := [] })
/-- `CART_REMOVED` without release: what waits on it is lost, the write stage's sectors go to another cartridge at once (R210). -/
def cartRemoved (slot : Nat) (clk : Clock) (host : Mem) (n : Node) : Node :=
  let c := getCart n slot
  if !c.present then n
  else if c.safe then forgetSlot slot n
  else
    let mine := unsettled clk n slot
    let n := parkSanits clk slot (loseToks clk (waitOn n slot) n)
    let n := modFls (fun f => { f with progs := f.progs.filter (fun g => g.2.cart != slot), stage := f.stage.filter (fun x => !mine.any (fun y => y.ver == x.ver)) }) n
    let n := match otherSlot n slot with
      | some dest => foldNode mine (programNow clk dest) n
      | none => n
    retryAll clk host (settleKept clk (raiseAt attnCartridge 0 (settleColls (forgetSlot slot n))))
def execCartRemoved (e : Env) (slot : Nat) (s : State) : Host.Outcome State Fault Refusal := runAon e (cartRemoved slot) s

/-- `CART_RELEASE`: the slot takes no new data from now on, with `EVACUATE` its objects move; `finishRelease` does the rest, at once where nothing is under way. -/
def cartRelease : Job := fun clk host t e n =>
  let slot := e.target
  let c := getCart n slot
  if 4 ≤ slot || !(c.st == .active || c.st == .readOnly) then invalid clk t 0x04 0 n
  else
    let valid := (n.flash.copies.filter (fun x => x.cart == slot && x.mapped)).length
    let room := sumNat (((activeSlots n).filter (· != slot)).map (fun s => cartBlocks - reservedOn n (getCart n s).serial))
    if e.flag 1 && decide (room < valid) then post clk t stNoSpace 0 n
    else
      let n := modCart slot (fun c => { c with st := .releasing, why := 0, relTok := some t, relEvac := e.flag 1 }) n
      retryAll clk host (settleColls (if e.flag 1 then evacuate clk slot (moveMasks slot n) else n))
def execCartRelease (e : Env) (q : QRef) (s : State) : Host.Outcome State Fault Refusal :=
  run e (hostCmd Rows.cartRelease anyEntry noChk noPtn cartRelease q) s
/-- Nothing that a cartridge holds is mapped any more; the objects that lay on it have lost those blocks. -/
def unmapCart (slot : Nat) (n : Node) : Node :=
  let gone := (getCart n slot).serial
  modFls (fun f => { f with
    copies := modAll (fun c => c.cart == slot) (fun c => { c with mapped := false }) f.copies
    objs := f.objs.map (fun o => (o.1, { o.2 with carts := o.2.carts.map (fun x => if x = gone then 2 ^ 128 else x) })) }) n
/-- `CART_ADOPT` (R211): with `ERASE` every set and retired block that may hold data is erased before the cartridge becomes ACTIVE and empty. -/
def cartAdopt : Job := fun clk host t e n =>
  let slot := e.target
  let c := getCart n slot
  if 4 ≤ slot || !(c.st == .foreign || c.st == .released) then invalid clk t 0x04 0 n
  else if e.flag 1 then
    let n := modCart slot (fun c => { c with
      power := true, ident := none, known := true, toErase := [], sets := (c.ident.map (·.sets)).getD c.sets, spares := (c.ident.map (·.spares)).getD c.spares
      retired := (c.ident.map (·.retired)).getD c.retired, lost := (c.ident.map (·.lost)).getD c.lost, journal := [], jpend := [] }) (unmapCart slot n)
    let c := getCart n slot
    let live := ((c.sets.filter (fun x => x.2.phase != 0)).map (·.1)) ++ (List.range c.retired.length).map (setCount + ·)
    retryAll clk host (startSanit clk { tok := some t, sets := live.map (fun i => (slot, i)), carts := [slot], adopt := some slot } n)
  else match c.ident with
    | none => retryAll clk host (post clk t stSuccess 0 (activate clk slot n))
    | some id =>
      if id.objs.any (fun o => mhas n.flash.objs o.1) then invalid clk t 0x04 0 n
      else retryAll clk host (post clk t stSuccess 0 (activate clk slot (mountCart clk slot id n)))
def execCartAdopt (e : Env) (q : QRef) (s : State) : Host.Outcome State Fault Refusal :=
  run e (hostCmd Rows.cartAdopt anyEntry noChk noPtn cartAdopt q) s

end Sys2Proof.Machine
end

