-- ==== Sys2Proof/Machine/PoolOps.lean ====
section
/-! DEFINITION. Rows of embedding tables and the pooling of bags (R159, R163, R165), which `POOL`, `UPDATE` and hybrid searches share. -/

namespace Sys2Proof.Machine

/-- One (index, bag, weight) of a command. -/
abbrev Tri := Nat × Nat × W32
/-- Sorted by index, then by bag; ties keep input order. -/
def sortTri (l : List Tri) : List Tri := sortBy (fun a b => decide (a.1 < b.1) || (a.1 == b.1 && decide (a.2.1 ≤ b.2.1))) l
/-- The combined weight of each distinct (index, bag): the exact sum, rounded once (R163). Input sorted. -/
def combineW : List Tri → List (Nat × Nat × Acc) → List Tri
  | [], acc => (acc.map (fun x => (x.1, x.2.1, x.2.2.to32))).reverse
  | (i, b, w) :: r, (j, c, a) :: acc =>
    if i = j ∧ b = c then combineW r ((j, c, a.add w) :: acc) else combineW r ((i, b, ({} : Acc).add w) :: (j, c, a) :: acc)
  | (i, b, w) :: r, [] => combineW r [(i, b, ({} : Acc).add w)]
/-- Combined pairs whose weight is not ±0, ascending by index. -/
def marked (l : List Tri) : List Tri := (combineW (sortTri l) []).filter (fun x => !zero32 x.2.2)
/-- Distinct indices of sorted pairs. -/
def distinctIdx (l : List Tri) : List Nat := nubNat (l.map (·.1))
/-- out[b]: an FMA chain from +0 over the bag's marked rows in ascending index order, from the rows fetched. -/
def poolOut (width : Nat) (rows : List (Nat × List W32)) (ms : List Tri) (b : Nat) : List W32 :=
  (ms.filter (fun x => x.2.1 == b)).foldl (fun out x =>
    List.zipWith (fun r o => fma32 x.2.2 r o) ((mget rows x.1).getD (List.replicate width 0)) out) (List.replicate width 0)

/-! ### The frequency filter and the Canopy (R168, R169) -/

/-- Lines of a table. -/
def Tbl.lineCap (t : Tbl) : Nat := 16 * (1024 * t.canopyK / (64 * max 1 t.width))
def Tbl.bigH (t : Tbl) : Nat := max t.lineCap t.hotRows
/-- F: the smallest power of two that is at least 4H and 1,024. -/
def Tbl.filtF (t : Tbl) : Nat := 2 ^ ((max (4 * t.bigH) 1024 - 1).log2 + 1)
/-- Counter index of row r in array k. -/
def Tbl.slotAt (t : Tbl) (r k : Nat) : Nat := (mix (t.tblId ^^^ BitVec.ofNat 64 (r + k * 2 ^ 32))).toNat % t.filtF
def Tbl.cnt (t : Tbl) (r k : Nat) : Nat := (mget (t.filter.getD k []) (t.slotAt r k)).getD 0
/-- est(r). -/
def Tbl.est (t : Tbl) (r : Nat) : Nat := min (min (t.cnt r 0) (t.cnt r 1)) (min (t.cnt r 2) (t.cnt r 3))
/-- The filter part of `access`. -/
def Tbl.touchFilter (t : Tbl) (r : Nat) : Tbl :=
  let f := t.filter.mapIdx (fun k a => mset a (t.slotAt r k) (min 15 (t.cnt r k + 1)))
  { t with filter := f, accesses := t.accesses + 1 }
/-- Ageing after 10H accesses. -/
def Tbl.age (t : Tbl) : Tbl :=
  if t.accesses = 10 * t.bigH then
    { t with accesses := 0, filter := t.filter.map (fun a => a.map (fun x => (x.1, x.2 / 2)))
             lines := t.lines.map (fun l => { l with count := l.count / 2 }) }
  else t
/-- The set of row r. -/
def Tbl.setOf (t : Tbl) (r : Nat) : Nat := (mix (t.tblId ^^^ BitVec.ofNat 64 r)).toNat % max 1 (t.lineCap / 16)
/-- `access(r)`: the table after it, est(r), and the line that served it. -/
def Tbl.access (t : Tbl) (adm : Bool) (r : Nat) : Tbl × Nat × Option Line :=
  if t.bigH = 0 then (t, 0, none)
  else
    let t1 := t.touchFilter r
    let est := t1.est r
    let t2 := t1.age
    if t2.lineCap = 0 then (t2, est, none)
    else match t2.lines.find? (fun l => l.row == r) with
      | some l => ({ t2 with lines := modFirst (fun l => l.row == r) (fun l => { l with count := min 255 (l.count + 1) }) t2.lines }, est, some l)
      | none =>
        let s := t2.setOf r
        let mine := t2.lines.filter (fun l => l.set_ == s)
        let fresh (w : Nat) : Line := { set_ := s, way := w, row := r, count := est, bad := rowPoisoned t2 r }
        match (List.range 16).find? (fun w => !mine.any (fun l => l.way == w)) with
        | some w => ({ t2 with lines := t2.lines ++ [fresh w] }, est, none)
        | none =>
          match (sortBy (fun a b => decide (a.count < b.count) || (a.count == b.count && decide (a.way ≤ b.way))) mine).head? with
          | none => (t2, est, none)
          | some v =>
            if !adm || decide (v.count < est) then
              ({ t2 with lines := t2.lines.map (fun l => if l.set_ == s && l.way == v.way then fresh v.way else l) }, est, none)
            else (t2, est, none)

/-! ### Operations on rows (R170 to R172) and the start of a migration (R174) -/

/-- An add on a row's elements: fp32_rne(row[e] + Δ[e]); a poisoned element stays as it is; an infinite element of the delta is dropped
before it comes here. -/
def opRow (op : RowOp) (v : List W32) : List W32 := match op with
  | .add d => List.zipWith add32 v d
  | .write w => w
/-- Applies an operation at a row's memory location: a write clears poison. -/
def applyOp (t : Tbl) (r : Nat) (op : RowOp) : Tbl :=
  let t := putRow t r (opRow op (rowOfT t r))
  match op with
  | .add _ => t
  | .write _ => { t with poison := t.poison.filter (fun x => x.1 != r), lines := modAll (fun l => l.row == r) (fun l => { l with bad := false }) t.lines }
/-- A row as a look-up reads it from memory (R164): with the issued operations up to the last one whose command has completed. -/
def seenOps (ops : List (Nat × Add)) : List (Nat × Add) := (ops.reverse.dropWhile (fun a => a.2.tok.isSome)).reverse
/-- Operations issued on a row and not yet applied, in issue order, those not yet issued apart. -/
def issuedOps (x : Ptn) (tn r : Nat) : List (Nat × Add) := x.adds.filter (fun a => a.2.tbl == tn && a.2.row == r && !a.2.held)
/-- The row with every issued operation applied: what the Canopy holds (R170) and what a migration copies. -/
def rowIssued (x : Ptn) (tn : Nat) (t : Tbl) (r : Nat) : List W32 := (issuedOps x tn r).foldl (fun v a => opRow a.2.op v) (rowOfT t r)
def rowSeen (x : Ptn) (tn : Nat) (t : Tbl) (r : Nat) : List W32 := (seenOps (issuedOps x tn r)).foldl (fun v a => opRow a.2.op v) (rowOfT t r)
/-- Migrations of a partition in flight. -/
def migsOf (x : Ptn) : Nat := (x.tbls.map (fun t => t.2.migs.length)).foldl (· + ·) 0
/-- The lowest hot slot that is neither used nor the target of a migration (log 8). -/
def freeSlot (t : Tbl) : Option Nat :=
  let busy (s : Nat) : Bool := t.dir.any (fun d => d.2 == s) || t.migs.any (fun m => m.dest == some s)
  let cand := (List.range (t.dir.length + t.migs.length + 1)).find? (fun s => !busy s)
  match cand with
  | some s => if s < t.hotRows then some s else none
  | none => none
def startMig (p tn r : Nat) (dest : Option Nat) (n : Node) : Node :=
  let x := getP n p
  match mget x.tbls tn with
  | none => n
  | some t => modT p tn (fun y => { y with migs := y.migs ++ [{ row := r, dest := dest, copy := rowIssued x tn t r }] }) n
/-- The rule of R174 after an access to row r with its estimate. -/
def migrateRule (p tn r est : Nat) (n : Node) : Node :=
  let x := getP n p
  match mget x.tbls tn with
  | none => n
  | some t =>
    let hot := fld x.embCfg 24 4
    let moving (k : Nat) : Bool := t.migs.any (fun m => m.row == k)
    if t.hotRows = 0 || hot = 0 || decide (est < hot) || mhas t.dir r || moving r || decide (64 ≤ migsOf x) || t.drop.isSome || t.own.st == .releasing then n
    else match freeSlot t with
      | some s => startMig p tn r (some s) n
      | none =>
        let cold := (sortBy (fun a b => decide (t.est a < t.est b) || (t.est a == t.est b && decide (a ≤ b)))
          ((t.dir.map (·.1)).filter (fun k => !moving k))).head?
        match cold with
        | some k => if t.est k < est then startMig p tn k none n else n
        | none => n
/-- One access to row r (R169) under the admission rule `adm`: the filter, the Canopy and R174. Answers the line that serves a look-up. -/
def accessRow (p tn r : Nat) (adm : Bool) (n : Node) : Node × Option Line :=
  match getT n p tn with
  | none => (n, none)
  | some t =>
    let (t', est, l) := t.access adm r
    (migrateRule p tn r est (modT p tn (fun _ => t') n), l)
/-- ADMIT as it stands. -/
def admitOf (x : Ptn) : Bool := bit x.embCfg 0
/-- Element j of a row lies in a poisoned 64-bit word. -/
def lostAt (t : Tbl) (r j : Nat) : Bool := t.poison.contains (r, j) || t.poison.contains (r, if j % 2 = 0 then j + 1 else j - 1)
/-- One look-up of a distinct row by a thread: what it reads, and whether it met poison. It takes the prefetch copy (`pre`), the Canopy line, or the row where it lies; the copy
taken changes no value (R170). Each poisoned word that it meets is recorded (R190). -/
def lookRow (clk : Clock) (p tn : Nat) (tok : Option Tok) (thread : Nat) (pre : List Nat) (r : Nat) (n : Node) : Node × List W32 × Bool :=
  match getT n p tn with
  | none => (n, [], false)
  | some t =>
    let (n1, l) := accessRow p tn r (admitOf (getP n p)) n
    let n2 := if pre.contains r then count p .prefetchHits 1 n1 else n1
    let n3 := if t.lineCap = 0 then n2 else count p (if l.isSome && !pre.contains r then .canopyHits else .canopyMisses) 1 n2
    match l, pre.contains r with
    | some l, false => (if l.bad then metLocs clk p 0 thread tok (rowWords p tn t r) (count p .embPoison 1 n3) else n3, rowIssued (getP n p) tn t r, l.bad)
    | _, true => (n3, rowSeen (getP n p) tn t r, false)
    | none, false =>
      let n4 := readWords clk p tok thread (rowWords p tn t r) (isRow p tn r) (heatRow p tn r false n3)
      let t' := (getT n4 p tn).getD t
      let bad := rowPoisoned t' r
      (if bad then count p .embPoison 1 (modT p tn (fun y => { y with lines := modAll (fun l => l.row == r) (fun l => { l with bad := true }) y.lines }) n4) else n4,
       rowSeen (getP n4 p) tn t' r, bad)
/-- Look-ups of several rows in ascending order. -/
def lookRows (clk : Clock) (p tn : Nat) (tok : Option Tok) (thread : Nat) (pre rs : List Nat) (n : Node) : Node × List (Nat × List W32) × List Nat :=
  rs.foldl (fun a r =>
    let (n, v, bad) := lookRow clk p tn tok thread pre r a.1
    (n, a.2.1 ++ [(r, v)], if bad then a.2.2 ++ [r] else a.2.2)) (n, [], [])
/-- The pooling of bags 0 to k - 1 (R163, R165): the outputs, and for each bag whether it met poison. -/
def poolBags (clk : Clock) (p tn : Nat) (tok : Option Tok) (thread : Nat) (pre : List Nat) (ts : List Tri) (k : Nat) (n : Node) : Node × List (List W32 × Bool) :=
  match getT n p tn with
  | none => (n, [])
  | some t =>
    let ms := marked ts
    let (n, rows, bad) := lookRows clk p tn tok thread pre (distinctIdx ms) n
    let n := count p .poolIndices ts.length (count p .poolFetches rows.length n)
    (n, (List.range k).map (fun b =>
      if ms.any (fun m => m.2.1 == b && bad.contains m.1) then (List.replicate t.width qnan, true)
      else (poolOut t.width rows ms b, false)))

/-- State of a table that a command reads: the status that refuses it. -/
def tblRefuses (t : Option Tbl) : Option Nat := match t with
  | none => some stTableUnavail
  | some t => if t.st == .frozen || t.own.st == .frozen then some stFrozen else if t.drop.isSome || t.st == .draining then some stTableUnavail else none

end Sys2Proof.Machine
end

