-- ==== Sys2Proof/Machine/Query.lean ====
section
/-! DEFINITION. Queries on one node: parameters (Table 4-2), preparation (R70), ROUTE (R71), the batching scheduler and passes
(R73 to R84), WIDEN (R86) and PRESS (R79). -/

namespace Sys2Proof.Machine

def getY (n : Node) (p i : Nat) : Option Query := mget (getP n p).queries i
def modY (p i : Nat) (g : Query → Query) (n : Node) : Node := modP p (fun x => { x with queries := mmod x.queries i g }) n
def modYs (p i : Nat) (g : Stats → Stats) (n : Node) : Node := modY p i (fun y => { y with stats := g y.stats }) n

/-! ### Parameters -/

/-- Table 4-2 as the bytes give it. -/
def sparamsOf (bs : List Byte) : SParams :=
  { coll := leAt bs 0x00 2, graph := leAt bs 0x02 1, qform := leAt bs 0x03 1, k := leAt bs 0x04 4, nprobe := leAt bs 0x08 2
    beam := leAt bs 0x0A 2, budget := leAt bs 0x0C 4, widenLists := leAt bs 0x10 2, flags := leAt bs 0x12 2, maxwait := leAt bs 0x14 2
    fAll := BitVec.ofNat 64 (leAt bs 0x18 8), fAny := BitVec.ofNat 64 (leAt bs 0x20 8), fNone := BitVec.ofNat 64 (leAt bs 0x28 8)
    tagVal := BitVec.ofNat 16 (leAt bs 0x30 2), tagMask := BitVec.ofNat 16 (leAt bs 0x32 2), qlen := leAt bs 0x34 4
    qaddr := leAt bs 0x38 8, raddr := leAt bs 0x40 8, saddr := leAt bs 0x48 8
    collective := BitVec.ofNat 64 (leAt bs 0x50 8), dupTag := BitVec.ofNat 64 (leAt bs 0x58 8) }
def SParams.widen (s : SParams) : Bool := s.flags.testBit 0
def SParams.wantStats (s : SParams) : Bool := s.flags.testBit 1
def SParams.laneOnly (s : SParams) : Bool := s.flags.testBit 2
/-- A query has a filter (R69). -/
def SParams.filter (s : SParams) : Bool := s.fAll != 0 || s.fAny != 0 || s.fNone != 0 || s.tagMask != 0
/-- Stage defaults in place of zeros (Table 4-4). -/
def withDefaults (g : Graph) (s : SParams) : SParams :=
  let d (v k off len dflt) : Nat := if v = 0 then stagePar g k off len dflt else v
  { s with k := d s.k .select 0 4 10, nprobe := d s.nprobe .route 0 2 32, beam := d s.beam .route 2 2 64
           budget := d s.budget .press 0 4 2048, widenLists := d s.widenLists .route 8 2 8 }
/-- R69, R128 and R139 on the block of a command or of a fan-out. `member` leaves out the fields that a member does not check (R370).
Answers the offset of an invalid field. -/
def paramsBad (x : Ptn) (d : Option CollDesc) (member : Bool) (s : SParams) : Option Nat :=
  match graphOf x s.graph with
  | none => some 0x02
  | some g =>
    let ham := match d with
      | some d => d.metric == 3
      | none => false
    let noGroup := s.collective == 0 && g.stages.any (fun t => t.kind == .merge && t.crossing)
    if s.graph > 63 then some 0x02
    else if !member && (s.qform > 2 || (s.qform == 2) != ham || (s.qform == 1 && !hasStage g .encode)) then some 0x03
    else if s.k > 1048576 then some 0x04
    else if !member && hasStage g .score && (withDefaults g s).k > stagePar g .score 8 2 16 then some 0x04
    else if s.nprobe > 1024 then some 0x08
    else if s.beam > 2048 then some 0x0A
    else if s.budget ≠ 0 ∧ (s.budget < 64 ∨ 65536 < s.budget) then some 0x0C
    else if s.widenLists > 1024 then some 0x10
    else if s.flags ≥ 8 then some 0x12
    else if s.maxwait > 1000 ∧ s.maxwait ≠ 0xFFFF then some 0x14
    else if member then (if noGroup then some 0x50 else none)
    else if s.qform = 1 ∧ (s.qlen < 1 ∨ 512 < s.qlen) then some 0x34
    else if s.qform ≠ 1 ∧ s.qlen ≠ 0 then some 0x34
    else if s.qaddr % 64 ≠ 0 then some 0x38
    else if s.raddr % 64 ≠ 0 then some 0x40
    else if s.wantStats ∧ s.saddr % 64 ≠ 0 then some 0x48
    else if noGroup then some 0x50
    else none

/-! ### Visits (R81, R82) -/

/-- RINSE parameters of a query's graph. -/
def rinsePar (x : Ptn) (y : Query) (off len dflt : Nat) : Nat := match graphOf x y.par.graph with
  | some g => stagePar g .rinse off len dflt
  | none => dflt
def nbMax (x : Ptn) (y : Query) : Nat := rinsePar x y 2 1 16
def laneMax (x : Ptn) (y : Query) : Nat := rinsePar x y 4 1 128
def effGather (x : Ptn) (y : Query) : Nat := if fld x.qryCfg 0 16 = 0xFFFF then rinsePar x y 0 2 50 else fld x.qryCfg 0 16
def effLaneSw (x : Ptn) (y : Query) : Nat := if fld x.qryCfg 16 8 = 0 then rinsePar x y 3 1 32 else fld x.qryCfg 16 8
/-- A visit's window in CTL cycles (R81). -/
def windowOf (x : Ptn) (y : Query) : Nat :=
  300 * (if y.urgent then 0 else if y.par.maxwait = 0xFFFF then effGather x y else min (effGather x y) y.par.maxwait)
/-- `list_visit(v)` of R82. -/
def listVisit (clk : Clock) (p i l : Nat) (n : Node) : Node :=
  let x := getP n p
  match mget x.queries i with
  | none => n
  | some y =>
    let now := pctr clk p
    let v : Visit := { query := i, at_ := now, deadline := now + windowOf x y, urgent := y.urgent
                       laneOnly := y.par.laneOnly, laneSw := effLaneSw x y }
    let same (e : GEntry) : Bool := e.coll == y.coll && e.gen == y.gen && e.list == l && !e.overflow
    let fresh : GEntry := { coll := y.coll, gen := y.gen, list := l, members := [v] }
    let g := if x.gather.any same then modFirst same (fun e => { e with members := e.members ++ [v] }) x.gather
      else if 65536 ≤ (x.gather.filter (fun e => !e.overflow)).length then x.gather ++ [{ fresh with overflow := true }]
      else x.gather ++ [fresh]
    modY p i (fun y => { y with visits := y.visits + 1 }) (modP p (fun x => { x with gather := g }) n)
/-- Takes `k` further lists of the routing order. -/
def takeLists (clk : Clock) (p i k : Nat) (n : Node) : Node :=
  match getY n p i with
  | none => n
  | some y => modY p i (fun y => { y with taken := y.taken + ((y.order.drop y.taken).take k).length })
      (foldNode ((y.order.drop y.taken).take k) (listVisit clk p i) n)

/-! ### Preparation (R70) and ROUTE (R71) -/

def genOf (c : Coll) (gen : W64) : Option Gen :=
  match c.cur with
  | some g => if g.hdr.gen = gen then some g else c.retired.find? (fun g => g.hdr.gen == gen)
  | none => c.retired.find? (fun g => g.hdr.gen == gen)
/-- The prepared query: its code rows and sketch, counters of R109. -/
def prepQuery (p i : Nat) (d : CollDesc) (v : List W32) (n : Node) : Node :=
  let n4 := quantise v 7 (quantOf (getP n p)).rhoQuery .fp32
  let (n8, sk) := sketchRow d v
  count p .convValues v.length (count p .clipValues n4.clipped (count p .degenerate (b2n n4.degen + b2n n8.degen)
    (modY p i (fun y => { y with vec := v, nRow := n4, n8Row := n8, sketch := sk, phase := .route }) n)))
/-- The generation that a query pinned, and its collection. -/
def pinOf (n : Node) (p : Nat) (y : Query) : Option (Coll × Gen) := (getC n p y.coll).bind (fun c => (genOf c y.gen).map (fun g => (c, g)))
/-- What the walk of a query compares with. -/
def walkCfg (x : Ptn) (d : CollDesc) (y : Query) : WalkCfg :=
  let m := metricOf d.metric
  let par (off len dflt) : Nat := match graphOf x y.par.graph with
    | some g => stagePar g .route off len dflt
    | none => dflt
  { key := listKey m d.skw y.nRow.scale y.nRow.codes y.sketch, probe := fun l => decide (l.live > 0), larger := m.larger
    beam := max y.par.beam (max y.par.nprobe (if y.par.widen then y.par.nprobe + y.par.widenLists else 0))
    width := par 4 1 4, maxSt := par 6 2 256 }
/-- A context for a thread of a query (R87). -/
def queryCtx (clk : Clock) (p i kind st : Nat) (k : StageKind) (y : Query) (n : Node) : Ctx :=
  { threadCtx clk p kind st y.tok n with
    stage := ((graphOf (getP n p) y.par.graph).map (stageIdx · k)).getD 0, graph := y.par.graph, parent := if kind = 1 then noCtx else y.ctx
    query := i, coll := 256 * p + y.coll, gen := y.gen }
/-- The query has its context, or gets one now; none while it waits (R88). -/
def queryThread (clk : Clock) (p i : Nat) (n : Node) : Option Node := match getY n p i with
  | none => none
  | some y => if y.ctx ≠ noCtx then some n
    else (takeCtx p (queryCtx clk p i 1 3 .route y n) n).map (fun c => modY p i (fun y => { y with ctx := c.1 }) c.2)
/-- The ROUTE threads of the query's round have contexts, or get them now. -/
def routeThread (clk : Clock) (p i : Nat) (n : Node) : Option Node := match getY n p i with
  | none => none
  | some y => if (getP n p).ctxs.any (fun c => c.2.kind == 3 && c.2.parent == y.ctx) then some n
    else (takeCtx p { queryCtx clk p i 3 2 .route y n with count := max 1 y.walk.round.length } n).map (·.2)
/-- The next expansion of a query's walk, with what it works on. -/
def nextWalk (n : Node) (p i : Nat) : Option (Query × Coll × Gen × Walk) :=
  (getY n p i).bind (fun y => (pinOf n p y).map (fun c => (y, c.1, c.2, expandOne (walkCfg (getP n p) c.1.desc y) c.2 y.walk)))
/-- Routing-graph nodes that the next expansion reads. -/
def routeLocs (p i : Nat) (n : Node) : List MemLoc := match nextWalk n p i with
  | some (y, _, g, w) => (w.seen.drop y.walk.seen.length).map (fun l => .shard p y.coll g.hdr.gen (.node l))
  | none => []
/-- A walk one expansion further: statistics, NaN keys, heat, and at its end the visits to its first `NPROBE` lists. -/
def walked (clk : Clock) (p i : Nat) (n : Node) : Node := match nextWalk n p i with
  | none => n
  | some (y, c, g, w) =>
    let n := heatNodes p y.coll c.desc g (w.seen.drop y.walk.seen.length) n
    let n := stepCtx clk p y.ctx 5 (count p .badScale (w.bad - y.walk.bad) (modY p i (fun y => { y with
      walk := w, stats := { y.stats with routeSteps := w.steps, skippedEdges := w.skipped, centroids := w.scored, routeCapped := w.capped } }) (delKids p y.ctx 3 n)))
    if !w.done then (routeThread clk p i n).getD n
    else takeLists clk p i y.par.nprobe (modY p i (fun y => { y with order := w.result.map (·.2), phase := .rinse }) n)
/-- `ROUTE_EXPANSION`: one ROUTE thread reads the nodes it scores, once it has a context. -/
def routeExpansion (p i : Nat) (clk : Clock) (_host : Mem) (n : Node) : Node :=
  match getY n p i with
  | none => n
  | some y =>
    if y.phase != .route || (getP n p).st == .resetting || (pinOf n p y).isNone then n
    else match (queryThread clk p i n).bind (routeThread clk p i) with
      | none => n
      | some m => walked clk p i (readAll clk p 0 y.tok (((getY m p i).map (·.ctx)).getD noCtx) (routeLocs p i) (routeLocs p i) m)
def execRouteExpansion (e : Env) (p qy : Nat) (s : State) : Host.Outcome State Fault Refusal := run e (routeExpansion p qy) s

/-! ### Passes (R75 to R78, R82) -/

/-- Bank of entry index i of a list. -/
def bankOf (x : Ptn) (l : Nat) (y : GList) (i : Nat) : Nat × Nat :=
  if i < y.body.length then groupAt x l y (i / 64) else chunkAt x (y.chunks.getD ((i - y.body.length) / 64) 0)
/-- Banks that hold a rinse block or a Sapling chunk of the list. -/
def banksOf (x : Ptn) (l : Nat) (y : GList) : List (Nat × Nat) :=
  (((List.range (cdiv y.body.length 64)).map (groupAt x l y)) ++ y.chunks.map (chunkAt x)).foldl
    (fun acc b => if acc.contains b then acc else acc ++ [b]) []
/-- The survivor budget `b` of a query (R78). -/
def budgetB (x : Ptn) (y : Query) : Nat :=
  min (rinsePar x y 6 2 256) (max y.par.k (cdiv y.par.budget (max 1 y.par.nprobe)))
/-- The members' queries of an entry. -/
def memberQ (x : Ptn) (v : Visit) : Query := (mget x.queries v.query).getD {}
def leadOf (x : Ptn) (e : GEntry) : Query := match e.members with
  | v :: _ => memberQ x v
  | [] => {}
/-- The list that an entry's key names. -/
def entryList (n : Node) (p : Nat) (e : GEntry) : Option GList :=
  ((getC n p e.coll).bind (fun c => genOf c e.gen)).bind (fun g => glOf g e.list)
/-- Channels an entry's near-bank pass would hold. -/
def entryChans (n : Node) (p : Nat) (e : GEntry) : List Nat := match entryList n p e with
  | some y => nubNat ((banksOf (getP n p) e.list y).map (·.1))
  | none => []
/-- A channel is in Darner back-off (R199): so is every channel of a stack whose budget is below 100 %, and near 100 °C no new near-bank pass may launch (Table 9-10). -/
def backedOff (n : Node) (c : Nat) : Bool :=
  let ch := vget n.mem.chans c
  ch.thermal || ch.satur || decide ((vget n.mem.stks (c / 16)).budget < 1600)
/-- `near_ok(e)` (R76). -/
def nearOk (n : Node) (p : Nat) (e : GEntry) : Bool :=
  let x := getP n p
  match entryList n p e with
  | none => false
  | some y =>
    let banks := banksOf x e.list y
    banks.all (fun b => !backedOff n b.1) &&
      e.members.all (fun v => decide (budgetB x (memberQ x v) ≤ 8 * banks.length))
/-- Ready in this cycle (R82, R83). -/
def readyEntry (now : Nat) (n : Node) (p : Nat) (e : GEntry) : Bool :=
  let x := getP n p
  e.overflow ||
  (!(x.passes.any (fun a => !a.2.ended && a.2.coll == e.coll && a.2.gen == e.gen && a.2.list == e.list)) &&
    (decide ((if nearOk n p e then nbMax x (leadOf x e) else laneMax x (leadOf x e)) ≤ e.members.length) ||
      e.due || e.members.any (fun v => decide (v.deadline ≤ now))))
/-- Ready order: Urgent first, then earliest arrival, then lower list number. Entries equal in all three, of different collections or generations, keep the order in which they entered the
gather table (DESIGN CHOICE, log 155: R82 gives none). -/
def readyBefore (a b : GEntry) : Bool :=
  let u (e : GEntry) : Bool := e.members.any (·.urgent)
  let t (e : GEntry) : Nat := e.members.foldl (fun m v => min m v.at_) (match e.members with
    | v :: _ => v.at_
    | [] => 0)
  if u a != u b then u a else if t a ≠ t b then decide (t a < t b) else decide (a.list < b.list)
/-- NEAR or LANE for an entry, with the members that launch. -/
def modeOf (n : Node) (p : Nat) (e : GEntry) : Bool × Nat :=
  let x := getP n p
  let lead := leadOf x e
  let sw := max (match e.members with
    | v :: _ => v.laneSw
    | [] => 0) (nbMax x lead)
  if nearOk n p e && decide (e.members.length ≤ sw) && e.members.all (fun v => !v.laneOnly) then (true, nbMax x lead)
  else (false, laneMax x lead)
/-- A core of the partition that holds no on-lane pass. -/
def coreFree (x : Ptn) (core : Nat) : Bool := decide (core < 64) && x.ent.cores.getLsbD core && !(x.passes.any (fun a => !a.2.near && !a.2.ended && a.2.core == core))
/-- Capacity of R82: fewer than 4 near-bank passes on each channel, or a free core. -/
def hasRoom (n : Node) (p : Nat) (e : GEntry) : Bool :=
  let x := getP n p
  if (modeOf n p e).1 then
    (entryChans n p e).all (fun c => decide ((x.passes.filter (fun a => a.2.near && !a.2.ended && a.2.chans.contains c)).length < 4))
  else (List.range 64).any (coreFree x)
/-- The scheduler runs, also while commands drain before a live load (R37). -/
def schedules (x : Ptn) : Bool := x.st == .inService || x.st == .loading
/-- `GATHER_DEADLINE`: entries whose earliest deadline has come are due. -/
def gatherDeadline (p : Nat) (clk : Clock) (_host : Mem) (n : Node) : Node :=
  modP p (fun x => { x with gather := modAll (fun e => e.members.any (fun v => decide (v.deadline ≤ pctr clk p))) (fun e => { e with due := true }) x.gather }) n
def execGatherDeadline (e : Env) (p : Nat) (s : State) : Host.Outcome State Fault Refusal := run e (gatherDeadline p) s
/-- An entry without the members that a launch takes. -/
def leaveGather (p k : Nat) (e : GEntry) (n : Node) : Node :=
  let rest := { e with members := e.members.drop k, due := false }
  modP p (fun x => { x with gather := if rest.members.isEmpty then x.gather.erase e else modFirst (· == e) (fun _ => rest) x.gather }) n
/-- The contexts of a pass: its Sapling scan, and its rinse blocks, which name the oldest member's command (R87). -/
def passCtxs (clk : Clock) (p core blocks : Nat) (near : Bool) (e : GEntry) (n : Node) : Nat × Nat × Node :=
  let x := getP n p
  let y := leadOf x e
  let c : Ctx := { queryCtx clk p x.nextPass 5 3 .rinse y n with gen := e.gen, list := e.list, core := if near then 0xFFFF else core }
  let (ci, n) := (takeCtx p c n).getD (noCtx, n)
  let (bi, n) := (if blocks = 0 then none else takeCtx p { c with kind := 4, count := blocks } n).getD (noCtx, n)
  (ci, bi, n)
/-- `PASS_LAUNCH`: the first ready entry with capacity launches, its oldest members first. An on-lane pass takes `core`, where that core is free (log 8). -/
def passLaunch (p core : Nat) (clk : Clock) (_host : Mem) (n : Node) : Node :=
  let now := pctr clk p
  let x := getP n p
  let ready := sortBy readyBefore (x.gather.filter (readyEntry now n p))
  match (if schedules x then ready.find? (hasRoom n p) else none) with
  | none => n
  | some e =>
    let (near, k) := modeOf n p e
    if !near && !coreFree x core then n
    else
      let go := e.members.take k
      let y := (entryList n p e).getD {}
      let (ci, bi, n1) := passCtxs clk p core (cdiv y.body.length 256) near e (leaveGather p k e n)
      let pass : Pass := { coll := e.coll, gen := e.gen, list := e.list, near := near, core := core, ctx := ci, bctx := bi
                           members := go.map (fun v => { query := v.query, b := budgetB x (memberQ x v) })
                           chans := if near then entryChans n p e else []
                           sapCnt := y.sap.length, skip := rinsePar x (leadOf x e) 5 1 1 == 1 }
      let n2 := modP p (fun x => { x with passes := mset x.passes x.nextPass pass, nextPass := x.nextPass + 1 }) n1
      let stat (v : Visit) (n : Node) : Node := modYs p v.query (fun s => { s with
        listsProbed := s.listsProbed + 1, maxBatch := max s.maxBatch go.length, gatherMax := max s.gatherMax (now - v.at_)
        nearUsed := s.nearUsed || near, laneUsed := s.laneUsed || !near }) n
      count p .visits go.length (count p (if near then .nbPasses else .lanePasses) 1 (foldNode go stat n2))
def execPassLaunch (e : Env) (p core : Nat) (s : State) : Host.Outcome State Fault Refusal := run e (passLaunch p core) s

/-- An entry passes a query's filter (R73). -/
def passes (s : SParams) (e : Ent) : Bool :=
  !e.dead && (e.attr &&& s.fAll) == s.fAll && (s.fAny == 0 || (e.attr &&& s.fAny) != 0) && (e.attr &&& s.fNone) == 0 &&
    ((e.tag ^^^ s.tagVal) &&& s.tagMask) == 0
/-- The OR of `ATTR` over a rinse block (R46). -/
def blockAttr (y : GList) (b : Nat) : W64 := ((y.body.drop (256 * b)).take 256).foldl (fun a e => a ||| e.attr) 0
/-- A summary shows that the block holds no match (R74). -/
def skipsBlock (y : GList) (s : SParams) (b : Nat) : Bool :=
  let o := blockAttr y b
  (o &&& s.fAll) != s.fAll || (s.fAny != 0 && (o &&& s.fAny) == 0)
/-- Distance order of survivors: Hamming distance, then entry index. -/
def survLt (a b : Nat × Nat) : Bool := decide (a.1 < b.1) || (a.1 == b.1 && decide (a.2 < b.2))
def bestOf (k : Nat) (l : List (Nat × Nat)) : List (Nat × Nat) := (sortBy survLt l).take k
/-- Near-bank choice: best 8 per bank, merged along each channel's chain to at most min(`b`, 256), then to `b` (R76, R193). -/
def nearBest (x : Ptn) (l : Nat) (y : GList) (b : Nat) (ms : List (Nat × Nat)) : List (Nat × Nat) :=
  let banks := banksOf x l y
  let chans := nubNat (banks.map (·.1))
  let chain (c : Nat) : List (Nat × Nat) :=
    (List.range 32).foldl (fun acc pos => bestOf (min b 256) (acc ++ bestOf 8 (ms.filter (fun m => bankOf x l y m.2 == (c, pos))))) []
  bestOf b (chans.map chain).flatten
/-- What RINSE of one pass gives one member: survivors and what its statistics gain. PRESS meets what is unreadable in a Sapling record (R63); under HAMMING, where PRESS reads none, RINSE
drops the entry and counts it in the same way (DESIGN CHOICE, log 148). -/
def rinseMember (x : Ptn) (d : CollDesc) (fmt : Nat) (skip : Bool) (a : Pass) (y : GList) (q : Query) (b : Nat) :
    List (Nat × Nat) × (Stats → Stats) :=
  let blocks := List.range (cdiv y.body.length 256)
  let skipped := if skip && fmt == 4 && q.par.filter then blocks.filter (skipsBlock y q.par) else []
  let rest := blocks.filter (fun k => !skipped.contains k)
  let bad := rest.filter y.badBlocks.contains
  let good := rest.filter (fun k => !y.badBlocks.contains k)
  let body := (List.range y.body.length).filter (fun i => good.contains (i / 256))
  let saps := ((List.range (min a.sapCnt y.sap.length)).map (· + y.body.length)).filter (fun i => (entAt y i).isSome)
  let lost := if d.metric = 3 then saps.filter y.badRows.contains else []
  let idx := body ++ saps.filter (fun i => !lost.contains i)
  let ms := idx.filterMap (fun i => (entAt y i).bind (fun e => if passes q.par e then some (hamming (skBits d.skw) q.sketch e.sketch, i) else none))
  (if a.near then nearBest x a.list y b ms else bestOf b ms,
   fun s => { s with blocksRinsed := s.blocksRinsed + good.length, blocksSummary := s.blocksSummary + skipped.length
                     skippedBlocks := s.skippedBlocks + bad.length, compared := s.compared + idx.length, matches_ := s.matches_ + ms.length
                     skippedEntries := s.skippedEntries + lost.length })
/-- Blocks that some member of a pass does not skip (R74). -/
def readBlocks (fmt : Nat) (skip : Bool) (y : GList) (qs : List Query) : List Nat :=
  (List.range (cdiv y.body.length 256)).filter (fun b => qs.any (fun q => !(skip && fmt == 4 && q.par.filter && skipsBlock y q.par b)))
/-- Rows of 2 KiB that hold the first 32 + S/8 bytes of the first `k` records of a Sapling chunk. -/
def chunkRows (d : CollDesc) (k : Nat) : Nat :=
  (nubNat ((List.range k).map (fun i => [(64 + i * sapSize d) / 2048, (64 + i * sapSize d + 31 + skBits d.skw / 8) / 2048])).flatten).length
/-- Darner activates of a near-bank pass: the sketch rows of the groups of each block that some member rinses, and the rows of its Sapling chunks (R192, log 45). -/
def passActs (d : CollDesc) (fmt : Nat) (skip : Bool) (y : GList) (qs : List Query) (saps : Nat) : Nat :=
  sumNat ((readBlocks fmt skip y qs).map (fun b => cdiv (min 256 (y.body.length - 256 * b)) 64 * cdiv (8 * skBits d.skw) 2048)) +
    sumNat ((List.range (cdiv saps 64)).map (fun c => chunkRows d (min 64 (saps - 64 * c))))
/-- Cuts a union of survivors into press blocks of at most 128 rows. -/
def cutBlocks : Nat → Nat → List Nat → List (Nat × List Nat)
  | 0, _, _ => []
  | k + 1, i, l => if l.isEmpty then [] else (i, l.take 128) :: cutBlocks k (i + 1) (l.drop 128)
/-- WIDEN (R86): with RINSE of all probed lists over and too few matches, eight further lists. -/
def widenQ (clk : Clock) (p i : Nat) (n : Node) : Node :=
  match getY n p i with
  | none => n
  | some y =>
    let added := y.taken - min y.par.nprobe y.order.length
    if y.visits = 0 && y.par.widen && decide (y.stats.matches_ < y.par.k) && decide (added < y.par.widenLists) && decide (y.taken < y.order.length) then
      let k := min 8 (y.par.widenLists - added)
      modYs p i (fun s => { s with listsWidened := s.listsWidened + ((y.order.drop y.taken).take k).length }) (takeLists clk p i k n)
    else n
/-- The list that a pass reads, its collection and the level of its generation. -/
def passList (n : Node) (p : Nat) (a : Pass) : Option (Coll × Nat × GList) :=
  (getC n p a.coll).bind (fun c => (genOf c a.gen).bind (fun g => (glOf g a.list).map (fun y => (c, g.hdr.fmt, y))))
def passQs (x : Ptn) (a : Pass) : List Query := a.members.filterMap (fun m => mget x.queries m.query)
/-- Rinse blocks that a pass reads. -/
def blockLocs (p : Nat) (a : Pass) (n : Node) : List MemLoc := match passList n p a with
  | some (_, fmt, y) => (readBlocks fmt a.skip y (passQs (getP n p) a)).map (fun b => .shard p a.coll a.gen (.block a.list b))
  | none => []
/-- Sapling records that a pass scans. -/
def sapLocs (p : Nat) (a : Pass) (n : Node) : List MemLoc := match passList n p a with
  | some (_, _, y) => (List.range (min a.sapCnt y.sap.length)).map (fun i => .shard p a.coll a.gen (.sap a.list i))
  | none => []
/-- The oldest member's command, which a pass names (R87). -/
def passTok (x : Ptn) (a : Pass) : Option Tok := (passQs x a).head?.bind (·.tok)
/-- A pass leaves, with its contexts. -/
def dropPass (p i : Nat) (a : Pass) (n : Node) : Node := delCtx p a.bctx (delCtx p a.ctx (modP p (fun x => { x with passes := mdel x.passes i }) n))
/-- What the reads of a pass meet: its rinse blocks, and its Sapling records, whose poison RINSE meets under HAMMING only. -/
def passReads (clk : Clock) (p : Nat) (a : Pass) (ham : Bool) (n : Node) : Node :=
  let dop := if a.near then 2 else 0
  let t := passTok (getP n p) a
  readAll clk p dop t a.ctx (sapLocs p a) (fun n => if ham then sapLocs p a n else []) (readAll clk p dop t a.bctx (blockLocs p a) (blockLocs p a) n)
/-- The press blocks of a pass take the place of its rinse threads: one PRESS thread each (R79). -/
def pressThreads (clk : Clock) (p i : Nat) (a : Pass) (n : Node) : Node :=
  if a.blocks.isEmpty then dropPass p i a n
  else
    let old := mget (getP n p).ctxs a.ctx
    let n := delCtx p a.bctx (delCtx p a.ctx n)
    let c : Ctx := match old with
      | some c => { c with kind := 6, st := 4, count := a.blocks.length, core := 0xFFFF, since := pctr clk p, progress := (c.progress + 1) % 2 ^ 32 }
      | none => { threadCtx clk p 6 4 (passTok (getP n p) a) n with count := a.blocks.length, list := a.list, gen := a.gen, coll := 256 * p + a.coll, query := i }
    let (ci, n) := (takeCtx p c n).getD (noCtx, n)
    modP p (fun x => { x with passes := mset x.passes i { a with ctx := ci, bctx := noCtx } }) n
/-- `PASS_END`: each member's survivors, their union cut into press blocks; matches and skips counted; WIDEN (R75 to R79, R86). -/
def passEnd (p i : Nat) (clk : Clock) (_host : Mem) (n : Node) : Node :=
  match mget (getP n p).passes i with
  | none => n
  | some a =>
    if a.ended then n
    else match passList n p a with
      | none => dropPass p i a n
      | some (c, _, _) =>
        let n := passReads clk p a (c.desc.metric == 3) n
        let x := getP n p
        match passList n p a with
        | none => dropPass p i a n
        | some (c, fmt, y) =>
          let res := a.members.filterMap (fun m => (mget x.queries m.query).map (fun q => (m, rinseMember x c.desc fmt a.skip a y q m.b)))
          let union := sortBy (fun a b => decide (a < b)) (nubNat ((res.map (fun r => r.2.1.map (·.2))).flatten))
          let a' := { a with ended := true, members := res.map (fun r => { r.1 with surv := r.2.1 }), blocks := cutBlocks (union.length / 128 + 1) 0 union }
          let n := if a.near then count p .drnActs (passActs c.desc fmt a.skip y (passQs x a) (min a.sapCnt y.sap.length)) n else n
          foldNode res (fun r n => widenQ clk p r.1.query
            (modY p r.1.query (fun q => { q with visits := q.visits - 1, stats := r.2.2 q.stats }) n)) (pressThreads clk p i a' n)
def execPassEnd (e : Env) (p pass : Nat) (s : State) : Host.Outcome State Fault Refusal := run e (passEnd p pass) s

/-! ### PRESS (R79, R105, R106, R110) -/

/-- A unit runs in N8: forced, or the clip test fails (R105). -/
def runsN8 (y : Query) : Bool := y.forceN8 || clipFails y.nRow.clipped y.thr y.vec.length
/-- A key of PRESS for an entry (Table 5-10). -/
def pressKey (d : CollDesc) (y : Query) (e : Ent) : W32 := match metricOf d.metric with
  | .hamming => hamKey (hamming (skBits d.skw) y.sketch e.sketch)
  | m => let r := if runsN8 y then y.n8Row else y.nRow
         dequant m r.scale r.codes e.scale e.codes
/-- The tag rows that a query's entries need are looked up, each one once (R169): an element in a poisoned word reads as all ones, a NaN (DESIGN CHOICE, log 149). -/
def lookTags (clk : Clock) (p i thread : Nat) (tags : List Nat) (n : Node) : Node :=
  match getY n p i with
  | none => n
  | some y => match graphOf (getP n p) y.par.graph with
    | none => n
    | some g =>
      let tn := stagePar g .pool 1 1 0
      match (if hasStage g .pool then getT n p tn else none) with
      | none => n
      | some t =>
        let rs := (sortBy (fun a b => decide (a < b)) (nubNat tags)).filter (fun r => decide (r < t.rows) && !mhas y.tags r)
        foldNode rs (fun r n =>
          let (n, v, bad) := lookRow clk p tn y.tok thread [] r n
          let v := if bad then v.mapIdx (fun j w => if (getT n p tn).any (lostAt · r j) then 0xFFFFFFFF else w) else v
          modY p i (fun y => { y with tags := y.tags ++ [(r, v)] }) n) n
/-- The hybrid term of R166, from the tag rows looked up; a `TAG` not below `ROWS` has none. -/
def hybridKey (x : Ptn) (y : Query) (e : Ent) (key : W32) : W32 :=
  match graphOf x y.par.graph with
  | none => key
  | some g =>
    if !hasStage g .pool then key
    else
      let d := match mget y.tags e.tag.toNat with
        | some row => (List.zipWith (fun a b => (a, b)) y.pooled row).foldl (fun acc ab => fma32 ab.1 ab.2 acc) 0
        | none => 0
      fma32 (BitVec.ofNat 32 (stagePar g .pool 4 4 0x3F800000)) d key
/-- The order word of Table 6-1. -/
def orderWord (rank ptn core lseq eidx : Nat) : Nat :=
  rank % 4096 * 2 ^ 47 + ptn % 8 * 2 ^ 44 + core % 256 * 2 ^ 36 + lseq % 2048 * 2 ^ 25 + eidx % 2 ^ 25
/-- One member's share of a press block: candidates emitted and counts. -/
def pressMember (clk : Clock) (p core : Nat) (c : Coll) (a : Pass) (y : GList) (blk : List Nat) (m : Member) (n : Node) : Node :=
  match getY n p m.query with
  | none => n
  | some q =>
    let mine := blk.filter (fun i => m.surv.any (fun s => s.2 == i))
    if mine.isEmpty then n
    else
      let d := c.desc
      let ham := d.metric == 3
      let bad := if ham then [] else mine.filter y.badRows.contains
      let ents := (mine.filter (fun i => ham || !y.badRows.contains i)).filterMap (fun i => (entAt y i).bind (fun e => if e.dead then none else some (i, e)))
      let lseq := (q.order.takeWhile (· != a.list)).length
      let n8 := runsN8 q
      let n := lookTags clk p m.query a.ctx (ents.map (fun ie => ie.2.tag.toNat)) n
      let q := (getY n p m.query).getD q
      let fl (e : Ent) : Nat := b2n e.sap + 2 * b2n (n8 && !ham) + 16 * b2n q.hedged
      let cands := ents.map (fun ie => { key := hybridKey (getP n p) q ie.2 (pressKey d q ie.2), order := orderWord q.rank p core lseq ie.1
                                         id := ie.2.id, origin := 16 * q.rank + p, flags := fl ie.2 : Cand })
      let n := modY p m.query (fun q => { q with
        cands := q.cands ++ cands
        stats := { q.stats with pressed := q.stats.pressed + ents.length, skippedEntries := q.stats.skippedEntries + bad.length
                                n8Reruns := q.stats.n8Reruns + b2n (n8 && !q.forceN8 && !ham) } }) n
      if ham then n
      else count p .pressUnits 1 (count p .pressN8 (b2n (n8 && !q.forceN8)) (count p .forcedN8 (b2n q.forceN8)
        (count p .badScale ((ents.filter (fun ie => badScale ie.2.scale)).length) n)))
/-- Code rows and Sapling records that a press block fetches; none under HAMMING. -/
def rowLocs (p : Nat) (a : Pass) (rows : List Nat) (n : Node) : List MemLoc := match passList n p a with
  | some (c, _, y) => if c.desc.metric = 3 then [] else
      rows.map (fun i => .shard p a.coll a.gen (if i < y.body.length then .row a.list i else .sap a.list (i - y.body.length)))
  | none => []
/-- The code rows and scales of a press block raise the heat of their pages (R182). -/
def heatCodes (p : Nat) (a : Pass) (rows : List Nat) (n : Node) : Node :=
  match (getC n p a.coll).bind (fun c => (genOf c a.gen).bind (fun g => (glOf g a.list).bind (fun y => (listAt c.desc g a.list).map (fun at_ => (c.desc, y, at_))))) with
  | some (d, y, at_) =>
    let u : ObjUse := .gen a.coll a.gen .codes
    foldNode (rows.filter (fun i => decide (i < y.body.length))) (fun i n => heatUse p u (at_.scale + 2 * i) 2 false (heatUse p u (at_.code + i * codeLen d) (codeLen d) false n)) n
  | none => n
/-- The PRESS threads of a pass have contexts, or get them now (R88). -/
def pressThread (clk : Clock) (p i : Nat) (a : Pass) (n : Node) : Option (Pass × Node) :=
  if a.ctx ≠ noCtx then some (a, n)
  else (takeCtx p { threadCtx clk p 6 4 (passTok (getP n p) a) n with count := a.blocks.length, list := a.list, gen := a.gen, coll := 256 * p + a.coll, query := i } n).map
    (fun c => ({ a with ctx := c.1 }, modP p (fun x => { x with passes := mmod x.passes i (fun a => { a with ctx := c.1 }) }) c.2))
/-- One press block of a pass has run: its thread ends, and the pass with its last one. -/
def endPress (clk : Clock) (p i blk : Nat) (a : Pass) (n : Node) : Node :=
  let left := mdel a.blocks blk
  if left.isEmpty then dropPass p i a n
  else stepCtx clk p a.ctx 4 (modP p (fun x => { x with
    passes := mmod x.passes i (fun a => { a with blocks := left }), ctxs := mmod x.ctxs a.ctx (fun c => { c with count := min c.count left.length }) }) n)
/-- `PRESS_UNIT`: one press block runs on `core` for every member with a survivor in it. The members' queries are then at work on that core (log 152). -/
def pressUnit (p i blk core : Nat) (clk : Clock) (_host : Mem) (n : Node) : Node :=
  let x := getP n p
  match (mget x.passes i).bind (fun a => (pressThread clk p i a n).bind (fun an => (mget a.blocks blk).map (fun rows => (an.1, rows, an.2)))) with
  | none => n
  | some (a, rows, m) =>
    if !(decide (core < 64) && x.ent.cores.getLsbD core) || (passList n p a).isNone then n
    else
      let m := readAll clk p 0 (passTok x a) a.ctx (rowLocs p a rows) (rowLocs p a rows) m
      match passList m p a with
      | none => n
      | some (c, _, y) =>
        let at_ (n : Node) : Node := modP p (fun x => { x with ctxs := x.ctxs.map (fun k => if (passQs x a).any (fun q => q.ctx == k.1) then (k.1, { k.2 with core := core }) else k) }) n
        endPress clk p i blk a (at_ (foldNode a.members (pressMember clk p core c a y rows) (if c.desc.metric = 3 then m else heatCodes p a rows m)))
def execPressUnit (e : Env) (p pass blk core : Nat) (s : State) : Host.Outcome State Fault Refusal := run e (pressUnit p pass blk core) s

/-- Every PRESS of the query has ended (R67). -/
def pressOver (x : Ptn) (i : Nat) (y : Query) : Bool :=
  y.phase == .rinse && y.visits == 0 &&
    !(x.passes.any (fun a => a.2.blocks.any (fun b => b.2.any (fun r => a.2.members.any (fun m => m.query == i && m.surv.any (fun s => s.2 == r))))))

end Sys2Proof.Machine
end

