-- ==== Sys2Proof/Machine/Merge.lean ====
section
/-! DEFINITION. `SEARCH` and `AUDIT` from fetch (R67, R69, R70, R92), selection and its results (R117 to R126), and the MERGE
collective: fan-out, merge steps, closure and hedged copies (R127 to R136). -/

namespace Sys2Proof.Machine

/-! ### Selection (R121 to R125) -/

/-- Best first (R117). -/
def candSort (larger : Bool) (l : List Cand) : List Cand := sortBy (fun a b => better larger a.key a.order b.key b.order) l
/-- Of equal IDs the first stays (R124): the candidates kept and the number removed. Input best first. -/
def dedup (l : List Cand) : List Cand × Nat :=
  let k := l.foldl (fun acc c => if acc.any (fun d => d.id == c.id) then acc else acc ++ [c]) []
  (k, l.length - k.length)
def accOf (l : List Cand) : Acc := l.foldl (fun a c => a.add c.key) {}
/-- Equal keys, as numbers. Neither is NaN. -/
def sameKey (a b : W32) : Bool := !isNaN32 a && !isNaN32 b && decide (ordKey a = ordKey b)
/-- Those whose key equals the last entry's. -/
def tiesOf (last : Option Cand) (l : List Cand) : Nat := match last with
  | some e => (l.filter (fun c => sameKey c.key e.key)).length
  | none => 0
/-- One selection over a set of candidates (R122 to R124). -/
def selectOf (larger : Bool) (k : Nat) (cs : List Cand) : Sel :=
  let (kept, dups) := dedup (candSort larger cs)
  let l := kept.filter (fun c => !isNaN32 c.key)
  let top := l.take k
  let out := l.drop k
  { entries := top, tieSpill := tiesOf top.getLast? out, nanCount := kept.length - l.length, dupCount := dups
    outCount := out.length, selAcc := accOf top, outAcc := accOf out }
/-- One merge step (R130). `lost` is the subtree sizes of the children not received. -/
def mergeStep (larger : Bool) (k : Nat) (ins : List Sel) (lost : Nat) : Sel × Nat :=
  let all := (ins.map (·.entries)).flatten
  let good := all.filter (fun c => !isNaN32 c.key)
  let (l, dups) := dedup (candSort larger good)
  let top := l.take k
  let out := l.drop k
  let last := top.getLast?
  let spill (s : Sel) : Nat := match last, s.entries.getLast? with
    | some e, some f => if sameKey e.key f.key then s.tieSpill else 0
    | _, _ => 0
  let sum (g : Sel → Nat) : Nat := (ins.map g).foldl (· + ·) 0
  let gens := ins.filterMap (·.genMin)
  let g0 := gens.foldl (fun (m : Option W64) g => match m with
    | none => some g
    | some h => some (if g.toNat < h.toNat then g else h)) none
  ({ entries := top
     tieSpill := tiesOf last out + sum spill
     nanCount := sum (·.nanCount) + (all.length - good.length)
     dupCount := sum (·.dupCount) + dups
     outCount := sum (·.outCount) + out.length
     selAcc := accOf top
     outAcc := (ins.map (·.outAcc)).foldl Acc.merge (accOf out)
     genMin := g0
     genMixed := ins.any (·.genMixed) || gens.any (fun g => some g != g0)
     dupShort := ins.any (·.dupShort) || (decide (0 < dups) && decide (top.length < k) && ins.any (fun s => decide (0 < s.outCount)))
     parts := sum (·.parts)
     missing := sum (·.missing) + lost
     stats := sortBy (fun a b => decide (a.1 ≤ b.1)) (ins.map (·.stats)).flatten }, dups)

/-! ### Results (R126, Tables 6-3 to 6-6, 4-13) -/

def entryBytes (c : Cand) : List Byte := toLe 8 c.id.toNat ++ toLe 4 c.key.toNat ++ toLe 2 c.origin ++ toLe 2 c.flags
def emptySlot : List Byte := toLe 8 0xFFFFFFFFFFFFFFFF ++ toLe 4 0x7FC00000 ++ toLe 2 0xFFFF ++ toLe 2 8
/-- Header and slots. `statsPartial` is `STATS_PARTIAL`. -/
def resultBytes (larger : Bool) (k : Nat) (statsPartial : Bool) (s : Sel) : List Byte :=
  let (ss, i0) := s.selAcc.final
  let (os, i1) := s.outAcc.final
  toLe 4 s.entries.length ++ toLe 4 s.tieSpill ++ toLe 4 s.nanCount ++ toLe 4 s.dupCount ++ toLe 8 ss.toNat ++ toLe 8 os.toNat ++
  toLe 8 ((s.genMin.getD 0).toNat) ++
  toLe 2 (b2n i0 + 2 * b2n i1 + 4 * b2n larger + 8 * b2n s.genMixed + 16 * b2n s.dupShort + 32 * b2n (s.missing != 0) + 64 * b2n statsPartial) ++
  toLe 2 s.parts ++ toLe 2 s.missing ++ toLe 2 0 ++
  (s.entries.map entryBytes).flatten ++ (List.replicate (k - s.entries.length) emptySlot).flatten
/-- Table 4-13. -/
def statsBytes (s : Stats) : List Byte :=
  toLe 2 (sat 16 s.routeSteps) ++ toLe 2 (sat 16 s.listsProbed) ++ toLe 2 (sat 16 s.listsWidened) ++ toLe 2 (sat 16 s.skippedEdges) ++
  toLe 4 (sat 32 s.centroids) ++ toLe 4 (sat 32 s.blocksRinsed) ++ toLe 4 (sat 32 s.blocksSummary) ++ toLe 4 (sat 32 s.skippedBlocks) ++
  toLe 8 s.compared ++ toLe 8 s.matches_ ++ toLe 4 (sat 32 s.pressed) ++ toLe 2 (sat 16 s.skippedEntries) ++ toLe 2 (sat 16 s.n8Reruns) ++
  toLe 1 (b2n s.routeCapped + 2 * b2n s.encoded + 4 * b2n s.nearUsed + 8 * b2n s.laneUsed) ++ toLe 1 (sat 8 s.maxBatch) ++ toLe 2 0 ++
  toLe 4 (sat 32 s.gatherMax) ++ toLe 8 s.service

/-! ### Partials (Table 6-10) -/

def partialBytes (inst dup : W64) (rank : Nat) (hedged stats : Bool) (s : Sel) : List Byte :=
  toLe 8 inst.toNat ++ toLe 8 dup.toNat ++ toLe 2 rank ++ toLe 2 s.parts ++ toLe 2 s.missing ++
  toLe 2 (8 * b2n s.genMixed + 16 * b2n s.dupShort + 256 * b2n hedged) ++
  toLe 4 s.entries.length ++ toLe 4 s.tieSpill ++ toLe 4 s.nanCount ++ toLe 4 s.dupCount ++ toLe 4 s.outCount ++ toLe 4 0 ++
  toLe 8 ((s.genMin.getD (Config.noGen inst)).toNat) ++ s.selAcc.image ++ s.outAcc.image ++
  (s.entries.map (fun c => entryBytes c ++ toLe 8 c.order)).flatten ++
  (if stats then (s.stats.map (fun r => toLe 8 r.1 ++ r.2)).flatten else [])
/-- The selection that a partial carries; with statistics when `stats`. A partial of no member carries no generation. -/
def partialSel (bs : List Byte) (stats : Bool) : Sel :=
  let k := leAt bs 0x18 4
  let parts := leAt bs 0x12 2
  let ent (i : Nat) : Cand :=
    let o := 0x98 + 24 * i
    { id := BitVec.ofNat 64 (leAt bs o 8), key := BitVec.ofNat 32 (leAt bs (o + 8) 4), origin := leAt bs (o + 12) 2
      flags := leAt bs (o + 14) 2, order := leAt bs (o + 16) 8 }
  let fl := leAt bs 0x16 2
  { entries := (List.range k).map ent, tieSpill := leAt bs 0x1C 4, nanCount := leAt bs 0x20 4, dupCount := leAt bs 0x24 4
    outCount := leAt bs 0x28 4, genMin := if parts = 0 then none else some (BitVec.ofNat 64 (leAt bs 0x30 8))
    selAcc := accOfImage (slice bs 0x38 48), outAcc := accOfImage (slice bs 0x68 48), genMixed := fl.testBit 3, dupShort := fl.testBit 4
    parts := parts, missing := leAt bs 0x14 2
    stats := if stats then (List.range parts).map (fun i =>
      let o := 0x98 + 24 * k + 72 * i
      (leAt bs o 8 % 4096, slice bs (o + 8) 64)) else [] }

/-! ### The end of a query -/

/-- Removes a query: its contexts, its visits, its place at a selector; generations and drops that waited for it (R60, R66, R89, R161). An entry that it made due waits again for the deadlines of
its other members. -/
def removeQuery (clk : Clock) (p i : Nat) (n : Node) : Node :=
  match getY n p i with
  | none => n
  | some y =>
    let keep (e : GEntry) : GEntry :=
      let ms := e.members.filter (fun v => v.query != i)
      { e with members := ms, due := e.due && ms.any (fun v => decide (v.deadline ≤ pctr clk p)) }
    let n := delCtx p y.ctx (delKids p y.ctx 3 (delKids p y.ctx 7 (endTasks p y.ctx n)))
    let n := modP p (fun x => { x with
      queries := mdel x.queries i, gather := (x.gather.map keep).filter (fun e => !e.members.isEmpty), selQ := x.selQ.filter (fun s => s.2 != i)
      mdls := x.mdls.map (fun m => (m.1, { m.2 with queue := m.2.queue.filter (fun t => t.for_ != .encodeQuery i && t.for_ != .score i) })) }) n
    settleTbls clk p (finishDrop clk p y.coll (retireGens clk p y.coll n))
def largerOf (c : Coll) : Bool := (metricOf c.desc.metric).larger
/-- The key direction of a query's collection. -/
def dirOf (n : Node) (p : Nat) (y : Query) : Bool := match getC n p y.coll with
  | some c => largerOf c
  | none => true
/-- The entries that the exhaustive half of `AUDIT` presses for a query, as (list, index, entry): live, readable, past the filter (R92). -/
def exhaustEnts (d : CollDesc) (y : Query) (g : Gen) : List (Nat × Nat × Ent) :=
  let lost (l : GList) (i : Nat) : Bool :=
    if d.metric = 3 ∧ i < l.body.length then l.badBlocks.contains (i / 256) else l.badRows.contains i
  (g.lists.map (fun (l : Nat × GList) => (List.range (l.2.body.length + l.2.sap.length)).filterMap (fun i =>
    if lost l.2 i then none else (entAt l.2 i).bind (fun e => if passes y.par e then some (l.1, i, e) else none)))).flatten
/-- Their candidates, by list number and entry index (R119). -/
def exhaust (x : Ptn) (p : Nat) (d : CollDesc) (y : Query) (es : List (Nat × Nat × Ent)) : List Cand :=
  es.map (fun e => { key := hybridKey x y e.2.2 (pressKey d y e.2.2), order := e.1 * 2 ^ 25 + e.2.1, id := e.2.2.id, origin := p
                     flags := b2n e.2.2.sap + 2 * b2n (runsN8 y && d.metric != 3) })
/-- PRESS units of the exhaustive half: one for each block of 128 entries of a list that holds one of them (Table 5-9, log 154). -/
def exhaustUnits (es : List (Nat × Nat × Ent)) : Nat := (nubNat (es.map (fun e => e.1 * 2 ^ 25 + e.2.1 / 128))).length
/-- What the exhaustive half reads: every code row and Sapling record, or under HAMMING every rinse block and Sapling record. -/
def exhaustLocs (p : Nat) (y : Query) (n : Node) : List MemLoc := match pinOf n p y with
  | none => []
  | some (c, g) => (g.lists.map (fun (l : Nat × GList) =>
      ((if c.desc.metric = 3 then (List.range (cdiv l.2.body.length 256)).map (RecLoc.block l.1) else (List.range l.2.body.length).map (RecLoc.row l.1)) ++
        (List.range l.2.sap.length).map (RecLoc.sap l.1)).map (MemLoc.shard p y.coll g.hdr.gen))).flatten
/-- The exhaustive half of one block of an `AUDIT`, and whether it was short (R92). The rows are read once for all blocks, at the first one; failed units count in both places of R106. -/
def exhaustHalf (clk : Clock) (p i k : Nat) (n : Node) : Bool × Node :=
  match getY n p i with
  | none => (false, n)
  | some y =>
    let n := if y.audit = some 0 then readAll clk p 0 y.tok y.ctx (exhaustLocs p y) (exhaustLocs p y) n else n
    match pinOf n p y with
    | none => (false, n)
    | some (c, g) =>
      let ham := c.desc.metric == 3
      let es := exhaustEnts c.desc y g
      let n := lookTags clk p i y.ctx (es.map (fun e => e.2.2.tag.toNat)) n
      let y := (getY n p i).getD y
      let r := { selectOf (largerOf c) k (exhaust (getP n p) p c.desc y es) with genMin := some y.gen }
      let n := emit (.data (y.par.raddr + 48 + 16 * k) (resultBytes (largerOf c) k false r)) n
      let units := if ham then 0 else exhaustUnits es
      let failed := if runsN8 y && !y.forceN8 then units else 0
      let bad := if ham then 0 else (es.filter (fun e => badScale e.2.2.scale)).length
      (decide (r.entries.length < k),
        count p .badScale bad (count p .pressUnits units (count p .pressN8 failed (count p .forcedN8 (if y.forceN8 then units else 0)
          (modYs p i (fun s => { s with n8Reruns := s.n8Reruns + failed }) n)))))
/-- Status of a result (Table 6-11). -/
def statusOf (k : Nat) (s : Sel) : Nat :=
  if 0 < s.missing then stMergeIncomplete else if s.entries.length < k then stShort else stSuccess
/-- Writes a query's result and posts its completion; the last block posts an `AUDIT`'s (R92, R126, R133, R134). -/
def finishQuery (clk : Clock) (p i : Nat) (larger : Bool) (s : Sel) (group : Option Group) (n : Node) : Node :=
  match getY n p i with
  | none => n
  | some y =>
    let k := y.par.k
    let lvl3 := match group with
      | some g => y.par.wantStats && decide (g.level < 4)
      | none => false
    let n := emit (.data y.par.raddr (resultBytes larger k lvl3 s)) n
    let (ex, n) := if y.audit.isSome then exhaustHalf clk p i k n else (false, n)
    let rec64 := statsBytes { ((getY n p i).getD y).stats with service := pctr clk p - y.fetched }
    let n := if !y.par.wantStats then n
      else match group with
        | none => emit (.data y.par.saddr rec64) n
        | some g =>
          let recs := (List.range g.size).map (fun r =>
            if r = g.myRank then (mget s.stats r).getD rec64
            else if g.level < 4 then List.replicate 64 0 else (mget s.stats r).getD (List.replicate 64 0))
          emit (.data y.par.saddr recs.flatten) n
    let st := statusOf k s
    let n := count p .queries 1 (count p .short (b2n (st == stShort)) (count p .mergeIncomplete (b2n (st == stMergeIncomplete)) n))
    let n := removeQuery clk p i n
    match y.audit with
    | none => postO clk y.tok st 0 n
    | some _ =>
      let bad := y.short || st == stShort || ex
      if (getP n p).queries.any (fun q => q.2.tok == y.tok) then
        modP p (fun x => { x with queries := x.queries.map (fun (q : Nat × Query) => (q.1, if q.2.tok == y.tok then { q.2 with short := q.2.short || bad } else q.2)) }) n
      else postO clk y.tok (if bad then stShort else stSuccess) 0 n

/-! ### SCORE (R141 to R143) -/

/-- The candidate slot of an ID (R143): its tokens, and the 64-byte units read, as (slot, units). -/
def probeSlot (m : Mem) (lg : Nat) (id : W64) : Nat → Nat → List (Nat × Nat) → Option (List Nat) × List (Nat × Nat)
  | 0, _, seen => (none, seen)
  | k + 1, s, seen =>
    let o := 256 * (s % 2 ^ lg)
    let used := leAt (Mem.readN m (o + 10) 2) 0 2 % 2 == 1
    let len := min 60 (leAt (Mem.readN m (o + 8) 2) 0 2)
    if !used then (none, seen ++ [(o, 1)])
    else if leNat (Mem.readN m o 8) = id.toNat then
      (some ((List.range len).map (fun j => leNat (Mem.readN m (o + 16 + 4 * j) 4))), seen ++ [(o, cdiv (16 + 4 * len) 64)])
    else probeSlot m lg id k (s + 1) (seen ++ [(o, 1)])
/-- Raises the heat of the pages of an object by the 64-byte units read at the given offsets (R182). -/
def heatUnits (p obj : Nat) (us : List (Nat × Nat)) (n : Node) : Node :=
  match mget (getP n p).objs obj with
  | none => n
  | some o => foldNode us (fun u n =>
      match o.pages[u.1 / 65536]? with
      | some g => modMem (fun m => { m with pages := mmod m.pages g (fun x => { x with heat := min 255 (x.heat + u.2) }) }) n
      | none => n) n
/-- Re-keys the entries with the scores and makes the final selection (R141 step 4, R142). -/
def rekey (dir : Bool) (k : Nat) (s : Sel) (keys : List W32) : Sel :=
  let es := List.zipWith (fun (c : Cand) key => { c with key := key, flags := c.flags ||| 4 }) s.entries keys
  let f := selectOf dir k es
  { s with entries := f.entries, tieSpill := f.tieSpill, nanCount := f.nanCount, selAcc := f.selAcc, outAcc := f.outAcc, outCount := f.outCount }
/-- The keys of the entries in order: NaN for those without a slot. -/
def placeKeys : List Bool → List W32 → List W32
  | [], _ => []
  | false :: bs, ks => qnan :: placeKeys bs ks
  | true :: bs, k :: ks => k :: placeKeys bs ks
  | true :: bs, [] => qnan :: placeKeys bs []
/-- SCORE has its keys. -/
def finishScore (clk : Clock) (p i : Nat) (keys : List W32) (n : Node) : Node :=
  match getY n p i with
  | none => n
  | some y => match graphOf (getP n p) y.par.graph, y.sel with
    | some g, some s =>
      let dir := stagePar g .score 10 1 1 == 1
      finishQuery clk p i dir (rekey dir y.par.k s (placeKeys y.scored keys)) y.group n
    | _, _ => n
/-- The node that writes the result has its merged selection: SCORE, or the end. -/
def afterMerge (clk : Clock) (p i : Nat) (larger : Bool) (s : Sel) (group : Option Group) (n : Node) : Node :=
  match getY n p i with
  | none => n
  | some y =>
    let x := getP n p
    match graphOf x y.par.graph with
    | none => finishQuery clk p i larger s group n
    | some g =>
      if !hasStage g .score then finishQuery clk p i larger s group n
      else
        let m := stagePar g .score 0 1 0
        let side := stagePar g .score 14 2 0
        let lg := stagePar g .score 16 1 20
        let data := ((mget x.objs side).map (·.data)).getD []
        let q := y.qtokens.take (stagePar g .score 11 1 16)
        let vocab := ((modelOf x m).map (·.vocab)).getD 0
        let look (c : Cand) : Option (List Nat) × List (Nat × Nat) :=
          if (mget x.objs side).isNone then (none, []) else probeSlot data lg c.id 16 ((mix c.id).toNat % 2 ^ lg) []
        let looks := s.entries.map look
        let seqs := looks.map (fun l => l.1.bind (fun ts => if ts.any (fun t => decide (vocab ≤ t)) then none else some ((q ++ ts).take (stagePar g .score 12 2 64))))
        let n := heatUnits p side (looks.map (·.2)).flatten (count p .scoreMissing ((seqs.filter (·.isNone)).length) n)
        let n := modY p i (fun y => { y with phase := .score, sel := some s, group := group, scored := seqs.map (·.isSome) }) n
        if seqs.all (·.isNone) then finishScore clk p i [] n
        else addTask clk p m y.ctx y.tok (taskOf clk p g .score (.score i) (seqs.filterMap id) y.urgent x) n

/-! ### The tree (R129) -/

def relRank (g : Group) (root rank : Nat) : Nat := (rank + g.size - root % g.size) % g.size
def absRank (g : Group) (root v : Nat) : Nat := (v + root) % g.size
/-- Children of a relative rank. -/
def kidsOf (g : Group) (v : Nat) : List Nat := ((List.range g.fanIn).map (fun i => g.fanIn * v + 1 + i)).filter (fun c => decide (c < g.size))
/-- Members from `lo` to `hi` and below. -/
def subtreeAux (g : Group) : Nat → Nat → Nat → Nat
  | 0, _, _ => 0
  | k + 1, lo, hi => if g.size ≤ lo then 0 else min hi (g.size - 1) + 1 - lo + subtreeAux g k (g.fanIn * lo + 1) (g.fanIn * hi + g.fanIn)
def subtree (g : Group) (v : Nat) : Nat := subtreeAux g 13 v v
def memberAt (g : Group) (r : Nat) : W32 × Nat := g.members.getD r (0, 0)
/-- Owner of what an instance sends (R272): the function that issued the command, or the service owner. -/
def ownerOf (p : Nat) (t : Option Tok) : Nat := match t with
  | some t => t.fn
  | none => 64 + p
/-- Table 12-7. -/
def fanoutBytes (i : Inst) (collId : W64) (raw query : List Byte) : List Byte :=
  toLe 8 i.inst.toNat ++ toLe 8 i.dupTag.toNat ++ toLe 8 collId.toNat ++ toLe 1 i.group.num ++ toLe 1 0 ++ toLe 2 i.root ++
  toLe 2 i.rank ++ toLe 2 0 ++ raw ++ query
/-- Table 12-8. -/
def closureBytes (inst dup : W64) (rank : Nat) : List Byte := toLe 8 inst.toNat ++ toLe 8 dup.toNat ++ toLe 2 rank ++ toLe 6 0
def sendClosure (clk : Clock) (p : Nat) (t : Option Tok) (level : Nat) (dst : W32 × Nat) (inst dup : W64) (rank : Nat) (n : Node) : Node :=
  send clk (ownerOf p t) dst.1 mkClosure level p dst.2 (closureBytes inst dup rank) n
def getI (n : Node) (p j : Nat) : Option Inst := mget (getP n p).insts j
def modI (p j : Nat) (g : Inst → Inst) (n : Node) : Node := modP p (fun x => { x with insts := mmod x.insts j g }) n
/-- Adds an instance and sends the fan-out, for the collection that it carries, to its children (Table 6-9 steps 1 and 2). -/
def addInst (clk : Clock) (p : Nat) (i : Inst) (collId : W64) (raw query : List Byte) (n : Node) : Nat × Node :=
  let j := (getP n p).nextI
  let ks := if i.hedged then [] else (kidsOf i.group (relRank i.group i.root i.rank)).map (absRank i.group i.root)
  let i := { i with kids := ks.map (fun r => { rank := r }), since := clk.node }
  let n := modP p (fun x => { x with insts := mset x.insts j i, nextI := j + 1 }) n
  (j, foldNode ks (fun r n => send clk (ownerOf p i.tok) (memberAt i.group r).1 mkFanout i.group.level p (memberAt i.group r).2
    (fanoutBytes i collId raw query) n) n)
/-- An instance is over: what a later partial is told (R132). -/
def closeInst (p j : Nat) (n : Node) : Node :=
  match getI n p j with
  | none => n
  | some i => modP p (fun x => { x with insts := mdel x.insts j, closed := x.closed ++ [(i.inst, i.dupTag, i.k)] }) n
/-- One merge step, once the own selection and every partial are there or the wait is over (R130, R132). -/
def tryMerge (clk : Clock) (p j : Nat) (n : Node) : Node :=
  match getI n p j with
  | none => n
  | some i =>
    if !i.ownSel || i.sent || !(i.waited || i.kids.all (fun k => k.got.isSome)) then n
    else
      let lost := ((i.kids.filter (fun k => k.got.isNone)).map (fun k => subtree i.group (relRank i.group i.root k.rank))).foldl (· + ·) 0
      let (s, dups) := mergeStep i.larger i.k ((i.own.getD { parts := 0, missing := 1 }) :: i.kids.filterMap (·.got)) lost
      let n := count p .mergeSteps 1 (count p .dups dups n)
      if i.isRoot then
        match i.query with
        | some q => afterMerge clk p q i.larger s (some i.group) (closeInst p j n)
        | none => closeInst p j n
      else
        let v := relRank i.group i.root i.rank
        let par := memberAt i.group (absRank i.group i.root ((v - 1) / i.group.fanIn))
        let st := i.par.wantStats && decide (4 ≤ i.group.level)
        let n := if v = 0 then n else send clk (ownerOf p i.tok) par.1 mkPartial i.group.level p par.2 (partialBytes i.inst i.dupTag i.rank i.hedged st s) n
        if i.hedged then modI p j (fun i => { i with sent := true, since := clk.node }) n else closeInst p j n
/-- A query has its own selection: it is handed to its instance (Table 6-9 step 3), or to the end of the search. -/
def handOff (clk : Clock) (p i : Nat) (s : Sel) (n : Node) : Node :=
  match getY n p i with
  | none => n
  | some y => match y.inst.bind (fun j => (getI n p j).map (fun t => (j, t))) with
    | none => afterMerge clk p i (dirOf n p y) s none (modY p i (fun y => { y with phase := .merge }) n)
    | some (j, t) =>
      let r := statsBytes { y.stats with service := pctr clk p - y.fetched }
      let s := { s with stats := if y.par.wantStats then [(y.rank, r)] else [] }
      let n := modI p j (fun t => { t with own := some s, ownSel := true }) n
      let n := if t.tok.isSome then modY p i (fun y => { y with phase := .merge }) n else removeQuery clk p i n
      tryMerge clk p j n
/-- The deep-select cores of Table 1-9. -/
def deepCores : List Nat := [15, 31, 47, 63]
/-- R14: the logical core of a partition that serves deep selections where it holds none of the four. -/
def deepOf (x : Ptn) : Option Nat :=
  let cs := bitsOf x.ent.cores 64
  if cs.any (fun c => deepCores.contains c) then none else cs.getLast?
/-- The deep-select core that serves a thread on a core (R14 steps 1 to 3). -/
def deepFor (x : Ptn) (core : Nat) : Nat :=
  let mine := deepCores.filter (fun d => x.ent.cores.getLsbD d)
  ((mine.find? (fun d => d / 16 == core / 16)).orElse (fun _ => mine.head?.orElse (fun _ => deepOf x))).getD 0
/-- The selection runs. -/
def selectNow (clk : Clock) (p i : Nat) (y : Query) (n : Node) : Node :=
  handOff clk p i { selectOf (dirOf n p y) y.k y.cands with genMin := some y.gen } n
/-- A selection waits at its deep-select core: for the ones before it (READY), or for tier-1 space (WAIT_MEM); its SELECT thread has a context, or waits for one. -/
def selectWait (clk : Clock) (p i core st : Nat) (y : Query) (n : Node) : Node :=
  if (getP n p).ctxs.any (fun c => c.2.kind == 7 && c.2.parent == y.ctx) then
    modP p (fun x => { x with ctxs := x.ctxs.map (fun c => if c.2.kind == 7 && c.2.parent == y.ctx then (c.1, { c.2 with st := st }) else c) }) n
  else ((takeCtx p { queryCtx clk p i 7 st .select y n with core := core } n).map (·.2)).getD n
/-- `SELECT`: every PRESS of the query has ended (R80, R122). Up to k = 64 it runs on the query's own core; above that on the deep-select core of R14, in order of arrival, and above 65,536
with 24 bytes per entry of the partition's tier 1, for which it waits (R120). -/
def selectTop (p i : Nat) (clk : Clock) (_host : Mem) (n : Node) : Node :=
  match getY n p i with
  | none => n
  | some y =>
    let x := getP n p
    if !pressOver x i y || x.st == .resetting then n
    else if y.k ≤ 64 then selectNow clk p i y n
    else
      let n := if x.selQ.any (fun s => s.2 == i) then n
        else modP p (fun x => { x with selQ := x.selQ ++ [(deepFor x (((mget x.ctxs y.ctx).map (·.core)).getD 0xFFFF), i)] }) n
      match (getP n p).selQ.find? (fun s => s.2 == i) with
      | none => n
      | some s =>
        if (getP n p).selQ.find? (fun t => t.1 == s.1) ≠ some s then selectWait clk p i s.1 2 y n
        else if 65536 < y.k ∧ freeT1 n p < 24 * y.k then selectWait clk p i s.1 4 y n
        else selectNow clk p i y (delKids p y.ctx 7 (modP p (fun x => { x with selQ := x.selQ.filter (fun t => t.2 != i) }) n))
def execSelectTop (e : Env) (p qy : Nat) (s : State) : Host.Outcome State Fault Refusal := run e (selectTop p qy) s

/-! ### Fetch of a search -/

/-- What the query data hold: a vector, tokens, or a sketch. -/
inductive QData where
  | vec (v : List W32)
  | toks (ts : List Nat)
  | sk (k : Nat)
deriving DecidableEq, Repr
/-- Reads the query data through `rd` (offset, length); a status and result where R69, R70 or R139 refuse it. -/
def readData (x : Ptn) (d : CollDesc) (g : Graph) (form qlen : Nat) (rd : Nat → Nat → List Byte) : Except (Nat × Nat) QData :=
  if form = 2 then .ok (.sk (leNat (rd 0 (skBits d.skw / 8))))
  else if form = 1 then
    let ts := (words32 (rd 0 (4 * qlen)) qlen).map (·.toNat)
    match checkEncode x g d.dim ts with
    | .field => .error (stInvalidField, badField 0x34 1)
    | .token i => .error (stInvalidField, badField (4 * i) 2)
    | .unavailable => .ok (.toks ts)
    | .ok _ => .ok (.toks ts)
  else
    let v := words32 (rd 0 (4 * d.dim)) d.dim
    match firstBad v with
    | some i => .error (stInvalidField, badField (4 * i) 2)
    | none => if (prepVec (metricOf d.metric) v).isNone then .error (stInvalidField, badField 0 2) else .ok (.vec v)
/-- Bytes of the query before the bag. -/
def queryLen (d : CollDesc) (form qlen : Nat) : Nat := if form = 2 then skBits d.skw / 8 else if form = 1 then 4 * qlen else 4 * d.dim
/-- The output width of the graph's ENCODE model is not `DIM` (R139). -/
def encodeBad (x : Ptn) (g : Graph) (dim : Nat) : Bool :=
  hasStage g .encode && (modelOf x (stagePar g .encode 0 1 0)).any (fun d => outWidth d != dim)
/-- The hybrid bag of R166 at offset `base`: its bytes and its (index, bag 0, weight) list. Tables of different `WIDTH` break Table 8-3: `GRAPH` is the field found invalid (DESIGN
CHOICE, log 156). -/
def readBag (x : Ptn) (g : Graph) (base : Nat) (rd : Nat → Nat → List Byte) : Except (Nat × Nat) (Option (List Byte × List Tri)) :=
  if !hasStage g .pool then .ok none
  else
    let t := mget x.tbls (stagePar g .pool 0 1 0)
    match tblRefuses t, tblRefuses (mget x.tbls (stagePar g .pool 1 1 0)) with
    | some st, _ => .error (st, 0)
    | none, some st => .error (st, 0)
    | none, none =>
      let rows := match t with
        | some t => t.rows
        | none => 0
      let hd := rd base 64
      let k := leAt hd 0 4
      if t.map (·.width) ≠ (mget x.tbls (stagePar g .pool 1 1 0)).map (·.width) then .error (stInvalidField, badField 0x02 1)
      else if stagePar g .pool 8 2 256 < k then .error (stInvalidField, badField base 2)
      else
        let body := rd (base + 64) (8 * k)
        let idx := (words32 body k).map (·.toNat)
        let ws := words32 (body.drop (4 * k)) k
        let bi := (idx.takeWhile (fun i => decide (i < rows))).length
        if bi < k then .error (stInvalidField, badField (base + 64 + 4 * bi) 2)
        else match firstBad ws with
          | some i => .error (stInvalidField, badField (base + 64 + 4 * k + 4 * i) 2)
          | none => .ok (some (hd ++ body, List.zipWith (fun i w => (i, 0, w)) idx ws))
/-- A search that has passed its checks: parameters, query data, bag. -/
structure Checked where
  slot : Nat
  gen  : W64
  par  : SParams
  data : QData
  bag  : Option (List Byte × List Tri)
  raw  : List Byte
/-- Status that the collection's state gives a search (R67). -/
def collRefuses (c : Coll) : Option Nat :=
  if c.drop.isSome then some stCollUnavail
  else if c.st == .frozen || c.own.st == .frozen then some stFrozen
  else if c.cur.isNone then some stCollUnavail
  else match c.st with
    | .serving => none
    | .swapping => none
    | .readOnly => none
    | _ => some stCollUnavail
/-- R128. -/
def collectiveBad (x : Ptn) (c : Coll) (s : SParams) : Bool :=
  let w := s.collective
  if w = 0 then false
  else if !bit w 63 then true
  else if fld w 44 18 ≠ 0 || fld w 28 4 ≠ 0 || fld w 8 8 ≠ 0 then true
  else match mget x.groups (fld w 0 8) with
    | none => true
    | some g => (bit w 62 && (s.dupTag == 0 || decide (g.size ≤ fld w 32 12) || decide (g.size ≤ fld w 16 12))) || g.collId != c.desc.collId
/-- The checks of one parameter block of function `fn` (R67, R69, R70, R128, R139, R166). `base` is its offset in the command's structure. -/
def checkSearch (n : Node) (host : Mem) (fn p : Nat) (audit : Bool) (base : Nat) (bs : List Byte) : Except (Nat × Nat) Checked :=
  let x := getP n p
  let s := sparamsOf bs
  let bad (off : Nat) : Except (Nat × Nat) Checked := .error (stInvalidField, badField (base + off) 1)
  match collRef n fn false s.coll with
  | none => bad 0x00
  | some (_, slot) => match getC n p slot, graphOf x s.graph with
    | some c, some g =>
      match paramsBad x (some c.desc) false s with
      | some off => bad off
      | none =>
        if audit && (s.collective != 0 || s.dupTag != 0) then bad (if s.collective != 0 then 0x50 else 0x58)
        else if collectiveBad x c s then bad 0x50
        else if encodeBad x g c.desc.dim then bad (if s.qform = 1 then 0x34 else 0x02)
        else match collRefuses c, c.cur with
          | some st, _ => .error (st, 0)
          | none, none => .error (stCollUnavail, 0)
          | none, some cg =>
            let rd (o l : Nat) : List Byte := Mem.readN host (s.qaddr + o) l
            match readData x c.desc g s.qform s.qlen rd with
            | .error e => .error e
            | .ok d => match readBag x g (64 * cdiv (queryLen c.desc s.qform s.qlen) 64) rd with
              | .error e => .error e
              | .ok bag =>
                if !modelsReady x g then .error (stModelUnavail, 0)
                else .ok { slot := slot, gen := cg.hdr.gen, par := withDefaults g s, data := d, bag := bag, raw := bs }
    | _, none => bad 0x02
    | none, _ => bad 0x00

/-! ### The start of a query -/

/-- The query as a fan-out carries it: the FP32 vector or sketch, then the bag at the next multiple of 64 where there is one (log 31). -/
def carried (q : List Byte) (bag : List Byte) : List Byte :=
  if bag.isEmpty then q else q ++ List.replicate (64 * cdiv q.length 64 - q.length) 0 ++ bag
/-- The raw vector or sketch of a query is there: a collective search starts its instance and fans out under the descriptor that it started with (R127), then the local work is prepared. -/
def beginWork (clk : Clock) (p i : Nat) (q : List Byte) (prep : Node → Node) (n : Node) : Node :=
  match getY n p i with
  | none => n
  | some y =>
    let w := y.par.collective
    if w = 0 || y.inst.isSome then prep n
    else match y.grp with
      | none => prep n
      | some g =>
        let seq := ((mget (getP n p).groups g.num).getD g).nextSeq
        let hedge := bit w 62
        let root := if hedge then fld w 32 12 else g.myRank
        let rank := if hedge then fld w 16 12 else g.myRank
        let inst := if hedge then Config.hedgeInst y.par.dupTag else BitVec.ofNat 64 (g.myRank * 2 ^ 52 + seq % 2 ^ 52)
        let n := if hedge then n else modP p (fun x => { x with groups := mmod x.groups g.num (fun g => { g with nextSeq := g.nextSeq + 1 }) }) n
        let (j, n) := addInst clk p { inst := inst, dupTag := y.par.dupTag, group := g, root := root, rank := rank, isRoot := !hedge, hedged := hedge
                                      query := some i, tok := y.tok, par := y.par, k := y.k, larger := dirOf n p y } g.collId y.raw (carried q y.bag) n
        prep (modY p i (fun y => { y with inst := some j, rank := rank, hedged := hedge }) n)
/-- A vector reaches a query, from the host, from ENCODE or from a fan-out (R70): normalised and quantised; ROUTE follows. -/
def vectorReady (clk : Clock) (p i : Nat) (v : List W32) (n : Node) : Node :=
  match getY n p i with
  | none => n
  | some y => match getC n p y.coll with
    | none => n
    | some c => match prepVec (metricOf c.desc.metric) v with
      | none => n
      | some u => beginWork clk p i (bytesOf32 v) (prepQuery p i c.desc u) n
/-- Adds a query in flight with its thread, or one that waits for a context, and its pooled vector, and starts it (R67, R70, R87, R88, R107, R166). -/
def startQuery (clk : Clock) (p : Nat) (tok : Option Tok) (urgent : Bool) (audit inst : Option Nat) (rank : Nat) (ck : Checked) (n : Node) : Node :=
  let x := getP n p
  let i := x.nextQ
  let k := match graphOf x ck.par.graph with
    | some g => if hasStage g .score then stagePar g .score 8 2 16 else ck.par.k
    | none => ck.par.k
  let y : Query := { tok := tok, urgent := urgent, par := ck.par, coll := ck.slot, gen := ck.gen, fetched := pctr clk p, k := k, thr := effThr x,
                     forceN8 := bit x.qntCfg 24, inst := inst, rank := rank, audit := audit, ctx := noCtx, raw := ck.raw
                     bag := (ck.bag.map (·.1)).getD [], grp := if ck.par.collective = 0 then none else mget x.groups (fld ck.par.collective 0 8)
                     qtokens := match ck.data with
                       | .toks ts => ts
                       | _ => [] }
  let (ci, n) := (takeCtx p (match ck.data with
    | .toks _ => queryCtx clk p i 1 5 .encode y n
    | _ => queryCtx clk p i 1 3 .route y n) n).getD (noCtx, n)
  let n := modP p (fun x => { x with queries := mset x.queries i { y with ctx := ci }, nextQ := i + 1 }) n
  let n := match ck.bag, graphOf x ck.par.graph with
    | some (_, ts), some g =>
      let (n, out) := poolBags clk p (stagePar g .pool 0 1 0) tok ci [] ts 1 n
      modY p i (fun y => { y with pooled := (out.map (·.1)).flatten }) n
    | _, _ => n
  match ck.data with
  | .sk s => beginWork clk p i (toLe (skBits (match getC n p ck.slot with
      | some c => c.desc.skw
      | none => 0) / 8) s) (modY p i (fun y => { y with sketch := s, phase := .route })) n
  | .vec v => vectorReady clk p i v n
  | .toks ts => match graphOf x ck.par.graph with
    | none => n
    | some g => addTask clk p (stagePar g .encode 0 1 0) ci tok (taskOf clk p g .encode (.encodeQuery i) [ts] urgent x)
        (modY p i (fun y => { y with phase := .encode }) n)
def searchJob : Job := fun clk host t e n =>
  match (getFn n t.fn).map with
  | none => invalid clk t 0 0 n
  | some p => match checkSearch n host t.fn p false 0 (Mem.readN host e.addr0 128) with
    | .error (st, r) => post clk t st r n
    | .ok ck => startQuery clk p (some t) (isUrgent n t) none none 0 ck n
def execSearch (e : Env) (q : QRef) (s : State) : Host.Outcome State Fault Refusal :=
  run e (hostCmd Rows.search anyEntry noChk noPtn searchJob q) s
/-- The blocks of an `AUDIT`, checked in order; all name one collection. -/
def checkBlocks (n : Node) (host : Mem) (fn p addr : Nat) : Nat → Nat → List Checked → Except (Nat × Nat) (List Checked)
  | 0, _, acc => .ok acc
  | k + 1, i, acc =>
    match checkSearch n host fn p true (128 * i) (Mem.readN host (addr + 128 * i) 128) with
    | .error e => .error e
    | .ok ck =>
      if acc.any (fun a => a.slot != ck.slot) then .error (stInvalidField, badField (128 * i) 1)
      else checkBlocks n host fn p addr k (i + 1) (acc ++ [ck])
def auditChk (_n : Node) (_fn : Nat) (e : Sqe) : Option Nat := if 1 ≤ e.arg0 ∧ e.arg0 ≤ 128 then none else some 0x18
def auditJob : Job := fun clk host t e n =>
  match (getFn n t.fn).map with
  | none => invalid clk t 0 0 n
  | some p => match checkBlocks n host t.fn p e.addr0 e.arg0 0 [] with
    | .error (st, r) => post clk t st r n
    | .ok cks => (cks.foldl (fun (a : Nat × Node) ck => (a.1 + 1, startQuery clk p (some t) (isUrgent n t) (some a.1) none 0 ck a.2)) (0, n)).2
def execAudit (e : Env) (q : QRef) (s : State) : Host.Outcome State Fault Refusal :=
  run e (hostCmd Rows.audit anyEntry auditChk noPtn auditJob q) s

/-! ### Members (R370) -/

/-- The member's own search: what it runs, or none where R370 leaves its selection empty. -/
def memberCheck (x : Ptn) (collId : W64) (bs query : List Byte) : Option Checked :=
  match x.colls.find? (fun c => c.2.desc.collId == collId) with
  | none => none
  | some (slot, c) =>
    let s := sparamsOf bs
    match graphOf x s.graph, c.cur with
    | some g, some cg =>
      if (paramsBad x (some c.desc) true s).isSome || (collRefuses c).isSome then none
      else
        let form := if c.desc.metric = 3 then 2 else 0
        let len := queryLen c.desc form 0
        if query.length < len then none
        else match readData x c.desc g form 0 (slice query), readBag x g (64 * cdiv len 64) (slice query) with
          | .ok d, .ok bag => some { slot := slot, gen := cg.hdr.gen, par := { withDefaults g s with coll := slot, qform := form, qlen := 0 }
                                     data := d, bag := bag, raw := bs }
          | _, _ => none
    | _, _ => none
/-- `FANOUT`: forwarded to the children before any check, then run locally. -/
def fanout (clk : Clock) (m : Msg) (n : Node) : Node :=
  let p := m.dstPtn
  let x := getP n p
  let b := m.body
  let raw := slice b 0x20 128
  let query := b.drop 0xA0
  match mget x.groups (leAt b 0x18 1) with
  | none => n
  | some g =>
    let root := leAt b 0x1A 2
    let inst := BitVec.ofNat 64 (leAt b 0 8)
    if x.insts.any (fun i => i.2.inst == inst && i.2.group.num == g.num && !i.2.hedged) then n
    else
      let s := sparamsOf raw
      let collId := BitVec.ofNat 64 (leAt b 0x10 8)
      let ck := memberCheck x collId raw query
      let gr := graphOf x s.graph
      let s' := match gr with
        | some g => withDefaults g s
        | none => { s with k := if s.k = 0 then 10 else s.k }
      let k := match gr with
        | some g => if hasStage g .score then stagePar g .score 8 2 16 else s'.k
        | none => s'.k
      let larger := match x.colls.find? (fun c => c.2.desc.collId == collId) with
        | some c => largerOf c.2
        | none => Config.mergeDir collId
      let qi := x.nextQ
      let (j, n) := addInst clk p { inst := inst, dupTag := BitVec.ofNat 64 (leAt b 8 8), group := g, root := root, rank := g.myRank
                                    query := if ck.isSome then some qi else none, par := s', k := k, larger := larger
                                    ownSel := ck.isNone } collId raw query n
      match ck with
      | none => tryMerge clk p j n
      | some ck => startQuery clk p none false none (some j) g.myRank ck n
def execFanout (e : Env) (link : Nat) (m : Msg) (s : State) : Host.Outcome State Fault Refusal :=
  run e (onMsg mkFanout link m (fun clk n => fanout clk m n)) s

/-- The instance and child a partial is for: by instance, or by duplicate tag when a hedged copy sent it (R135, log 30). -/
def matchInst (x : Ptn) (inst dup : W64) (rank : Nat) (copy : Bool) : Option (Nat × Inst) :=
  x.insts.find? (fun i => !i.2.hedged && i.2.dupTag == dup && (i.2.inst == inst || (copy && dup != 0)) && i.2.kids.any (fun k => k.rank == rank))
/-- The wait of an instance is over: it merges without the missing children (R132). -/
def waitOver (clk : Clock) (p j : Nat) (n : Node) : Node := tryMerge clk p j (modI p j (fun i => { i with waited := true }) n)
/-- `PARTIAL` (R132, R135): one that comes after the cycle in which the wait expires is late, whether or not the expiry has been taken before it. Of two partials of one cycle for one rank the
first that the queue of commands holds is merged where it completes the step at once (log 150). -/
def partialRule (clk : Clock) (m : Msg) (n : Node) : Node :=
  let p := m.dstPtn
  let b := m.body
  let inst := BitVec.ofNat 64 (leAt b 0 8)
  let dup := BitVec.ofNat 64 (leAt b 8 8)
  let rank := leAt b 0x10 2
  let copy := (leAt b 0x16 2).testBit 8
  let k := leAt b 0x18 4
  let base := 0x98 + 24 * k
  let full := base + 72 * leAt b 0x12 2
  let late (n : Node) : Node := sendClosure clk p none m.level (m.src, m.srcPtn) inst dup rank (count p .mergeLate 1 n)
  if b.length < 0x98 then count p .mergeBad 1 n
  else match matchInst (getP n p) inst dup rank copy with
    | none =>
      let tooMany := (getP n p).closed.any (fun c => c.1 == inst && c.2.1 == dup && decide (c.2.2 < k))
      if (b.length ≠ base ∧ b.length ≠ full) ∨ tooMany then count p .mergeBad 1 n else late n
    | some (j, i) =>
      let st := i.par.wantStats && decide (4 ≤ m.level)
      if b.length ≠ (if st then full else base) ∨ i.k < k then count p .mergeBad 1 n
      else if i.since + 300 * i.group.waitUs < clk.node then late (waitOver clk p j n)
      else
        let sel := partialSel b st
        let got (c : Child) : Child := { c with got := some sel, copy := copy, src := m.src, srcP := m.srcPtn, inst := inst, at_ := clk.node }
        let take (n : Node) : Node := modI p j (fun i => { i with kids := modAll (fun c => c.rank == rank) got i.kids }) n
        match i.kids.find? (fun c => c.rank == rank) with
        | none => n
        | some c =>
          if c.got.isNone then
            let n := take n
            let n := if copy then sendClosure clk p i.tok i.group.level (memberAt i.group rank) i.inst dup rank n else n
            tryMerge clk p j n
          else if c.copy && !copy && c.at_ == clk.node then
            -- the original arrives in the copy's cycle and wins
            tryMerge clk p j (sendClosure clk p i.tok i.group.level (c.src, c.srcP) c.inst dup rank (take n))
          else if c.copy != copy then sendClosure clk p i.tok i.group.level (m.src, m.srcPtn) inst dup rank n
          else n
def execPartialResult (e : Env) (link : Nat) (m : Msg) (s : State) : Host.Outcome State Fault Refusal :=
  run e (onMsg mkPartial link m (fun clk n => partialRule clk m n)) s

/-- Ends the `SEARCH` of a hedged copy (R136). -/
def endCopy (clk : Clock) (p j : Nat) (status : Nat) (n : Node) : Node :=
  match getI n p j with
  | none => n
  | some i =>
    let n := match i.own with
      | some s => if status = stSuccess && i.par.wantStats then emit (.data i.par.saddr ((s.stats.map (·.2)).flatten)) n else n
      | none => n
    let n := modP p (fun x => { x with insts := mdel x.insts j }) n
    let n := match i.query with
      | some q => removeQuery clk p q n
      | none => n
    postO clk i.tok status 0 (count p .queries 1 n)
/-- `MERGE_WAIT_EXPIRY`: `WAIT_US` after the fan-out the node merges without the missing children (R132). A hedged copy that no closure has
answered within `WAIT_US` of its partial has won (R136, log 30). -/
def mergeWait (p j : Nat) (clk : Clock) (_host : Mem) (n : Node) : Node :=
  match getI n p j with
  | none => n
  | some i =>
    if clk.node < i.since + 300 * i.group.waitUs then n
    else if i.hedged then (if i.sent then endCopy clk p j stSuccess n else n)
    else waitOver clk p j n
def execMergeWaitExpiry (e : Env) (p inst : Nat) (s : State) : Host.Outcome State Fault Refusal := run e (mergeWait p inst) s

/-- Closure from a root to every other member (Table 6-12): a member that it stops sends nothing (R136, log 151). -/
def closeTree (clk : Clock) (p : Nat) (i : Inst) (n : Node) : Node :=
  foldNode ((List.range i.group.size).filter (fun r => r != i.rank)) (fun r n => sendClosure clk p i.tok i.group.level (memberAt i.group r) i.inst i.dupTag r n) n
/-- Stops an instance and its query, with nothing sent upward; `down`: a queue reset ended it, and a root tells the tree. -/
def stopInst (clk : Clock) (p j : Nat) (down : Bool) (n : Node) : Node :=
  match getI n p j with
  | none => n
  | some i =>
    let n := if down && i.isRoot then closeTree clk p i n else n
    let n := match i.query with
      | some q => removeQuery clk p q n
      | none => n
    closeInst p j n
/-- `CLOSURE` (R136): the named work stops, and a losing original sends nothing. -/
def closureRule (clk : Clock) (m : Msg) (n : Node) : Node :=
  let p := m.dstPtn
  let inst := BitVec.ofNat 64 (leAt m.body 0 8)
  let dup := BitVec.ofNat 64 (leAt m.body 8 8)
  let rank := leAt m.body 0x10 2
  match (getP n p).insts.find? (fun i => i.2.inst == inst && i.2.dupTag == dup && i.2.rank == rank && !i.2.isRoot) with
  | none => n
  | some (j, i) =>
    let n := count p .superseded 1 n
    if i.hedged then endCopy clk p j stSuperseded n else stopInst clk p j false n
def execClosure (e : Env) (link : Nat) (m : Msg) (s : State) : Host.Outcome State Fault Refusal :=
  run e (onMsg mkClosure link m (fun clk n => closureRule clk m n)) s
/-- The queries and instances of a command leave (R89, R133, Table 6-12): closure goes down the tree on a queue reset. -/
def abortQueries (clk : Clock) (p : Nat) (t : Tok) (down : Bool) (n : Node) : Node :=
  let qs := ((getP n p).queries.filter (fun q => q.2.tok == some t)).map (·.1)
  let js := ((getP n p).insts.filter (fun i => i.2.tok == some t)).map (·.1)
  let n := foldNode js (fun j n => stopInst clk p j down n) n
  count p .queries qs.length (foldNode qs (removeQuery clk p) n)

/-! ### `COLLECTIVE_DEFINE` (R127) -/

/-- Offset of a descriptor field out of range (Table 6-7). -/
def groupBad (n : Node) (x : Ptn) (bs : List Byte) : Option Nat :=
  let lvl := leAt bs 1 1
  let size := leAt bs 2 2
  let fan := leAt bs 6 1
  let w := leAt bs 8 4
  let cid := BitVec.ofNat 64 (leAt bs 0x18 8)
  if lvl < 3 ∨ imgProto n < lvl then some 0x01
  else if size < 1 ∨ 4096 < size then some 0x02
  else if size ≤ leAt bs 4 2 then some 0x04
  else if fan ≠ 0 ∧ (fan < 2 ∨ 64 < fan) then some 0x06
  else if !zeroAt bs 7 1 then some 0x07
  else if w ≠ 0 ∧ (w < 100 ∨ 100000 < w) then some 0x08
  else if !zeroAt bs 0x0C 4 then some 0x0C
  else if leAt bs 0x10 8 % 8 ≠ 0 then some 0x10
  else if cid = 0 ∨ !x.colls.any (fun c => c.2.desc.collId == cid) then some 0x18
  else if !zeroAt bs 0x20 32 then some 0x20
  else none
/-- The first member entry with a reserved bit or equal to an earlier one. -/
def membersBad : Nat → List Nat → List Nat → Option Nat
  | _, [], _ => none
  | i, v :: vs, seen => if 2 ^ 35 ≤ v ∨ seen.contains v then some i else membersBad (i + 1) vs (v :: seen)
def collectiveDefine : Job := fun clk host t e n =>
  match (getFn n t.fn).map with
  | none => post clk t stInvalidField 0 n
  | some p =>
    let bs := Mem.readN host e.addr0 64
    match groupBad n (getP n p) bs with
    | some off => invalid clk t off 1 n
    | none =>
      let size := leAt bs 2 2
      let mine := leAt bs 4 2
      let vals := (List.range size).map (fun i => leNat (Mem.readN host (leAt bs 0x10 8 + 8 * i) 8))
      match membersBad 0 vals [] with
      | some i => invalid clk t (8 * i) 2 n
      | none =>
        if vals.getD mine 0 ≠ n.lnk.nodeId.toNat + 2 ^ 32 * p then invalid clk t (8 * mine) 2 n
        else
          let num := leAt bs 0 1
          let fan := leAt bs 6 1
          let w := leAt bs 8 4
          let seq := match mget (getP n p).groups num with
            | some g => g.nextSeq
            | none => 1
          let g : Group := { num := num, level := leAt bs 1 1, size := size, myRank := mine, fanIn := if fan = 0 then 8 else fan
                             waitUs := if w = 0 then 2000 else w, collId := BitVec.ofNat 64 (leAt bs 0x18 8), nextSeq := seq
                             members := vals.map (fun v => (BitVec.ofNat 32 v, v / 2 ^ 32)) }
          post clk t stSuccess 0 (modP p (fun x => { x with groups := mset x.groups num g }) n)
def execCollectiveDefine (e : Env) (q : QRef) (s : State) : Host.Outcome State Fault Refusal :=
  run e (hostCmd Rows.collectiveDefine anyEntry noChk fnPtn collectiveDefine q) s

end Sys2Proof.Machine
end

