-- ==== Sys2Proof/Machine/Models.lean ====
section
/-! DEFINITION. Models: the transformer program and its arithmetic (R144 to R149), weight images (R150), batches (R152, R153),
streaming (R154), and how ENCODE and SCORE continue their commands (R140, R141). -/

namespace Sys2Proof.Machine

/-! ### Weight images (log 34) -/

/-- A signed 4-bit code. -/
def s4 (n : Nat) : Int := if n % 16 < 8 then (n % 16 : Int) else (n % 16 : Int) - 16
/-- Codes from bytes, two to a byte, the low half first. -/
def codesOf (bs : List Byte) : List Int := (bs.map (fun b => [s4 b.toNat, s4 (b.toNat / 16)])).flatten
/-- Row `r` of a record of `rows` × `cols` codes at `off`: scale and codes. -/
def wRow (img : List Byte) (off rows cols r : Nat) : W16 × List Int :=
  (BitVec.ofNat 16 (leAt img (off + rows * cols / 2 + 2 * r) 2), codesOf (slice img (off + r * cols / 2) (cols / 2)))
def f32s (img : List Byte) (off k : Nat) : List W32 := words32 (slice img off (4 * k)) k
/-- A table row widened to FP32: code × scale, exact. -/
def wideRow (w : W16 × List Int) : List W32 := w.2.map (fun c => mul32 (rneInt (c * 2 ^ 149) 1) (widen w.1))
def posOff (d : ModelDesc) : Nat := tokTabBytes d d.vocab
def vecOff (d : ModelDesc) (b : Nat) : Nat := posOff d + (if d.flags.testBit 2 then 0 else tokTabBytes d d.maxSeq) + b * vecBytes d
/-- Offset of layer record `j`; the final vector record stands before the output layer. -/
def layerOff (d : ModelDesc) (j : Nat) : Nat :=
  vecOff d d.blocks + (((layerShapes d).take j).map (fun s => layerBytes s.1 s.2)).foldl (· + ·) 0 + (if j = 4 * d.blocks then finalBytes d else 0)
def finalOff (d : ModelDesc) : Nat := layerOff d (4 * d.blocks) - finalBytes d
def layersOf (d : ModelDesc) : Nat := (layerShapes d).length

/-! ### The program -/

/-- What a task counts (Table 5-9): layers, failed layers, forced layers, values converted and clipped, degenerate rows; and which layers ran in N8. -/
structure MCount where
  units  : Nat := 0
  n8     : Nat := 0
  forced : Nat := 0
  conv   : Nat := 0
  clip   : Nat := 0
  degen  : Nat := 0
  inN8   : List Nat := []
/-- What a task runs with. -/
structure MEnv where
  d       : ModelDesc
  img     : List Byte
  rhoAct  : W16
  thr     : Nat
  forceN8 : Bool

/-- One output element: the integer sum, the two scales, one rounding (R110). -/
def keyOf (sq : W32) (cq : List Int) (sv : W32) (cv : List Int) : W32 := rneKey (int32 sq * int32 sv * dotInt cq cv) (2 ^ 149)
/-- Rows that R101 made zero. -/
def degens (l : List CodeRow) : Nat := (l.filter (·.degen)).length
/-- One layer over a task's rows: the clip test, the conversion, the products, the bias (R105, R147, R148). -/
def layer (e : MEnv) (j : Nat) (bias : List W32) (xs : List (List W32)) (c : MCount) : List (List W32) × MCount :=
  let (out, inn) := (layerShapes e.d).getD j (0, 0)
  let rho := (e.d.rhos[j]?).getD e.rhoAct
  -- FORCE_N8 runs the layer without testing, and so without the N4 conversion
  let n4 := if e.forceN8 then [] else xs.map (fun x => quantise x 7 rho .fp32)
  let conv := n4.length * inn
  let clip := (n4.map (·.clipped)).foldl (· + ·) 0
  let fails := clipFails clip e.thr conv
  let n8 := if e.forceN8 || fails then xs.map (fun x => quantise x 127 0x3F80 .fp32) else []
  let rows := if e.forceN8 || fails then n8 else n4
  let ws := (List.range out).map (wRow e.img (layerOff e.d j) out inn)
  (rows.map (fun q => List.zipWith (fun w b => add32 (dequant .ip q.scale q.codes w.1 w.2) b) ws bias),
   { c with units := c.units + 1, n8 := c.n8 + b2n (fails && !e.forceN8), forced := c.forced + b2n e.forceN8
            conv := c.conv + conv, clip := c.clip + clip, degen := c.degen + degens n4 + degens n8
            inN8 := if e.forceN8 || fails then c.inN8 ++ [j] else c.inN8 })
/-- lnorm (Table 7-3): (x − μ) × RSQRT(σ² + ε) × g + β. -/
def lnorm (eps : W32) (g b x : List W32) : List W32 :=
  let mu := div32ofNat (sum32 x) x.length
  let dx := x.map (fun v => sub32 v mu)
  let r := rsqrt32 (add32 (div32ofNat (sum32 (dx.map (fun v => mul32 v v))) x.length) eps)
  List.zipWith (fun y gb => fma32 y gb.1 gb.2) (dx.map (fun v => mul32 v r)) (List.zip g b)
/-- The largest of a row, NaN apart. -/
def maxOf (l : List W32) : W32 := l.foldl (fun m v => if isNaN32 v then m else if ordKey v > ordKey m then v else m) (f32inf true)
/-- softmax in FP32: EXP of the difference from the row's largest, times RECIP of their sum. -/
def softmax (l : List W32) : List W32 :=
  let m := maxOf l
  let es := l.map (fun v => exp32 (sub32 v m))
  let r := recip32 (sum32 es)
  es.map (fun v => mul32 v r)
/-- Column `k` of a list of rows. -/
def column (xs : List (List W32)) (k : Nat) : List W32 := xs.map (fun x => x.getD k 0)
/-- One head over a sequence (R147): Q, K and V as N8 rows, softmax outputs as N8 rows; and how many of these rows are degenerate. -/
def head (hd : Nat) (q k v : List (List W32)) : List (List W32) × Nat :=
  let n8 (x : List W32) : CodeRow := quantise x 127 0x3F80 .fp32
  let qs := q.map n8
  let ks := k.map n8
  let vs := (laneRows 0 1 hd v.length v.flatten).map n8
  let inv := divSqrt (2 ^ 149) hd
  let ps := qs.map (fun r => n8 (softmax (ks.map (fun y => mul32 (keyOf r.scale r.codes y.scale y.codes) inv))))
  (ps.map (fun p => vs.map (fun y => keyOf p.scale p.codes y.scale y.codes)), degens qs + degens ks + degens vs + degens ps)
/-- attention of one sequence: `qkv` rows of 3 × `D_MODEL`. -/
def attention (d : ModelDesc) (qkv : List (List W32)) : List (List W32) × Nat :=
  let part (k h : Nat) : List (List W32) := qkv.map (fun r => (r.drop (k * d.dModel + h * d.headDim)).take d.headDim)
  let hs := (List.range d.heads).map (fun h => head d.headDim (part 0 h) (part 1 h) (part 2 h))
  ((List.range qkv.length).map (fun t => (hs.map (fun h => h.1.getD t [])).flatten), sumNat (hs.map (·.2)))
def addRows (a b : List (List W32)) : List (List W32) := List.zipWith (fun x y => List.zipWith add32 x y) a b
/-- Cuts rows back into sequences of the given lengths. -/
def cutSeqs : List Nat → List (List W32) → List (List (List W32))
  | [], _ => []
  | k :: ks, xs => xs.take k :: cutSeqs ks (xs.drop k)
/-- One block over all rows of a task; attention runs within each sequence. -/
def block (e : MEnv) (lens : List Nat) (b : Nat) (x : List (List W32)) (c : MCount) : List (List W32) × MCount :=
  let d := e.d
  let D := d.dModel
  let v (o k : Nat) : List W32 := f32s e.img (vecOff d b + 4 * o) k
  let o1 := 5 * D + d.ffn
  let ln (i : Nat) : List W32 → List W32 := lnorm d.lnEps (v (o1 + 2 * i * D) D) (v (o1 + 2 * i * D + D) D)
  let pre := d.flags.testBit 0
  let (qkv, c) := layer e (4 * b) (v 0 (3 * D)) (if pre then x.map (ln 0) else x) c
  let a := (cutSeqs lens qkv).map (attention d)
  let c := { c with degen := c.degen + sumNat (a.map (·.2)) }
  let (o, c) := layer e (4 * b + 1) (v (3 * D) D) (a.map (·.1)).flatten c
  let x := addRows x o
  let x := if pre then x else x.map (ln 0)
  let (u, c) := layer e (4 * b + 2) (v (4 * D) d.ffn) (if pre then x.map (ln 1) else x) c
  let (w, c) := layer e (4 * b + 3) (v (4 * D + d.ffn) D) (u.map (fun r => r.map gelu32)) c
  let x := addRows x w
  (if pre then x else x.map (ln 1), c)
def blocksRun (e : MEnv) (lens : List Nat) : Nat → Nat → List (List W32) → MCount → List (List W32) × MCount
  | 0, _, x, c => (x, c)
  | k + 1, b, x, c =>
    let (x, c) := block e lens b x c
    blocksRun e lens k (b + 1) x c
/-- POOL of one sequence: the mean over tokens or the first token; an empty sequence has neither (log 32). -/
def poolSeq (d : ModelDesc) (xs : List (List W32)) : List W32 :=
  match xs with
  | [] => (List.range d.dModel).map (Config.emptyOut d.model)
  | x :: _ => if d.pool = 0 then (List.range d.dModel).map (fun j => div32ofNat (sum32 (column xs j)) xs.length) else x
/-- `model(tok)` for each sequence of one task: the outputs and what the task counts. -/
def runModel (e : MEnv) (seqs : List (List Nat)) : List (List W32) × MCount :=
  let d := e.d
  let embed (s : List Nat) : List (List W32) := s.mapIdx (fun t tok =>
    let r := wideRow (wRow e.img 0 d.vocab d.dModel tok)
    if d.flags.testBit 2 then r else List.zipWith add32 r (wideRow (wRow e.img (posOff d) d.maxSeq d.dModel t)))
  let lens := seqs.map List.length
  let (x, c) := blocksRun e lens d.blocks 0 ((seqs.map embed).flatten) {}
  let x := if d.flags.testBit 0 then x.map (lnorm d.lnEps (f32s e.img (finalOff d) d.dModel) (f32s e.img (finalOff d + 4 * d.dModel) d.dModel)) else x
  let ps := (cutSeqs lens x).map (poolSeq d)
  if d.outDim = 0 then (ps, c)
  else
    let bias := f32s e.img (finalOff d + (if d.flags.testBit 0 then 8 * d.dModel else 0)) d.outDim
    layer e (4 * d.blocks) bias ps c

/-! ### Loading (R150, R151) -/

/-- Frees the objects of the copies of a model that `keep` does not name. -/
def dropCopies (clk : Clock) (p m : Nat) (keep : Nat → Bool) (n : Node) : Node :=
  dropUses clk p (fun u => match u with
    | .model k v => k == m && !keep v
    | .vectors k v => k == m && !keep v
    | _ => false) n
/-- Frees replaced copies that no batch pins. -/
def freeCopies (clk : Clock) (p m : Nat) (n : Node) : Node :=
  let n := modP p (fun x => { x with mdls := mmod x.mdls m (fun y =>
    { y with old := y.old.filter (fun o => x.batches.any (fun b => b.2.model == m && b.2.ver == o.1)) }) }) n
  match mget (getP n p).mdls m with
  | none => n
  | some y => dropCopies clk p m (fun v => (v == y.version && y.cur.isSome) || (v == y.version + 1 && y.load.isSome) || y.old.any (fun o => o.1 == v)) n
/-- Takes the space of a new copy beside the current one: its objects, and the window of a streamed model that has none. -/
def reserveCopy (p m ver : Nat) (d : ModelDesc) (n : Node) : Option Node :=
  let pol : W64 := if d.flags.testBit 1 then 0x01E else usePolicy (.model m ver)
  ((makeObj p (.model m ver) pol (modelBytes d m ver (.model m ver)) n).bind
    (makeObj p (.vectors m ver) (usePolicy (.vectors m ver)) (modelBytes d m ver (.vectors m ver)))).bind
    (fun n => if (objUsed (getP n p) (.window m)).isSome then some n else makeObj p (.window m) (usePolicy (.window m)) (windowBytes d) n)
/-- A load ends without a new copy: what it took is freed (R150, Table 7-5). -/
def dropLoad (clk : Clock) (p m : Nat) (n : Node) : Node :=
  match mget (getP n p).mdls m with
  | none => n
  | some y =>
    let n := freeCopies clk p m (modP p (fun x => { x with mdls := mmod x.mdls m (fun y => { y with load := none }) }) n)
    if y.cur.isSome then n else dropUses clk p (· == .window m) n
/-- The copy is there: digest and commit (R150, R151). -/
def modelFinish (p m : Nat) (clk : Clock) (host : Mem) (n : Node) : Node :=
  match mget (getP n p).mdls m with
  | none => n
  | some y => match y.load with
    | none => n
    | some t => match cmdOf n t with
      | none => n
      | some c =>
        let img := Mem.readN host c.entry.addr0 c.entry.arg0
        if sha384 img ≠ Mem.readN host c.entry.addr1 48 then invalid clk t 0 1 (dropLoad clk p m n)
        else
          let y' := { y with version := y.version + 1, cur := some img, load := none, old := y.old ++ (y.cur.map (fun c => (y.version, c))).toList }
          post clk t stSuccess 0 (freeCopies clk p m (modP p (fun x => { x with mdls := mset x.mdls m y' }) n))
/-- The checks of `MODEL_LOAD`, and the start of its copy; with `whole` it runs to its end in the same step. -/
def modelLoad (whole : Bool) : Job := fun clk host t e n =>
  match (getFn n t.fn).map with
  | none => invalid clk t 0x04 0 n
  | some p => match modelOf (getP n p) e.target with
    | none => invalid clk t 0x04 0 n
    | some d =>
      if e.arg0 ≠ imageBytes d then invalid clk t 0x18 0 n
      else
        let y := (mget (getP n p).mdls e.target).getD {}
        if y.load.isSome then post clk t stBusy 0 n
        else match reserveCopy p e.target (y.version + 1) d n with
          | none => post clk t stNoSpace 0 n
          | some n =>
            let n := modP p (fun x => { x with mdls := mset x.mdls e.target { y with load := some t } }) n
            if whole then modelFinish p e.target clk host n else n
/-- `MODEL_LOAD`: at once, or its fetch and later its end, between which the copy is in progress (log 157). -/
def execModelLoad (e : Env) (ph : LoadPhase) (s : State) : Host.Outcome State Fault Refusal :=
  match ph with
  | .whole q => run e (hostCmd Rows.modelLoad anyEntry noChk fnPtn (modelLoad true) q) s
  | .start q => run e (hostCmd Rows.modelLoad anyEntry noChk fnPtn (modelLoad false) q) s
  | .finish p m => run e (modelFinish p m) s

/-! ### Batches (R152, R153) -/

def Task.tokens (t : Task) : Nat := (t.seqs.map List.length).foldl (· + ·) 0
/-- The tasks of a batch: oldest first while their tokens fit; the first always goes. -/
def fitTasks (cap : Nat) : Nat → List Task → List Task
  | _, [] => []
  | used, t :: ts => if used + t.tokens ≤ cap then t :: fitTasks cap (used + t.tokens) ts else []
def batchOf (q : List Task) : List Task := match q with
  | [] => []
  | t :: ts => t :: (if t.batchTok < t.tokens then [] else fitTasks t.batchTok t.tokens ts)
/-- A launch is due (R152). -/
def batchDue (now : Nat) (q : List Task) : Bool := match q with
  | [] => false
  | t :: _ => decide (t.batchTok ≤ (q.map Task.tokens).foldl (· + ·) 0) || decide (t.at_ + 300 * t.batchUs ≤ now) || q.any (·.urgent)
/-- Cores of the partition that no batch runs on. -/
def coresLeft (x : Ptn) : Nat := ones 64 x.ent.cores - sumNat (x.batches.map (fun b => b.2.cores))
/-- The thread that a task works for, and its command. -/
def taskParent (n : Node) (p : Nat) (t : Task) : Nat × Option Tok :=
  let ofQ (i : Nat) : Nat × Option Tok := ((getY n p i).map (fun y => (y.ctx, y.tok))).getD (noCtx, none)
  match t.for_ with
  | .encodeQuery i => ofQ i
  | .score i => ofQ i
  | .encodeInsert s q => (((getC n p s).bind (fun c => c.upds.find? (fun u => u.seq == q))).map (fun u => (u.ctx, u.tok))).getD (noCtx, none)
/-- Tasks that still wait for a context get theirs, all of them or none (R88). -/
def taskThreads (clk : Clock) (p : Nat) : List Task → Node → Option (List Task × Node)
  | [], n => some ([], n)
  | t :: ts, n =>
    if t.ctx ≠ noCtx then (taskThreads clk p ts n).map (fun r => (t :: r.1, r.2))
    else
      let (par, tok) := taskParent n p t
      let kind : Nat := match t.for_ with
        | .score _ => 9
        | _ => 2
      (takeCtx p { threadCtx clk p kind 2 tok n with parent := par } n).bind (fun c => (taskThreads clk p ts c.2).map (fun r => ({ t with ctx := c.1 } :: r.1, r.2)))
/-- The program's settings for a task of a model. -/
def taskEnv (x : Ptn) (d : ModelDesc) (img : List Byte) (t : Task) : MEnv := { d := d, img := img, rhoAct := (quantOf x).rhoAct, thr := t.thr, forceN8 := t.forceN8 }
/-- `MODEL_BATCH_LAUNCH`: the tasks latch their settings (R107) and pin the current copy. A batch takes `CORES` of its lead's stage that no other batch holds (R153); a streamed model
runs one batch at a time. -/
def batchLaunch (p m : Nat) (clk : Clock) (_host : Mem) (n : Node) : Node :=
  let x := getP n p
  match mget x.mdls m, modelOf x m with
  | some y, some d =>
    let stream := d.flags.testBit 1
    let cores := ((y.queue.head?).map (·.cores)).getD 0
    if !schedules x || y.cur.isNone || !batchDue (pctr clk p) y.queue || (stream && x.batches.any (fun b => b.2.model == m)) || decide (coresLeft x < cores) then n
    else match taskThreads clk p ((batchOf y.queue).map (fun t => { t with thr := effThr x, forceN8 := bit x.qntCfg 24 })) n with
      | none => n
      | some (ts, n) =>
        let b : Batch := { model := m, tasks := ts, ver := y.version, cores := cores, at_ := pctr clk p
                           n8s := if stream then ts.map (fun t => (runModel (taskEnv x d (y.cur.getD []) t) t.seqs).2.inN8) else [] }
        let n := foldNode ts (fun t n => stepCtx clk p t.ctx 3 n) n
        count p .mdlBatches 1 (modP p (fun x => { x with
          mdls := mmod x.mdls m (fun y => { y with queue := y.queue.drop ts.length, nextRec := if stream then 1 else 0, window := [] })
          batches := mset x.batches x.nextB b, nextB := x.nextB + 1 }) n)
  | _, _ => n
def execModelBatchLaunch (e : Env) (p model : Nat) (s : State) : Host.Outcome State Fault Refusal := run e (batchLaunch p model) s
/-- CTL cycles that layer `j` of a batch takes (R153, R99, log 37): each core runs its share of the blocks of 128 output rows, one lane load each; a load takes the longer of its fill and
one cycle for 64 codes of each token row, twice that for a task that runs the layer in N8. -/
def layerTime (d : ModelDesc) (b : Batch) (j : Nat) : Nat :=
  let (out, inn) := (layerShapes d).getD j (0, 0)
  let rows (t : Task) : Nat := if j = 4 * d.blocks then t.seqs.length else t.tokens
  let work := sumNat (b.tasks.mapIdx (fun i t => rows t * (if (b.n8s.getD i []).contains j then 2 else 1)))
  cdiv (cdiv (cdiv out 128) (max 1 b.cores) * max (cdiv inn 4) (work * cdiv inn 64)) 2
/-- `MODEL_LAYER_FETCHED`: the record being fetched is wholly in the window; its layer starts once the layer before has ended, and the next fetch starts once the layer `WINDOW` before it
has left its slot (R154, log 37). A fetch whose slot is not free yet cannot have ended. -/
def layerFetched (p m : Nat) (clk : Clock) (_host : Mem) (n : Node) : Node :=
  let x := getP n p
  match mget x.mdls m, modelOf x m, x.batches.find? (fun b => b.2.model == m) with
  | some y, some d, some (i, b) =>
    let j := y.nextRec - 1
    let now := pctr clk p
    if y.nextRec = 0 || !schedules x || (decide (d.window ≤ j) && decide (now < b.ends.getD (j - d.window) 0)) then n
    else
      let ends := b.ends ++ [max now (b.ends.getLast?.getD b.at_) + layerTime d b j]
      modP p (fun x => { x with
        mdls := mmod x.mdls m (fun y => { y with window := (y.window ++ [j]).filter (fun k => decide (now < ends.getD k 0))
                                                 nextRec := if j + 1 < layersOf d then j + 2 else 0 })
        batches := mset x.batches i { b with layer := j + 1, ends := ends } }) n
  | _, _, _ => n
def execModelLayerFetched (e : Env) (p model : Nat) (s : State) : Host.Outcome State Fault Refusal := run e (layerFetched p model) s
/-- What a finished task continues: ENCODE of a query (R140, R70), ENCODE of an insert (R51), SCORE (R141). A vector that ENCODE makes
and R70 refuses ends its command with offset 0 of the query data (R255). -/
def taskDone (clk : Clock) (p : Nat) (t : Task) (outs : List (List W32)) (n : Node) : Node :=
  match t.for_ with
  | .encodeInsert s q => insertEncoded clk p s q (outs.headD []) n
  | .score i => finishScore clk p i (outs.map (fun o => o.headD qnan)) n
  | .encodeQuery i => match getY n p i with
    | none => n
    | some y => match getC n p y.coll with
      | none => n
      | some c =>
        let v := outs.headD []
        if (firstBad v).isSome || (prepVec (metricOf c.desc.metric) v).isNone then
          match y.tok with
          | some k => post clk k stInvalidField (badField 0 2) (abortQueries clk p k false n)
          | none => n
        else vectorReady clk p i v (modYs p i (fun s => { s with encoded := true }) n)
/-- Bytes of the image that a batch reads, as (offset, length): the rows of its tokens and of their positions, the vector and layer records. -/
def modelRanges (d : ModelDesc) (ts : List Task) : List (Nat × Nat) :=
  let row (off rows r : Nat) : List (Nat × Nat) := [(off + r * d.dModel / 2, d.dModel / 2), (off + rows * d.dModel / 2 + 2 * r, 2)]
  let seqs := (ts.map (·.seqs)).flatten
  ((nubNat seqs.flatten).map (row 0 d.vocab)).flatten ++
    (if d.flags.testBit 2 then [] else ((List.range ((seqs.map List.length).foldl max 0)).map (row (posOff d) d.maxSeq)).flatten) ++ [(vecOff d 0, imageBytes d - vecOff d 0)]
/-- The same as pieces of the copy's objects: (object, offset, length). -/
def modelReads (d : ModelDesc) (m ver : Nat) (ts : List Task) : List (ObjUse × Nat × Nat) :=
  ((modelRanges d ts).map (fun r => (modelSegs d m ver).filterMap (fun s =>
    let lo := max r.1 s.1
    let hi := min (r.1 + r.2) (s.1 + s.2.1)
    if lo < hi then some (s.2.2.1, s.2.2.2 + lo - s.1, hi - lo) else none))).flatten
/-- Words of a copy that a batch reads: those in error, and those that hold poison. -/
def modelLocs (p m ver : Nat) (d : ModelDesc) (ts : List Task) (err : Bool) (n : Node) : List MemLoc :=
  let rs := modelReads d m ver ts
  let ws (o : Nat × Obj) : List Nat := if err then n.mem.errs.filterMap (fun f => match f.loc with
      | .obj q ob off => if q = p ∧ ob = o.1 then some (off / 8 * 8) else none
      | _ => none) else o.2.poison
  (((getP n p).objs.map (fun o => ((ws o).filter (fun w => rs.any (fun r => r.1 == o.2.use_ && decide (w < r.2.1 + r.2.2 ∧ r.2.1 < w + 8)))).map (MemLoc.obj p o.1))).flatten)
/-- A copy's weight image as a batch reads it: a poisoned word reads as the data of the poison codeword (R188, log 149). -/
def modelRead (x : Ptn) (m ver : Nat) (d : ModelDesc) (img : List Byte) : List Byte :=
  (modelSegs d m ver).foldl (fun bs s => match objUsed x s.2.2.1 with
    | none => bs
    | some o => (o.2.poison.filter (fun w => decide (s.2.2.2 ≤ w ∧ w < s.2.2.2 + s.2.1))).foldl (fun bs w => patch bs (s.1 + w - s.2.2.2) (List.replicate 8 0xFF)) bs) img
/-- One task of a batch that has ended. -/
def endTask (clk : Clock) (p : Nat) (d : ModelDesc) (img : List Byte) (n : Node) (t : Task) : Node :=
  let (outs, c) := runModel (taskEnv (getP n p) d img t) t.seqs
  let n := delCtx p t.ctx n
  taskDone clk p t outs
    (count p .mdlTasks 1 (count p .mdlTokens t.tokens (count p .layerUnits c.units (count p .layerN8 c.n8 (count p .forcedN8 c.forced
      (count p .convValues c.conv (count p .clipValues c.clip (count p .degenerate c.degen n))))))))
/-- `MODEL_BATCH_END`. -/
def batchEnd (p i : Nat) (clk : Clock) (_host : Mem) (n : Node) : Node :=
  let x := getP n p
  match mget x.batches i with
  | none => n
  | some b => match mget x.mdls b.model, modelOf x b.model with
    | some y, some d =>
      let img := if y.version = b.ver then y.cur else mget y.old b.ver
      if !schedules x || (d.flags.testBit 1 && (decide (b.layer < layersOf d) || decide (pctr clk p < b.ends.getLast?.getD 0))) then n
      else
        let lead := b.tasks.head?
        let thread := (lead.map (·.ctx)).getD noCtx
        let n := readAll clk p 0 (lead.bind (fun t => (taskParent n p t).2)) thread (modelLocs p b.model b.ver d b.tasks true) (modelLocs p b.model b.ver d b.tasks false) n
        let n := foldNode (modelReads d b.model b.ver b.tasks) (fun r n => heatUse p r.1 r.2.1 r.2.2 false n) n
        let img := modelRead (getP n p) b.model b.ver d (img.getD [])
        let n := freeCopies clk p b.model (modP p (fun x => { x with batches := mdel x.batches i }) n)
        b.tasks.foldl (endTask clk p d img) n
    | _, _ => modP p (fun x => { x with batches := mdel x.batches i }) n

end Sys2Proof.Machine
end

