-- ==== Sys2Proof/Machine/Tables.lean ====
section
/-! DEFINITION. Embedding tables (chapter 08): their commands, the combining unit, row migrations. -/

namespace Sys2Proof.Machine

/-! ### Placement policies (R184) -/

/-- A policy that host software may not give. -/
def policyBad (x : Ptn) (w : W64) : Bool :=
  fld w 6 2 != 0 || fld w 12 4 != 0 || fld w 28 4 != 0 || fld w 40 24 != 0 || fld w 0 2 == 3 || fld w 4 2 == 3 || fld w 8 4 != 0 ||
  (bit w 2 && fld w 0 2 == 0) || (fld w 4 2 == 2 && fld w 0 2 == 1) ||
  (List.range 12).any (fun c => bit w (16 + c) && !x.ent.t2.getLsbD c) || (List.range 8).any (fun s => bit w (32 + s) && !x.ent.stks.getLsbD s)

/-! ### Creation and drop (R158, R161) -/

/-- Logical cores of a partition. -/
def coresOf (x : Ptn) : Nat := popcount x.ent.cores.toNat 64
/-- Table 8-1. -/
def tblOf (bs : List Byte) : Tbl :=
  { train := leAt bs 1 1 % 2 == 1, width := leAt bs 2 2, rows := leAt bs 4 4, hotRows := leAt bs 8 4, canopyK := leAt bs 0x0C 4
    tblId := BitVec.ofNat 64 (leAt bs 0x10 8), policy := BitVec.ofNat 64 (leAt bs 0x18 8), name := slice bs 0x20 32 }
/-- Offset of a descriptor field that R158 refuses. -/
def tblBad (x : Ptn) (bs : List Byte) : Option Nat :=
  let t := tblOf bs
  if 64 ≤ leAt bs 0 1 || mhas x.tbls (leAt bs 0 1) then some 0x00
  else if 2 ≤ leAt bs 1 1 then some 0x01
  else if t.width < 16 || 1024 < t.width || t.width % 16 != 0 then some 0x02
  else if t.rows = 0 then some 0x04
  else if 1048576 < t.hotRows || t.hotRows % 64 != 0 then some 0x08
  else if 1024 * coresOf x < t.canopyK then some 0x0C
  else if t.tblId = 0 then some 0x10
  else if policyBad x t.policy then some 0x18
  else if !nameOk t.name || x.tbls.any (fun y => y.2.name == t.name) then some 0x20
  else none
/-- Makes a table's home array, hot region and hot directory under their policies (R158, R159, Table 9-5). -/
def makeTbl (p k : Nat) (d : Tbl) (n : Node) : Option Node :=
  ((makeObj p (.home k) d.policy (4 * d.width * d.rows) n).bind (makeObj p (.hot k) (usePolicy (.hot k)) (4 * d.width * d.hotRows))).bind
    (makeObj p (.hotDir k) (usePolicy (.hotDir k)) (8 * d.hotRows))
def tableCreate : Job := fun clk host t e n =>
  match (getFn n t.fn).map with
  | none => invalid clk t 0 0 n
  | some p =>
    let x := getP n p
    let bs := Mem.readN host e.addr0 64
    match tblBad x bs with
    | some off => invalid clk t off 1 n
    | none =>
      let d := tblOf bs
      let (a, b) := tblBytes d.width d.rows d.hotRows d.policy
      if freeT1 n p < a || freeT2 n p < b || 1024 * coresOf x < d.canopyK + sumNat (x.tbls.map (fun y => y.2.canopyK)) then post clk t stNoSpace 0 n
      else match makeTbl p (leAt bs 0 1) d (modP p (fun x => { x with tbls := mset x.tbls (leAt bs 0 1) { d with own := { owner := n.lnk.nodeId, ownerP := p } } }) n) with
        | some n => post clk t stSuccess 0 n
        | none => post clk t stNoSpace 0 n
def execTableCreate (e : Env) (q : QRef) (s : State) : Host.Outcome State Fault Refusal :=
  run e (hostCmd Rows.tableCreate anyEntry noChk fnPtn tableCreate q) s

/-- `TARGET` names a table number. -/
def tblChk (_ : Node) (_ : Nat) (e : Sqe) : Option Nat := if 64 ≤ e.target then some 0x04 else none
/-- A job on the table of `TARGET` that the function's partition holds. -/
def onTbl (g : Clock → Mem → Tok → Sqe → Nat → Tbl → Node → Node) : Job := fun clk host t e n =>
  match (getFn n t.fn).map with
  | none => invalid clk t 0 0 n
  | some p => match tblRefuses (getT n p e.target), getT n p e.target with
    | some st, _ => post clk t st 0 n
    | none, some y => g clk host t e p y n
    | none, none => post clk t stTableUnavail 0 n

/-! ### Adds (R171 to R173) -/

/-- Logs an operation for a migration that runs; a log of 64 in FORWARD leads to CUTOVER (Table 8-4). -/
def logOp (p tn r : Nat) (op : RowOp) (n : Node) : Node :=
  modT p tn (fun t => { t with migs := modAll (fun m => m.row == r) (fun m => { m with
    log := m.log ++ [op], st := if m.st == .forward && decide (63 ≤ m.log.length) then .cutover else m.st }) t.migs }) n
/-- The row migrates and is in CUTOVER: new operations on it are held. -/
def inCutover (n : Node) (p tn r : Nat) : Bool := (getT n p tn).any (fun t => t.migs.any (fun m => m.row == r && m.st == .cutover))
/-- Every prefetch copy of the row is invalid (R167). -/
def dropPre (p tn r : Nat) (n : Node) : Node :=
  modP p (fun x => { x with prefetch := x.prefetch.map (fun c => if c.tbl = tn then { c with rows := c.rows.filter (· != r) } else c) }) n
/-- The combining unit issues one add: it reaches the migration's log, an add is an access (R169), and it waits to be applied at its memory. In CUTOVER it is held. -/
def issueAdd (p : Nat) (i : Nat) (a : Add) (n : Node) : Node :=
  if inCutover n p a.tbl a.row then
    modT p a.tbl (fun t => { t with migs := modAll (fun m => m.row == a.row) (fun m => { m with held := m.held ++ [i] }) t.migs })
      (modP p (fun x => { x with adds := mset x.adds i { a with held := true } }) n)
  else
    let n := dropPre p a.tbl a.row (modP p (fun x => { x with adds := mset x.adds i { a with held := false } }) (logOp p a.tbl a.row a.op n))
    match a.op with
    | .add _ => count p .embAdds 1 (accessRow p a.tbl a.row a.adm n).1
    | .write _ => n
/-- Adds that migrations held go to the row's location. -/
def releaseHeld (p : Nat) (is : List Nat) (n : Node) : Node :=
  foldNode is (fun i n => match mget (getP n p).adds i with
    | some a => issueAdd p i a n
    | none => n) n
/-- Abandons migrations of a table: each row stays at its old location, where the adds held go (Table 8-5). -/
def abandonMigs (p tn : Nat) (n : Node) : Node :=
  match getT n p tn with
  | none => n
  | some t => releaseHeld p ((t.migs.map (·.held)).flatten) (count p .migAbandoned t.migs.length (modT p tn (fun y => { y with migs := [] }) n))
def tableDrop : Job := onTbl fun clk _ t e p _ n =>
  finishTblDrop clk p e.target (abandonMigs p e.target (modT p e.target (fun y => { y with st := .draining, drop := some t }) n))
def execTableDrop (e : Env) (q : QRef) (s : State) : Host.Outcome State Fault Refusal :=
  run e (hostCmd Rows.tableDrop anyEntry tblChk fnPtn tableDrop q) s
/-- A new add: issued, or kept back by a hold (R308, R317). It keeps the ADMIT of its fetch (R176). -/
def newAdd (p : Nat) (a : Add) (n : Node) : Node :=
  let i := (getP n p).nextAdd
  let a := { a with adm := admitOf (getP n p) }
  let n := modP p (fun x => { x with nextAdd := i + 1 }) n
  let n := match a.tok with
    | some t => modWait t (fun d => { d with adds := d.adds + 1 }) n
    | none => n
  if a.held then modP p (fun x => { x with adds := mset x.adds i a }) n else issueAdd p i a n
/-- Adds of a table that a hold or a release keeps back, those that a migration in CUTOVER holds apart. -/
def keptAdds (x : Ptn) (tn : Nat) : List (Nat × Add) :=
  x.adds.filter (fun a => a.2.tbl == tn && a.2.held && !(mget x.tbls tn).any (fun t => t.migs.any (fun m => m.held.contains a.1)))
/-- Issues them, in order; the time since `since` is not counted against their threads (R286). -/
def releaseAdds (clk : Clock) (p tn since : Nat) (n : Node) : Node :=
  let l := keptAdds (getP n p) tn
  foldNode l (fun a n => issueAdd p a.1 a.2 n) (creditHeld clk p since (l.map (·.2.ctx)) n)
/-- The contexts of `UPDATE` threads that have no add left are free. -/
def sweepUpds (p : Nat) (n : Node) : Node :=
  modP p (fun x => { x with ctxs := x.ctxs.filter (fun c => c.2.kind != 0x0B || x.adds.any (fun a => a.2.ctx == c.1)) }) n
/-- DRAM rows that an add to a row opens where the row lies in tier 1; none in tier 2 (R196). -/
def addActs (n : Node) (p tn r : Nat) : Nat := match getT n p tn with
  | some t =>
    let (_, off) := rowPlace tn t r
    if locTier1 n p (.row p tn r 0) then (if mhas t.dir r then cdiv (4 * t.width) 2048 else cdiv (off % 2048 + 4 * t.width) 2048) else 0
  | none => 0
/-- What an add meets in memory before it is applied (R190, R194): words in error, recorded as UE_MODIFY, and poison, both against its thread; and the activates of its Darner. A write of the
whole row meets nothing: errors under it are overwritten. -/
def addMeets (clk : Clock) (p : Nat) (a : Add) (n : Node) : Node := match getT n p a.tbl, a.op with
  | some t, .add _ =>
    let acts := addActs n p a.tbl a.row
    let dop := if acts = 0 then 0 else 4
    let n := meetErrs clk 2 dop a.tok a.ctx (isRow p a.tbl a.row) (metLocs clk p dop a.ctx a.tok (rowWords p a.tbl t a.row) n)
    let n := if (getT n p a.tbl).any (rowPoisoned · a.row) then count p .embPoison 1 n else n
    heatRow p a.tbl a.row true (count p .drnActs acts n)
  | _, _ => heatRow p a.tbl a.row true (modMem (fun m => { m with errs := m.errs.filter (fun f => !isRow p a.tbl a.row (normLoc n f.loc)) }) n)
/-- An add applied at its memory location: the row changes but for poisoned elements, the log record is written, its command may end. -/
def applyAdd (clk : Clock) (p i : Nat) (a : Add) (n : Node) : Node :=
  let n := addMeets clk p a n
  let n := sweepUpds p (stepCtx clk p a.ctx 3 (modP p (fun x => { x with adds := mdel x.adds i }) (modT p a.tbl (fun t => applyOp t a.row a.op) n)))
  let (delta, wr) := match a.op with
    | .add d => (d, false)
    | .write v => (v, true)
  let n := if (getT n p a.tbl).isSome then commitLog clk p .table a.tbl (.train { epoch := (getP n p).epoch, row := a.row, delta := delta, write := wr }) (if a.dur then a.tok else none) n else n
  let n := match a.tok with
    | some t => finishCmd clk t (modWait t (fun d => { d with adds := d.adds - 1 }) (markCmd t false true n))
    | none => n
  finishTblDrop clk p a.tbl n
/-- `ADD_APPLIED`: the oldest issued add of its row. -/
def addApplied (p i : Nat) (clk : Clock) (_host : Mem) (n : Node) : Node :=
  let x := getP n p
  match mget x.adds i with
  | none => n
  | some a =>
    if a.held || x.st == .resetting || (issuedOps x a.tbl a.row).head?.map (·.1) != some i then n else applyAdd clk p i a (ungate p n)
/-- Applies every issued add of a row: a later write or the switch of a migration follows them in the row's order. -/
def settleRow (clk : Clock) (p tn r : Nat) (n : Node) : Node := foldNode (issuedOps (getP n p) tn r) (fun a n => applyAdd clk p a.1 a.2 n) n

/-! ### `TABLE_WRITE` and `TABLE_READ` (R160, R164) -/

/-- Rows of an entry, and its range check. -/
def rowsBad (t : Tbl) (e : Sqe) : Option Nat := if t.rows ≤ e.arg0 then some 0x18 else if 65536 < e.arg1 || t.rows < e.arg0 + e.arg1 then some 0x20 else none
/-- One row of a `TABLE_WRITE` in every copy. -/
def writeRow (clk : Clock) (p tn r : Nat) (v : List W32) (dur : Option Tok) (n : Node) : Node :=
  let n := dropPre p tn r (logOp p tn r (.write v) (settleRow clk p tn r n))
  let n := addMeets clk p { tok := dur, tbl := tn, row := r, op := .write v } n
  commitLog clk p .table tn (.train { epoch := (getP n p).epoch, row := r, delta := v, write := true }) dur (modT p tn (fun t => applyOp t r (.write v)) n)
/-- Ownership refuses an update of a table (Table 13-14). -/
def tblOwnRefuses (t : Tbl) : Option (Nat × Nat) := match t.own.st with
  | .released => some (stBusy, t.own.owner.toNat + 2 ^ 32 * t.own.ownerP)
  | .claiming => some (stBusy, t.own.owner.toNat + 2 ^ 32 * t.own.ownerP)
  | _ => none
/-- Adds and writes are kept back (R308, R317). -/
def tblHeld (t : Tbl) : Bool := t.dur.held || t.own.st == .releasing
/-- The rows of a `TABLE_WRITE`, written at once but for those in CUTOVER. -/
def writeRows (clk : Clock) (p tn f w : Nat) (t : Tok) (dur : Bool) (vs : List W32) (m : Nat) (n : Node) : Node :=
  foldNode (List.range m) (fun i n =>
    let v := (vs.drop (w * i)).take w
    if inCutover n p tn (f + i) then newAdd p { tok := some t, tbl := tn, row := f + i, op := .write v, dur := dur } n
    else writeRow clk p tn (f + i) v (if dur then some t else none) n) n
/-- The table takes no further writes: its home array is SEALED (R183, Table 9-4). -/
def tblSealed (x : Ptn) (tn : Nat) (t : Tbl) : Bool := bit (((objUsed x (.home tn)).map (·.2.policy)).getD t.policy) 3
def tableWrite : Job := onTbl fun clk host t e p y n =>
  match rowsBad y e, tblOwnRefuses y with
  | some off, _ => invalid clk t off 0 n
  | none, some (st, r) => post clk t st r n
  | none, none =>
    if tblSealed (getP n p) e.target y then post clk t stObjectSealed 0 n else
    let k := y.width * e.arg1
    let vs := words32 (Mem.readN host e.addr0 (4 * k)) k
    match firstBad vs with
    | some i => invalid clk t (4 * i) 1 n
    | none =>
      let n := modWait t (fun d => d) n
      if tblHeld y then
        finishCmd clk t (foldNode (List.range e.arg1) (fun i n =>
          newAdd p { tok := some t, tbl := e.target, row := e.arg0 + i, op := .write ((vs.drop (y.width * i)).take y.width), dur := e.durable, held := true } n) n)
      else finishCmd clk t (writeRows clk p e.target e.arg0 y.width t e.durable vs e.arg1 (markCmd t false true n))
def execTableWrite (e : Env) (q : QRef) (s : State) : Host.Outcome State Fault Refusal :=
  run e (hostCmd Rows.tableWrite anyEntry tblChk noPtn tableWrite q) s
/-- The bytes of a row as `TABLE_READ` copies them: a poisoned 64-bit word reads as all ones (R189). -/
def rowBytes (x : Ptn) (tn : Nat) (t : Tbl) (r : Nat) : List Byte :=
  bytesOf32 ((rowSeen x tn t r).mapIdx (fun j v => if lostAt t r j then 0xFFFFFFFF else v))
def tableRead : Job := onTbl fun clk _ t e p y n =>
  match rowsBad y e with
  | some off => invalid clk t off 0 n
  | none =>
    let rs := (List.range e.arg1).map (e.arg0 + ·)
    let n := foldNode rs (fun r n => readWords clk p (some t) 0xFFFFFFFF (rowWords p e.target y r) (isRow p e.target r) (heatRow p e.target r false n)) n
    let y := (getT n p e.target).getD y
    post clk t (if rs.any (rowPoisoned y) then stDataPoison else stSuccess) 0 (emit (.data e.addr0 ((rs.map (rowBytes (getP n p) e.target y)).flatten)) n)
def execTableRead (e : Env) (q : QRef) (s : State) : Host.Outcome State Fault Refusal :=
  run e (hostCmd Rows.tableRead anyEntry tblChk noPtn tableRead q) s

/-! ### Table operation descriptors (Table 8-2, R162) -/

structure TOp where
  table : Nat
  mode  : Nat
  weighted : Bool
  bagFlags : Bool
  cnt   : Nat
  idx   : Nat
  w     : Nat
  offs  : Nat
  data  : Nat
  flag  : Nat
def topOf (bs : List Byte) : TOp :=
  { table := leAt bs 0 1, mode := leAt bs 1 1, weighted := leAt bs 2 2 % 2 == 1, bagFlags := leAt bs 2 2 / 2 % 2 == 1, cnt := leAt bs 4 4
    idx := leAt bs 8 8, w := leAt bs 0x10 8, offs := leAt bs 0x18 8, data := leAt bs 0x20 8, flag := leAt bs 0x28 8 }
/-- Offset of a field outside its range. -/
def topBad (upd : Bool) (bs : List Byte) : Option Nat :=
  let o := topOf bs
  let rowMode := upd && o.mode == 0
  if 64 ≤ o.table then some 0x00
  else if (if upd then 1 else 0) < o.mode then some 0x01
  else if 4 ≤ leAt bs 2 2 then some 0x02
  else if o.cnt = 0 || (if rowMode then 1048576 else 65536) < o.cnt then some 0x04
  else if o.idx % 64 ≠ 0 then some 0x08
  else if o.w % 64 ≠ 0 then some 0x10
  else if o.offs % 64 ≠ 0 then some 0x18
  else if o.data % 64 ≠ 0 then some 0x20
  else if o.flag % 64 ≠ 0 then some 0x28
  else if !zeroAt bs 0x30 16 then some 0x30
  else none
/-- Offset of the first bag offset that breaks R162. -/
def offsBad (l : List Nat) : Option Nat :=
  if l.headD 0 ≠ 0 then some 0
  else
    let i := ((l.zip (l.drop 1)).takeWhile (fun x => decide (x.1 ≤ x.2))).length
    if i + 1 < l.length then some (4 * (i + 1))
    else if 16777216 < l.getLastD 0 then some (4 * (l.length - 1)) else none
/-- The input of a command in bags: (index, bag, weight), or the status and result that refuse it. -/
def readBags (host : Mem) (o : TOp) (rows : Nat) : Except Nat (List Tri × List Nat) :=
  let offs := (words32 (Mem.readN host o.offs (4 * (o.cnt + 1))) (o.cnt + 1)).map (·.toNat)
  match offsBad offs with
  | some x => .error (badField x 2)
  | none =>
    let k := offs.getLastD 0
    let idx := (words32 (Mem.readN host o.idx (4 * k)) k).map (·.toNat)
    let ws := if o.weighted then words32 (Mem.readN host o.w (4 * k)) k else List.replicate k 0x3F800000
    let i := (idx.takeWhile (fun r => decide (r < rows))).length
    if i < k then .error (badField (4 * i) 2)
    else match firstBad ws with
      | some j => .error (badField (4 * j) 2)
      | none =>
        let bags := ((offs.zip (offs.drop 1)).mapIdx (fun b x => List.replicate (x.2 - x.1) b)).flatten
        .ok ((List.zip idx (List.zip bags ws)).map (fun x => (x.1, x.2.1, x.2.2)), offs)
/-- A job on a table operation descriptor. -/
def onTop (upd : Bool) (g : Clock → Mem → Tok → Sqe → Nat → TOp → Tbl → Node → Node) : Job := fun clk host t e n =>
  match (getFn n t.fn).map with
  | none => invalid clk t 0 0 n
  | some p =>
    let bs := Mem.readN host e.addr0 64
    match topBad upd bs with
    | some off => invalid clk t off 1 n
    | none =>
      let o := topOf bs
      match tblRefuses (getT n p o.table), getT n p o.table with
      | some st, _ => post clk t st 0 n
      | none, none => post clk t stTableUnavail 0 n
      | none, some y => if upd && !y.train then invalid clk t 0 1 n else g clk host t e p o y n
/-- Rows that the next `POOL` of a queue pair looks up on the table: its entry is posted and its input holds (R162, log 106). -/
def nextPool (host : Mem) (t : Tok) (tn rows : Nat) (n : Node) : List Nat := match getQ n t.fn t.qid with
  | none => []
  | some q =>
    if q.sqHead = q.sqTail || q.st != .active then []
    else
      let e := nextEntry host q
      let bs := Mem.readN host e.addr0 64
      let o := topOf bs
      if e.opc ≠ Rows.pool.opc || (topBad false bs).isSome || o.table ≠ tn then []
      else match readBags host o rows with
        | .error _ => []
        | .ok (ts, _) => distinctIdx (marked ts)
/-- Rows that the prefetch space of the multiplying cores holds. -/
def preRoom (x : Ptn) (w : Nat) : Nat := fld x.embCfg 16 8 * (65536 * fld x.embCfg 8 5 / (4 * max 1 w))
/-- While a `POOL` runs, the rows of the next one on the same queue and table are prefetched, in ascending index order (R167); a row that holds poison is not kept. -/
def prefetchNext (host : Mem) (t : Tok) (p tn : Nat) (y : Tbl) (n : Node) : Node :=
  let rs := ((nextPool host t tn y.rows n).take (preRoom (getP n p) y.width)).filter (fun r => !rowPoisoned y r)
  if rs.isEmpty then n
  else modP p (fun x => { x with prefetch := x.prefetch ++ [{ fn := t.fn, qid := t.qid, tbl := tn, rows := rs }] }) (foldNode rs (fun r n => heatRow p tn r false n) n)
/-- Prefetch copies that this pair's commands named; a core drops them when the command that named them completes. -/
def preRows (x : Ptn) (t : Tok) (tn : Nat) : List Nat := ((x.prefetch.filter (fun c => c.fn == t.fn && c.qid == t.qid && c.tbl == tn)).map (·.rows)).flatten
def endPre (p : Nat) (t : Tok) (n : Node) : Node := modP p (fun x => { x with prefetch := x.prefetch.filter (fun c => !(c.fn == t.fn && c.qid == t.qid)) }) n
def poolJob : Job := onTop false fun clk host t _ p o y n =>
  match readBags host o y.rows with
  | .error r => post clk t stInvalidField r (endPre p t n)
  | .ok (ts, offs) =>
    let pre := preRows (getP n p) t o.table
    let (ci, n) := addCtx p (threadCtx clk p 0x0A 3 (some t) n) n
    let (n, outs) := poolBags clk p o.table (some t) ci pre ts o.cnt n
    let n := prefetchNext host t p o.table y (endPre p t (delCtx p ci n))
    let n := emit (.data o.data ((outs.map (fun x => bytesOf32 x.1)).flatten)) n
    let flags := List.zipWith (fun (x : List W32 × Bool) (k : Nat × Nat) => BitVec.ofNat 8 (b2n (k.1 == k.2) + 2 * b2n x.2)) outs (offs.zip (offs.drop 1))
    post clk t stSuccess 0 (if o.bagFlags then emit (.data o.flag flags) n else n)
def execPoolCmd (e : Env) (q : QRef) (s : State) : Host.Outcome State Fault Refusal :=
  run e (hostCmd Rows.pool anyEntry noChk noPtn poolJob q) s

/-! ### `UPDATE` (R171) -/

/-- Sums FP32 rows element by element, exactly, and rounds once. -/
def sumRows (w : Nat) (l : List (List W32)) : List W32 :=
  (l.foldl (fun acc v => List.zipWith Acc.add acc v) (List.replicate w ({} : Acc))).map Acc.to32
/-- The combined delta of each distinct index, ascending: rows of a ROW update. -/
def combineRows (w : Nat) (l : List (Nat × List W32)) : List (Nat × List W32) :=
  (sortBy (fun a b => decide (a ≤ b)) (nubNat (l.map (·.1)))).map (fun i => (i, sumRows w ((l.filter (fun x => x.1 == i)).map (·.2))))
/-- An infinite element is not added: adding −0 changes nothing (R98, R171). -/
def dropInf (v : List W32) : List W32 := v.map (fun x => if isInf32 x then 0x80000000 else x)
def updateJob : Job := onTop true fun clk host t e p o y n =>
  match tblOwnRefuses y with
  | some (st, r) => post clk t st r n
  | none =>
    if tblSealed (getP n p) o.table y then post clk t stObjectSealed 0 n else
    let w := y.width
    let cut (vs : List W32) (k : Nat) : List (List W32) := (List.range k).map (fun i => (vs.drop (w * i)).take w)
    let data := words32 (Mem.readN host o.data (4 * w * o.cnt)) (w * o.cnt)
    let input : Except Nat (Nat × List (Nat × List W32)) :=
      if o.mode = 0 then
        let idx := (words32 (Mem.readN host o.idx (4 * o.cnt)) o.cnt).map (·.toNat)
        let i := (idx.takeWhile (fun r => decide (r < y.rows))).length
        if i < o.cnt then .error (badField (4 * i) 2)
        else .ok (o.cnt, combineRows w (List.zip idx (cut data o.cnt)))
      else match readBags host o y.rows with
        | .error r => .error r
        | .ok (ts, _) =>
          let gs := cut data o.cnt
          .ok (ts.length, combineRows w ((combineW (sortTri ts) []).map (fun x => (x.1, (gs.getD x.2.1 []).map (mul32 x.2.2)))))
    match firstBad data, input with
    | some i, _ => invalid clk t (4 * i) 2 n
    | none, .error r => post clk t stInvalidField r n
    | none, .ok (k, ds) =>
      let n := count p .embOverflow (sumNat (ds.map (fun d => (d.2.filter isInf32).length))) (count p .embRecords k n)
      let n := modWait t (fun d => d) n
      let (ci, n) := addCtx p (threadCtx clk p 0x0B 3 (some t) n) n
      finishCmd clk t (sweepUpds p (foldNode (ds.filter (fun d => !d.2.all zero32)) (fun d n =>
        newAdd p { tok := some t, tbl := o.table, row := d.1, op := .add (dropInf d.2), dur := e.durable, held := tblHeld y, ctx := ci } n) n))
def execUpdateCmd (e : Env) (q : QRef) (s : State) : Host.Outcome State Fault Refusal :=
  run e (hostCmd Rows.update anyEntry noChk noPtn updateJob q) s

/-! ### Migrations (R174) -/

/-- `MIGRATION_COPY_WRITTEN`: COPY ends and FORWARD begins. -/
def migrationCopyWritten (p tn r : Nat) (n : Node) : Node :=
  if (getP n p).st == .resetting then n
  else modT p tn (fun t => { t with migs := modAll (fun m => m.row == r && m.st == .copy) (fun m => { m with st := .forward }) t.migs }) n
def execMigrationCopyWritten (e : Env) (p t row : Nat) (s : State) : Host.Outcome State Fault Refusal := run e (pureBody (migrationCopyWritten p t row)) s
/-- `MIGRATION_CUTOVER`: the log's remainder is replayed at the new location and the directory switches; what was issued and not yet applied at the old
location is in the copy or in the log. Adds held meanwhile go to the new location. What the log holds unreplayed when the command comes is not a state of its own: the node has replayed
all but what this step replays (log 146). -/
def migrationCutover (p tn r : Nat) (clk : Clock) (_host : Mem) (n : Node) : Node :=
  match getT n p tn with
  | none => n
  | some t => match t.migs.find? (fun m => m.row == r && m.st != .copy) with
    | none => n
    | some m =>
      if (getP n p).st == .resetting then n
      else
        let v := m.log.foldl (fun v op => opRow op v) m.copy
        let n := settleRow clk p tn r n
        let n := modT p tn (fun t => { putRow t r v with
          dir := match m.dest with
            | some s => mset t.dir r s
            | none => mdel t.dir r
          migs := t.migs.filter (fun m => m.row != r) }) n
        releaseHeld p m.held (count p .migrations 1 n)
/-- Tier-1 channel of a hot slot. -/
def slotChan (x : Ptn) (s : Nat) : Nat := (slotBank x s).1
/-- `HOT_ROW_BACKOFF_MOVE`: the row's channel has been in back-off for 1 ms of the partition counter. -/
def hotRowBackoffMove (p tn r : Nat) (clk : Clock) (_host : Mem) (n : Node) : Node :=
  let x := getP n p
  match mget x.tbls tn with
  | none => n
  | some t => match mget t.dir r with
    | none => n
    | some s =>
      let c := slotChan x s
      let ch := vget n.mem.chans c
      let busy (k : Nat) : Bool := t.dir.any (fun d => d.2 == k) || t.migs.any (fun m => m.dest == some k)
      if !(ch.thermal || ch.satur) || decide (pctr clk p < ch.backAt + 300000) || fld x.embCfg 24 4 == 0 || t.migs.any (fun m => m.row == r)
          || decide (64 ≤ migsOf x) || x.st != .inService || t.drop.isSome || t.own.st == .releasing then n
      else match (List.range t.hotRows).find? (fun k => !busy k && slotChan x k != c) with
        | some k => startMig p tn r (some k) n
        | none => n
def execHotRowBackoffMove (e : Env) (p t row : Nat) (s : State) : Host.Outcome State Fault Refusal := run e (hotRowBackoffMove p t row) s

end Sys2Proof.Machine
end

