-- ==== Sys2Proof/Machine/Memory.lean ====
section
/-! DEFINITION. Memory objects, pages and their migrations (R181 to R186), errors and scrub (R187 to R191), Darner activity (R195,
R198, R199). -/

namespace Sys2Proof.Machine

/-! ### Object commands (R186) -/

/-- An object of the function's partition that a new command may name. -/
def objNamed (n : Node) (fn ob : Nat) : Option (Nat × Obj) :=
  match (getFn n fn).map with
  | none => none
  | some p => match mget (getP n p).objs ob with
    | some o => if o.freeing.isNone then some (p, o) else none
    | none => none
/-- The lowest free page numbers (log 8). -/
def freePages (m : List (Nat × Page)) : Nat → Nat → Nat → List Nat
  | 0, _, _ => []
  | _, 0, _ => []
  | fuel + 1, k + 1, i => if mhas m i then freePages m fuel (k + 1) (i + 1) else i :: freePages m fuel k (i + 1)
def objectAlloc : Job := fun clk _ t e n =>
  match (getFn n t.fn).map with
  | none => invalid clk t 0 0 n
  | some p =>
    let w := BitVec.ofNat 64 e.arg1
    let free := freeT1 n p / 65536 + freeT2 n p / 4096
    if e.target = 0 || 0xF000 ≤ e.target || mhas (getP n p).objs e.target then invalid clk t 0x04 0 n
    else if policyBad (getP n p) w then invalid clk t 0x20 0 n
    else if free < e.arg0 then post clk t stNoSpace 0 n
    else
      let gs := freePages n.mem.pages (n.mem.pages.length + e.arg0) e.arg0 0
      let o : Obj := { pages := gs, policy := w }
      match allocPages p e.target o (gs.mapIdx (fun i g => (i, g))) n with
      | none => post clk t stNoSpace 0 n
      | some n => post clk t stSuccess 0 (modP p (fun x => { x with objs := mset x.objs e.target o }) n)
def execObjectAlloc (e : Env) (q : QRef) (s : State) : Host.Outcome State Fault Refusal :=
  run e (hostCmd Rows.objectAlloc anyEntry noChk fnPtn objectAlloc q) s
/-- `TARGET` names an object. -/
def objChk (n : Node) (fn : Nat) (e : Sqe) : Option Nat := if (objNamed n fn e.target).isSome then none else some 0x04
def onObj (g : Clock → Mem → Tok → Sqe → Nat → Obj → Node → Node) : Job := fun clk host t e n =>
  match objNamed n t.fn e.target with
  | none => invalid clk t 0x04 0 n
  | some (p, o) => g clk host t e p o n
/-- The node's own objects are not freed by a command (Table 9-4). -/
def freeChk (n : Node) (fn : Nat) (e : Sqe) : Option Nat := if 0xF000 ≤ e.target then some 0x04 else objChk n fn e
def objectFree : Job := onObj fun clk _ t e p _ n =>
  if (getP n p).polCmds.any (fun c => c.2 == e.target) then modP p (fun x => { x with objs := mmod x.objs e.target (fun o => { o with freeing := some t }) }) n
  else post clk t stSuccess 0 (freeObj p e.target n)
def execObjectFree (e : Env) (q : QRef) (s : State) : Host.Outcome State Fault Refusal :=
  run e (hostCmd Rows.objectFree anyEntry freeChk fnPtn objectFree q) s
def objectPolicy : Job := onObj fun clk _ t e p o n =>
  let w := BitVec.ofNat 64 e.arg1
  if fld o.policy 8 4 ≠ 0 then invalid clk t 0x04 0 n
  else if policyBad (getP n p) w || (bit o.policy 3 && !bit w 3) then invalid clk t 0x20 0 n
  else
    let n := modP p (fun x => { x with objs := mmod x.objs e.target (fun o => { o with policy := w }), polCmds := x.polCmds ++ [(t, e.target)] }) n
    let n := modMem (fun m => { m with pages := m.pages.map (fun g => if o.pages.contains g.1 then (g.1, { g.2 with pin := bit w 2 }) else g) }) n
    settlePols clk p (markCmd t false true n)
def execObjectPolicy (e : Env) (q : QRef) (s : State) : Host.Outcome State Fault Refusal :=
  run e (hostCmd Rows.objectPolicy anyEntry objChk fnPtn objectPolicy q) s
/-- The range of an entry: multiples of 64, at most 16 MiB, within the object. -/
def objRange (n : Node) (fn : Nat) (e : Sqe) : Option Nat :=
  match objNamed n fn e.target with
  | none => some 0x04
  | some (_, o) =>
    if e.arg0 % 64 ≠ 0 then some 0x18
    else if e.arg1 % 64 ≠ 0 || 2 ^ 24 < e.arg1 || 65536 * o.pages.length < e.arg0 + e.arg1 then some 0x20 else none
/-- A word of object `ob` in a range of offsets. -/
def inRange (x : Ptn) (p ob off len : Nat) (l : MemLoc) : Bool :=
  locPtn l == p && (wordAt x l).any (fun w => w.1 == ob && decide (off ≤ w.2.2) && decide (w.2.2 < off + len))
/-- Words written whole: what was wrong there is overwritten (R188). -/
def overwrite (hit : MemLoc → Bool) (n : Node) : Node := modMem (fun m => { m with errs := m.errs.filter (fun f => !hit (normLoc n f.loc)) }) n
/-- Bytes written to one row of a home array: poison outside them stays, and the bytes under a row in the hot region are read by nothing (R159). -/
def writeHomeRow (clk : Clock) (p tn off : Nat) (bs : List Byte) (r : Nat) (n : Node) : Node :=
  let n := settleRow clk p tn r n
  match getT n p tn with
  | none => n
  | some t =>
    if mhas t.dir r || t.rows ≤ r then n
    else
      let base := 4 * t.width * r
      let lo := max off base
      let hi := min (off + bs.length) (base + 4 * t.width)
      let v := words32 (patch (bytesOf32 (rowOfT t r)) (lo - base) (slice bs (lo - off) (hi - lo))) t.width
      let keep := t.poison.filter (fun z => z.1 == r && (decide (base + 4 * z.2 < lo) || decide (hi ≤ base + 4 * z.2)))
      modT p tn (fun t =>
        let t := applyOp t r (.write v)
        { t with poison := t.poison ++ keep, lines := if keep.isEmpty then t.lines else modAll (fun l => l.row == r) (fun l => { l with bad := true }) t.lines })
        (dropPre p tn r (logOp p tn r (.write v) n))
/-- The bytes of an `OBJECT_WRITE` land: in a host object, or in the rows of a table's home array, which alone of the node's objects may take writes. -/
def putObj (clk : Clock) (p ob : Nat) (o : Obj) (off : Nat) (bs : List Byte) (n : Node) : Node :=
  let n := overwrite (inRange (getP n p) p ob off bs.length) n
  match o.use_ with
  | .home tn => match getT n p tn with
    | some t => foldNode ((List.range (cdiv (off + bs.length) (4 * max 1 t.width) - off / (4 * max 1 t.width))).map (off / (4 * max 1 t.width) + ·)) (writeHomeRow clk p tn off bs) n
    | none => n
  | _ => modP p (fun x => { x with objs := mmod x.objs ob (fun o => { o with
      data := Mem.writeN o.data off bs, poison := o.poison.filter (fun k => !(decide (off ≤ k) && decide (k < off + bs.length))) }) }) n
def objectWrite : Job := onObj fun clk host t e p o n =>
  if bit o.policy 3 then post clk t stObjectSealed 0 n
  else
    let n := putObj clk p e.target o e.arg0 (Mem.readN host e.addr0 e.arg1) n
    post clk t stSuccess 0 (heatRange o e.arg0 e.arg1 true (markCmd t false true n))
def execObjectWrite (e : Env) (q : QRef) (s : State) : Host.Outcome State Fault Refusal :=
  run e (hostCmd Rows.objectWrite anyEntry objRange noPtn objectWrite q) s
/-- Poisoned words of an object in a range of offsets. -/
def badIn (p : Nat) (x : Ptn) (o : Obj) (off len : Nat) : List Nat := (objBad p x o).filter (fun k => decide (off ≤ k) && decide (k < off + len))
/-- A range of an object as a command copies it to host memory: a poisoned word reads as all ones (R189). -/
def objCopy (p : Nat) (x : Ptn) (o : Obj) (off len : Nat) : List Byte :=
  (badIn p x o off len).foldl (fun bs k => patch bs (k - off) (List.replicate 8 0xFF)) (objRead x o off len)
/-- Names for the words at some offsets of an object. -/
def locsAt (p : Nat) (x : Ptn) (ob : Nat) (ks : List Nat) : List MemLoc := ks.map (locOfWord p x ob)
/-- `OBJECT_READ`: poison that lies in the range is recorded, errors that nothing has read yet are met, and the bytes go to host memory. No thread of Table 4-9 works for it. -/
def objectRead : Job := onObj fun clk _ t e p o n =>
  let x := getP n p
  let n := readWords clk p (some t) 0xFFFFFFFF (locsAt p x e.target (badIn p x o e.arg0 e.arg1)) (inRange x p e.target e.arg0 e.arg1) n
  let x := getP n p
  let o := (mget x.objs e.target).getD o
  post clk t (if (badIn p x o e.arg0 e.arg1).isEmpty then stSuccess else stDataPoison) 0
    (emit (.data e.addr0 (objCopy p x o e.arg0 e.arg1)) (heatRange o e.arg0 e.arg1 false n))
def execObjectRead (e : Env) (q : QRef) (s : State) : Host.Outcome State Fault Refusal :=
  run e (hostCmd Rows.objectRead anyEntry objRange noPtn objectRead q) s

/-! ### Heat (R182) and the switch of a migration (R181) -/

def objOfPage (n : Node) (g : Page) : Option Obj := mget (getP n g.ptn).objs g.obj
/-- Position of a page in its object. -/
def posOf (o : Obj) (gp : Nat) : Nat := (o.pages.takeWhile (· != gp)).length
def isAuto (n : Node) (g : Page) : Bool := match objOfPage n g with
  | some o => fld o.policy 0 2 == 0 && !g.pin
  | none => false
def toTier (gp tier : Nat) (n : Node) : Node := match getPage n gp with
  | none => n
  | some g => match objOfPage n g with
    | some o => if g.mig.isSome then n else movePage g.ptn o (posOf o gp) gp tier n
    | none => n
/-- Pages that a partition moves within `MIG_BW` in one ageing period: the share of its tier-2 bandwidth, 70.4 GB/s to a channel, in pages (R182, R200). -/
def migBudget (n : Node) (p : Nat) : Nat := fld n.mem.migCfg 0 8 * (t2Chans n (getP n p)).length * 70400000 * fld n.mem.migCfg 24 8 / 100 / 65536
/-- Pages of a partition that move, those of its `OBJECT_POLICY` commands apart. -/
def moving (n : Node) (p : Nat) : Nat := ((pagesOf n p).filter (fun g => g.2.mig.isSome && !(getP n p).polCmds.any (fun c => c.2 == g.2.obj))).length
/-- Pages that lie outside what their objects' policies and the partition allow start to move, within `MIG_BW` (R200); what finds no frame or no bandwidth waits for the next time. -/
def conformAll (p : Nat) (n : Node) : Node :=
  foldNode (getP n p).objs (fun o n => foldNode (unruly n p o.2) (fun u n => match getPage n u.2.1 with
    | some g => if g.mig.isSome || migBudget n p ≤ moving n p then n else movePage p o.2 u.1 u.2.1 u.2.2 n
    | none => n) n) n
/-- Promotes one page, demoting the coldest first when the partition is at its reserve. -/
def promote (gp : Nat) (n : Node) : Node :=
  match getPage n gp with
  | none => n
  | some g =>
    let p := g.ptn
    let cap := capT1 n p
    if migBudget n p < moving n p + 2 then n
    else if cap < 64 * (cap - usedT1 n p) then toTier gp 0 n
    else
      let cold := (n.mem.pages.filter (fun y => y.2.ptn == p && y.2.tier == 0 && y.2.mig.isNone && isAuto n y.2 && decide (y.2.heat ≤ fld n.mem.migCfg 8 8)))
      match (sortBy (fun a b => decide (a.2.heat < b.2.heat) || (a.2.heat == b.2.heat && decide (a.1 ≤ b.1))) cold).head? with
      | some y => toTier gp 0 (toTier y.1 1 n)
      | none => n
/-- `HEAT_AGE`: pages that have reached `PROMOTE` start to move, then every heat is halved. -/
def heatAge (clk : Clock) (n : Node) : Node :=
  if clk.node < n.mem.heatAt + 300000 * fld n.mem.migCfg 0 8 then n
  else
    let go := n.mem.pages.filter (fun g => g.2.tier == 1 && g.2.mig.isNone && isAuto n g.2 && decide (fld n.mem.migCfg 16 8 ≤ g.2.heat) && (getP n g.2.ptn).st == .inService)
    let n := foldNode (List.range 8) conformAll n
    let n := if fld n.mem.migCfg 24 8 = 0 then n else foldNode go (fun g n => promote g.1 (ungate g.2.ptn n)) n
    modMem (fun m => { m with heatAt := clk.node, pages := m.pages.map (fun g => (g.1, { g.2 with heat := g.2.heat / 2 })) }) n
def execHeatAge (e : Env) (s : State) : Host.Outcome State Fault Refusal := run e (fun clk _ n => heatAge clk n) s
/-- Rounds of copying dirty granules until at most 4 are left or 8 rounds are done (R181 step 3). No access falls between the rounds that this step holds. -/
def copyRounds : Nat → PMig → PMig
  | 0, m => m
  | k + 1, m => if m.dirty.length ≤ 4 || 8 ≤ m.rounds then m else copyRounds k { m with dirty := [], rounds := m.rounds + 1 }
/-- `PAGE_MIGRATION_CUTOVER`: the rounds end, modifying accesses are held while the granules left are copied, the entry names the new frame and the old one is free (R181 steps 3 to 6). Poison in
the page goes with it, and a word found uncorrectable while it is copied is recorded as UE_MIGRATE. -/
def pageCutover (gp : Nat) (clk : Clock) (_host : Mem) (n : Node) : Node :=
  match getPage n gp with
  | none => n
  | some g => match g.mig with
    | none => n
    | some m =>
      if (getP n g.ptn).st == .resetting then n
      else
        let x := getP n g.ptn
        let n := match objOfPage n g with
          | some o =>
            let off := 65536 * posOf o gp
            meetErrs clk 5 0 none 0xFFFFFFFF (inRange x g.ptn g.obj off 65536) (metLocs clk g.ptn 0 0xFFFFFFFF none (locsAt g.ptn x g.obj (badIn g.ptn x o off 65536)) n)
          | none => n
        let n := modPage gp (·.at_ { copyRounds 8 m with dirty := [] }) n
        let n := if g.tier = 1 && m.tier == 0 then count g.ptn .pagePromote 1 n else if g.tier = 0 && m.tier == 1 then count g.ptn .pageDemote 1 n else n
        settlePols clk g.ptn (conformAll g.ptn n)
def execPageMigrationCutover (e : Env) (page : Nat) (s : State) : Host.Outcome State Fault Refusal := run e (pageCutover page) s

/-! ### Errors and scrub (R187 to R191, R303) -/

/-- In the tier-1 channels of the partitions whose pass ends, rows with corrected words on three passes in succession are spared; the others start again. -/
def scrubRows (clk : Clock) (tiers : List Nat) (finds : List Finding) (n : Node) : Node :=
  let hit := (finds.filter (fun f => inT1 f && f.bits != 0 && decide (f.bits ≤ 2))).map (fun f => (f.chan, f.pos, f.row))
  let upd (c : Nat) (ch : Chan) : Chan :=
    if !tiers.contains ch.ptn then ch else
    let mine := ((hit.filter (fun h => h.1 == c)).map (fun h => h.2)).eraseDups
    { ch with ceRows := mine.map (fun r => (r.1, r.2, 1 + (((ch.ceRows.find? (fun y => y.1 == r.1 && y.2.1 == r.2)).map (fun y => y.2.2)).getD 0))) }
  let n := modMem (fun m => { m with chans := m.chans.mapIdx upd }) n
  let due := ((List.range 128).map (fun c => ((vget n.mem.chans c).ceRows.filter (fun r => r.2.2 == 3)).map (fun r => (c, r.1, r.2.1)))).flatten
  foldNode due (fun d n => spareRow clk d.1 d.2.1 d.2.2 (modMem (fun m => { m with chans := vmod m.chans d.1 (fun c => { c with
    ceRows := c.ceRows.filter (fun r => !(r.1 == d.2.1 && r.2.1 == d.2.2)) }) }) n)) n
/-- The Darner operation by which scrub reads a word: DSCRUB in tier 1. -/
def scrubOp (n : Node) (l : MemLoc) : Nat := if locTier1 n (locPtn l) l then 8 else 0
/-- The poisoned words that a pass over a partition's stacks and channels meets again (R190), and the activates of its DSCRUB operations: one for each row of its 32 banks a channel (R202). -/
def scrubTiers (clk : Clock) (p : Nat) (n : Node) : Node :=
  let x := getP n p
  let ls := (x.objs.map (fun o => locsAt p x o.1 (objBad p x o.2))).flatten
  count p .drnActs (32 * 65536 * (t1Chans x).length) (foldNode ls (fun l n => metWord clk p 3 l (scrubOp n l) none 0xFFFFFFFF n) n)
/-- The same for its words of on-die SRAM. -/
def scrubSram (clk : Clock) (p : Nat) (n : Node) : Node := metLocs clk p 0 0xFFFFFFFF none ((getP n p).sramBad.map (.sram p)) n
/-- CTL cycles that the reset scrub of a partition takes at `RESET_BW` percent of its bandwidth: 64 GiB at 1.6 TB/s a stack, 70.4 GB/s a tier-2 channel, all at once (R191, Table 9-1). -/
def scrubTime (n : Node) (x : Ptn) : Nat :=
  let bw := max 1 (fld n.mem.scrubCfg 24 8)
  let t1 := if x.ent.stks = 0 then 0 else cdiv (64 * 2 ^ 30 * 300000000 * 100) (1600000000000 * bw)
  ((t2Chans n x).map (fun c => cdiv ((vget n.mem.t2 c).gib * 2 ^ 30 * 300000000 * 100) (70400000000 * bw))).foldl max t1
/-- The reset scrub of a partition has had the time it takes. -/
def resetDue (clk : Clock) (n : Node) (p : Nat) : Bool := (getP n p).resetScrub.any (fun a => decide (a + scrubTime n (getP n p) ≤ pctr clk p))
/-- The patrol pass of tiers 1 and 2, and the pass over SRAM, end on their periods. -/
def patrolDue (clk : Clock) (n : Node) : Bool := decide (n.mem.patrolAt + 3600 * 300000000 * fld n.mem.scrubCfg 0 16 ≤ clk.node)
def sramDue (clk : Clock) (n : Node) : Bool := decide (n.mem.sramAt + 10 * 300000000 ≤ clk.node)
/-- A word that the passes ending now have read. -/
def scrubReads (clk : Clock) (n : Node) (l : MemLoc) : Bool := match l with
  | .sram _ _ => sramDue clk n
  | l => patrolDue clk n || (decide (locPtn l < 8) && resetDue clk n (locPtn l))
/-- A codeword that scrub finds in error, DSCRUB in tier 1. -/
def scrubWord (clk : Clock) (f : Finding) (n : Node) : Node := meetError clk 4 (if inT1 f then 8 else 0) none 0xFFFFFFFF { f with loc := normLoc n f.loc } n
/-- `PATROL_SCRUB`: the passes that are due end: the patrol of every partition's tiers, a partition's scrub after its reset, the pass over SRAM (R191). They have met the poison there, the
errors that nothing had read, and those that the command names. Without a pass due nothing happens. -/
def patrolScrub (finds : List Finding) (clk : Clock) (n : Node) : Node :=
  let tiers := (List.range 8).filter (fun p => (getP n p).st != .absent && (patrolDue clk n || resetDue clk n p))
  let sram := if sramDue clk n then (List.range 8).filter (fun p => (getP n p).st != .absent) else []
  let fs := (n.mem.errs ++ finds).filter (fun f => scrubReads clk n f.loc)
  let rest := n.mem.errs.filter (fun f => !scrubReads clk n f.loc)
  let n1 := foldNode sram (scrubSram clk) (foldNode tiers (fun p n => scrubTiers clk p (ungate p n)) n)
  let n2 := scrubRows clk tiers fs (foldNode fs (scrubWord clk) (modMem (fun m => { m with
    errs := rest, patrolAt := if patrolDue clk n then clk.node else m.patrolAt, sramAt := if sramDue clk n then clk.node else m.sramAt }) n1))
  foldNode tiers (fun p n => modP p (fun x => { x with resetScrub := none }) n) n2
def execPatrolScrub (e : Env) (finds : List Finding) (s : State) : Host.Outcome State Fault Refusal := run e (fun clk _ n => patrolScrub finds clk n) s

/-! ### Darner activity (R195, R198, R199) -/

/-- `HELD_ACCESS`: counted, then served before the Darner's next segment. -/
def execHeldAccess (e : Env) (p : Nat) (s : State) : Host.Outcome State Fault Refusal := run e (pureBody (count p .drnHeld 1)) s
/-- Table 9-10. -/
def stackBudget (t : Nat) : Nat := if t < 85 then 1600 else if t < 95 then 80 * (105 - t) else if t < 100 then 400 else 200
/-- When a channel enters back-off, on the counter of the partition that holds it (R174). -/
def backNow (clk : Clock) (ch : Chan) : Nat := if ch.ptn < 8 then pctr clk ch.ptn else clk.node
/-- One window at a channel under budget `b`: a budget below 100 % is back-off, and the sixteenth window in succession without a case ends it (R199). -/
def chanWindow (clk : Clock) (b : Nat) (ch : Chan) : Chan :=
  if b < 1600 then { ch with thermal := true, clear := 0, backAt := if ch.thermal || ch.satur then ch.backAt else backNow clk ch }
  else if 15 ≤ ch.clear then { ch with thermal := false, satur := false, clear := ch.clear + 1 } else { ch with clear := ch.clear + 1 }
/-- `STACK_BUDGET_WINDOW`: the temperature is read and the budget set; windows clear of both cases are counted for each channel. -/
def stackWindow (s t : Nat) (clk : Clock) (n : Node) : Node :=
  if 8 ≤ s then n
  else
    let b := stackBudget t
    trip t (modMem (fun m => { m with
      stks := vmod m.stks s (fun _ => { temp := t, budget := b })
      chans := m.chans.mapIdx (fun c ch => if c / 16 = s then chanWindow clk b ch else ch) }) n)
def execStackBudgetWindow (e : Env) (stack temp : Nat) (s : State) : Host.Outcome State Fault Refusal := run e (fun clk _ n => stackWindow stack temp clk n) s
/-- `DARNER_BACKOFF`: a channel enters back-off by its stack's budget or by `waited` MEM cycles on tDAW, or leaves it after 16 clear windows. -/
def darnerBackoff (c waited : Nat) (clk : Clock) (n : Node) : Node :=
  if 128 ≤ c then n
  else
    let th := decide ((vget n.mem.stks (c / 16)).budget < 1600)
    let sa := decide (4096 ≤ waited)
    let set (ch : Chan) : Chan :=
      if th || sa then { ch with thermal := ch.thermal || th, satur := ch.satur || sa, clear := 0, backAt := if ch.thermal || ch.satur then ch.backAt else backNow clk ch }
      else if 16 ≤ ch.clear then { ch with thermal := false, satur := false } else ch
    modMem (fun m => { m with chans := vmod m.chans c set }) n
def execDarnerBackoff (e : Env) (chan waited : Nat) (s : State) : Host.Outcome State Fault Refusal := run e (fun clk _ n => darnerBackoff chan waited clk n) s

end Sys2Proof.Machine
end

