-- ==== Sys2Proof/Machine/Ownership.lean ====
section
/-! DEFINITION. Ownership tokens (R306 to R313): release, claim, resolve, the messages of Table 13-15 and the conflict rules. -/

namespace Sys2Proof.Machine

def getOwn (n : Node) (p : Nat) (k : ObjKind) (num : Nat) : Option Own := match k with
  | .coll => (getC n p num).map (·.own)
  | .table => (getT n p num).map (·.own)
def modOwn (p : Nat) (k : ObjKind) (num : Nat) (g : Own → Own) : Node → Node := match k with
  | .coll => modC p num (fun c => { c with own := g c.own })
  | .table => modT p num (fun t => { t with own := g t.own })
/-- The object of a partition that carries an identifier. -/
def findId (n : Node) (p : Nat) (k : ObjKind) (id : W64) : Option Nat := match k with
  | .coll => ((getP n p).colls.find? (fun c => c.2.desc.collId == id)).map (·.1)
  | .table => ((getP n p).tbls.find? (fun t => t.2.tblId == id)).map (·.1)
def kindOf (b : Nat) : ObjKind := if b = 1 then .table else .coll
def ObjKind.code : ObjKind → Nat
  | .coll => 0
  | .table => 1
/-- Last update sequence committed, or last training epoch. -/
def lastSeq (n : Node) (p : Nat) (k : ObjKind) (num : Nat) : Nat := match k with
  | .coll => ((getC n p num).map (·.applied)).getD 0
  | .table => ((getT n p num).bind (fun t => t.log.getLast?.map (fun r => r.2.epoch))).getD 0
/-- `STATE` of Table 13-15 beside the holder's own: DECLINED. -/
def ownDeclined : Nat := 5
/-- Table 13-15. -/
def ownBody (n : Node) (p : Nat) (k : ObjKind) (num : Nat) (st : Nat) : List Byte :=
  let o := (getOwn n p k num).getD {}
  toLe 1 (ObjKind.code k) ++ toLe 1 st ++ toLe 6 0 ++ toLe 8 (objId n p k num).toNat ++ toLe 8 o.epoch ++ toLe 4 o.owner.toNat ++ toLe 1 o.ownerP ++ toLe 3 0 ++
    toLe 8 (lastSeq n p k num) ++ toLe 8 (genNum n p k num).toNat
def sendOwn (clk : Clock) (kind p : Nat) (k : ObjKind) (num : Nat) (dst : W32) (dp st : Nat) (n : Node) : Node :=
  if dst = 0 then n else sendAcked clk (64 + p) dst kind p dp (ownBody n p k num st) (.own p k num) n
/-- The holder is this node and partition. -/
def isMe (n : Node) (p : Nat) (o : W32) (op : Nat) : Bool := o == n.lnk.nodeId && op == p

/-! ### Freezing (R311) -/

/-- Ends the updates of an object that are held or wait, with one status and result. -/
def endUpds (clk : Clock) (p : Nat) (k : ObjKind) (num status result : Nat) (heldOnly : Bool) (n : Node) : Node := match k with
  | .coll => match getC n p num with
    | none => n
    | some c => foldNode (c.upds.filter (fun u => u.held || !heldOnly)) (fun u n => postO clk u.tok status result (dropUpd p num u n)) n
  | .table =>
    let hit := (getP n p).adds.filter (fun a => a.2.tbl == num && (a.2.held || !heldOnly))
    let toks := (hit.filterMap (fun a => a.2.tok)).eraseDups
    let n := sweepUpds p (modP p (fun x => { x with adds := x.adds.filter (fun a => !hit.any (fun h => h.1 == a.1)) }) n)
    foldNode toks (fun t n => post clk t status result (modFls (fun f => { f with durable := f.durable.filter (fun d => d.tok != t) }) n)) n
def freezeObj (clk : Clock) (p : Nat) (k : ObjKind) (num : Nat) (peer : W32) (peerP : Nat) (n : Node) : Node :=
  match getOwn n p k num with
  | none => n
  | some o =>
    if o.st == .frozen then n
    else
      let n := modOwn p k num (fun o => { o with st := .frozen, xfer := none, rel := none }) n
      let n := match o.xfer with
        | some x => post clk x.tok stFrozen o.epoch n
        | none => n
      let n := endUpds clk p k num stFrozen 0 false n
      let n := match k with
        | .coll =>
          let n := match (getC n p num).bind (·.swap) with
            | some w => post clk w.tok stFrozen 0 (modC p num (fun c => { c with swap := none }) n)
            | none => n
          modC p num (fun c => { c with st := .frozen }) n
        | .table => abandonMigs p num (modT p num (fun t => { t with st := .frozen }) n)
      count p .frozen 1 (raisePtn attnOwnership p (addFault clk p
        { seq := 0, ctr := 0, kind := fkOwnership, d1 := (objId n p k num).toNat, d2 := peer.toNat + 2 ^ 32 * peerP } n))

/-! ### Release (R308) -/

/-- Nothing of the object is on its way: updates past fetch, adds, and mirror records without ACK. -/
def quiet (n : Node) (p : Nat) (k : ObjKind) (num : Nat) : Bool :=
  let d := (getDur n p k num).getD {}
  d.unsent.isEmpty && d.unacked.isEmpty && (match k with
    | .coll => match getC n p num with
      | some c => c.upds.all (·.held)
      | none => true
    | .table => !(getP n p).adds.any (fun a => a.2.tbl == num && !a.2.held))
/-- Steps 2 to 5 of R308, once nothing is on its way. Within the node there is no message (R313): the other copy sees the release at once. -/
def tryRelease (clk : Clock) (p : Nat) (k : ObjKind) (num : Nat) (n : Node) : Node :=
  match getOwn n p k num with
  | none => n
  | some o => match o.xfer with
    | none => n
    | some x =>
      if o.st != .releasing || !quiet n p k num then n
      else
        let e := o.epoch + 1
        let n := modOwn p k num (fun o => { o with owner := x.peer, ownerP := x.peerP, epoch := e, seen := max o.seen e, st := .released, xfer := some { x with wrote := true, epoch := e } }) n
        let n := endUpds clk p k num stBusy (x.peer.toNat + 2 ^ 32 * x.peerP) true n
        if x.inNode then
          let n := match findId n x.peerP k (objId n p k num) with
            | some m => modOwn x.peerP k m (fun o => if o.st == .released || o.st == .claiming then { o with
                owner := x.peer, ownerP := x.peerP, epoch := e, seen := max o.seen e
                rel := some { from_ := n.lnk.nodeId, fromP := p, epoch := e, lastSeq := lastSeq n p k num, at_ := pctr clk x.peerP } } else o) n
            | none => n
          post clk x.tok stSuccess e (modOwn p k num (fun o => { o with xfer := none }) n)
        else sendOwn clk mkOwnRelease p k num x.peer x.peerP Holder.released.code n

/-- Partition that an ownership command names (R307): `TARGET` of the physical function; a virtual function's own. What `TARGET` holds in a virtual function's command has no effect
(DESIGN CHOICE, log 130: the spec does not say whether it counts as unused there). -/
def ownPtn (n : Node) (fn : Nat) (e : Sqe) : Option Nat := if fn = 0 then (if e.target < 8 ∧ (getP n e.target).st != .absent then some e.target else none) else (getFn n fn).map
def argOwner (v : Nat) : W32 := BitVec.ofNat 32 v
def argOwnerP (v : Nat) : Nat := v / 2 ^ 32 % 8
/-- Partitions of this node that a transfer involves: the object's, and the other holder's where that is this node. -/
def xferPtns (n : Node) (fn : Nat) (e : Sqe) : List Nat :=
  (ownPtn n fn e).toList ++ (if argOwner e.arg2 = n.lnk.nodeId then [argOwnerP e.arg2] else [])
/-- A live load of one of them is in progress. -/
def xferWaits (n : Node) (fn : Nat) (e : Sqe) : Bool := (xferPtns n fn e).any (fun p => (getP n p).load.isSome)
/-- R38: a transfer that meets a live load waits until that load completes. -/
def afterLoad (job : Job) : Job := fun clk host t e n =>
  if xferWaits n t.fn e then modBoot (fun b => { b with after := b.after ++ [(t, e)] }) n else job clk host t e n
/-- A job on the object that an ownership command names; `mem` where it names a memory object (R313, log 47). -/
def onOwn (mem : Clock → Tok → Sqe → Nat → Node → Option Node) (g : Clock → Tok → Sqe → Nat → ObjKind → Nat → Own → Node → Node) : Job := fun clk _ t e n =>
  match ownPtn n t.fn e with
  | none => invalid clk t 0x04 0 n
  | some p =>
    let k := kindOf (e.arg0 % 2)
    match findId n p k (BitVec.ofNat 64 e.arg1) with
    | some num => match getOwn n p k num with
      | some o => g clk t e p k num o n
      | none => invalid clk t 0x20 0 n
    | none => match mem clk t e p n with
      | some n => n
      | none => invalid clk t 0x20 0 n
/-- A memory object is released to another partition of the node. -/
def memRelease (clk : Clock) (t : Tok) (e : Sqe) (p : Nat) (n : Node) : Option Node :=
  let q := argOwnerP e.arg2
  if argOwner e.arg2 = n.lnk.nodeId && q != p && decide (e.arg1 < 0xF000) && mhas (getP n p).objs e.arg1 && (getP n q).st != .absent then
    some (if (getP n p).memRel.any (fun m => m.1 == e.arg1) then post clk t stBusy 0 n
          else post clk t stSuccess 0 (modP p (fun x => { x with memRel := x.memRel ++ [(e.arg1, q)] }) n))
  else none
def ownershipRelease : Job := onOwn memRelease fun clk t e p k num o n =>
  let b := argOwner e.arg2
  let bp := argOwnerP e.arg2
  if o.st != .owned then post clk t stBusy o.epoch n
  else if b = 0 || isMe n p b bp then invalid clk t 0x28 0 n
  else
    let n := modOwn p k num (fun o => { o with st := .releasing, xfer := some { tok := t, peer := b, peerP := bp, epoch := o.epoch, at_ := pctr clk p, inNode := b == n.lnk.nodeId } }) n
    tryRelease clk p k num (match k with
      | .table => abandonMigs p num n
      | .coll => thaw p num n)
def execOwnershipRelease (e : Env) (q : QRef) (s : State) : Host.Outcome State Fault Refusal :=
  run e (hostCmd Rows.ownershipRelease anyEntry noChk ownPtn (afterLoad ownershipRelease) q) s

/-- What a release has held goes on, the object being owned again: `since` is when it began. A hold of R317 still keeps the adds of a table. -/
def letGo (clk : Clock) (p : Nat) (k : ObjKind) (num since : Nat) (n : Node) : Node := match k with
  | .coll =>
    let d := (getDur n p k num).getD {}
    modC p num (fun c => { c with upds := c.upds.map (fun u => { u with held := false }) })
      (creditHeld clk p (if d.held then min since d.heldAt else max since d.heldAt) (((((getC n p num).map (·.upds)).getD []).filter (·.held)).map (·.ctx))
        (modDur p k num (fun d => { d with heldAt := pctr clk p }) n))
  | .table => if ((getDur n p k num).map (·.held)).getD false then n else releaseAdds clk p num since n

/-! ### Claim (R309) -/

/-- The copy has applied what the release announced. -/
def caughtUp (n : Node) (p : Nat) (k : ObjKind) (num last : Nat) : Bool := decide (last ≤ lastSeq n p k num)
/-- The release that the claim waits for: the previous owner's, at the epoch expected. -/
def relMeets (x : Xfer) (r : RelSeen) : Bool := r.from_ == x.peer && r.fromP == x.peerP && r.epoch == x.epoch
/-- The claim completes once a matching release has arrived and the copy has applied its records. -/
def tryClaim (clk : Clock) (p : Nat) (k : ObjKind) (num : Nat) (n : Node) : Node :=
  match getOwn n p k num with
  | none => n
  | some o => match o.xfer, o.rel with
    | some x, some r =>
      if o.st == .claiming && relMeets x r && caughtUp n p k num r.lastSeq then
        let n := modOwn p k num (fun o => { o with owner := n.lnk.nodeId, ownerP := p, epoch := x.epoch, seen := max o.seen x.epoch, st := .owned, xfer := none, rel := none }) n
        let n := if x.inNode then n else sendOwn clk mkOwnClaim p k num x.peer x.peerP Holder.owned.code n
        post clk x.tok stSuccess x.epoch n
      else n
    | _, _ => n
/-- A memory object is claimed: it takes the first free number of this partition, its pages change owner and then move (R200, R313). -/
def memClaim (clk : Clock) (t : Tok) (e : Sqe) (p : Nat) (n : Node) : Option Node :=
  let q := argOwnerP e.arg2
  match mget (getP n q).objs e.arg1, firstFree (getP n p).objs 1 0xEFFF with
  | some o, some k =>
    if argOwner e.arg2 = n.lnk.nodeId && (getP n q).memRel.contains (e.arg1, p) then
      let n := modP q (fun x => { x with objs := mdel x.objs e.arg1, memRel := x.memRel.erase (e.arg1, p) }) n
      let n := modP p (fun x => { x with objs := mset x.objs k { o with policy := put (put o.policy 16 12 0) 32 8 0 } }) n
      let n := modMem (fun m => { m with pages := m.pages.map (fun g => if o.pages.contains g.1 then (g.1, { g.2 with ptn := p, obj := k }) else g) }) n
      some (post clk t stSuccess k (conformAll p n))
    else none
  | _, _ => none
def ownershipClaim : Job := onOwn memClaim fun clk t e p k num o n =>
  let a := argOwner e.arg2
  let ap := argOwnerP e.arg2
  if o.st == .frozen && !e.flag 1 then post clk t stFrozen o.epoch n
  else if e.flag 1 then
    if e.arg3 ≤ o.seen then invalid clk t 0x30 0 n
    else if o.st == .frozen then post clk t stFrozen o.epoch n
    else
      let n := match o.xfer with
        | some x => post clk x.tok stBusy o.epoch n
        | none => n
      let n := modOwn p k num (fun o => { o with owner := n.lnk.nodeId, ownerP := p, epoch := e.arg3, seen := e.arg3, st := .owned, xfer := none, rel := none }) n
      let n := letGo clk p k num ((o.xfer.map (·.at_)).getD (pctr clk p)) n
      let n := if a = n.lnk.nodeId then n else sendOwn clk mkOwnState p k num a ap Holder.owned.code n
      post clk t stSuccess e.arg3 n
  else if o.st != .released then post clk t stBusy o.epoch n
  else
    tryClaim clk p k num (modOwn p k num (fun o => { o with
      st := .claiming, xfer := some { tok := t, peer := a, peerP := ap, epoch := e.arg3, at_ := pctr clk p, inNode := a == n.lnk.nodeId } }) n)
def execOwnershipClaim (e : Env) (q : QRef) (s : State) : Host.Outcome State Fault Refusal :=
  run e (hostCmd Rows.ownershipClaim anyEntry noChk ownPtn (afterLoad ownershipClaim) q) s
/-- `CLAIM_MS` in CTL cycles. -/
def claimCycles (x : Ptn) : Nat := 300000 * fld x.durCfg 16 16
/-- `CLAIM_TIMEOUT`: a claim without its release, or whose copy is not there yet, or a release that no claim took up (R309). -/
def claimTimeout (p : Nat) (k : ObjKind) (num : Nat) (clk : Clock) (n : Node) : Node :=
  match getOwn n p k num with
  | none => n
  | some o =>
    let lim := claimCycles (getP n p)
    match o.st, o.xfer, o.rel with
    | .claiming, some x, r =>
      if pctr clk p < x.at_ + lim then n
      else
        let n := modOwn p k num (fun o => { o with st := .released, owner := x.peer, ownerP := x.peerP, xfer := none, rel := none }) n
        post clk x.tok stBusy o.epoch (if x.inNode then n else sendOwn clk mkOwnState p k num x.peer x.peerP (if r.any (relMeets x) then ownDeclined else Holder.released.code) n)
    | .released, _, some r =>
      if pctr clk p < r.at_ + lim then n
      else
        let n := modOwn p k num (fun o => { o with owner := r.from_, ownerP := r.fromP, rel := none }) n
        if r.from_ = n.lnk.nodeId then n else sendOwn clk mkOwnState p k num r.from_ r.fromP Holder.released.code n
    | _, _, _ => n

/-! ### Resolution (R312) -/

def ownershipResolve : Job := onOwn (fun _ _ _ _ _ => none) fun clk t e p k num o n =>
  if e.arg3 ≤ o.seen then invalid clk t 0x30 0 n
  else
    let b := argOwner e.arg2
    let bp := argOwnerP e.arg2
    let me := isMe n p b bp
    let n := match o.xfer with
      | some x => post clk x.tok stBusy o.epoch n
      | none => n
    let n := modOwn p k num (fun o => { o with owner := b, ownerP := bp, epoch := e.arg3, seen := e.arg3, st := if me then .owned else .released, xfer := none, rel := none }) n
    let n := modDur p k num (fun d => { d with follow := true }) n
    let n := match k with
      | .coll => settleColls (modC p num (fun c => { c with st := if c.st == .frozen then (if c.cur.isSome then .serving else .created) else c.st }) n)
      | .table => modT p num (fun y => { y with st := if y.st == .frozen then .ready else y.st }) n
    let n := if me then letGo clk p k num ((o.xfer.map (·.at_)).getD (pctr clk p)) n
      else endUpds clk p k num stBusy (b.toNat + 2 ^ 32 * bp) true n
    let n := if me || b == n.lnk.nodeId then n else sendOwn clk mkOwnState p k num b bp Holder.released.code n
    post clk t stSuccess e.arg3 n
def execOwnershipResolve (e : Env) (q : QRef) (s : State) : Host.Outcome State Fault Refusal :=
  run e (hostCmd Rows.ownershipResolve anyEntry noChk ownPtn ownershipResolve q) s

/-! ### Messages (R310) -/

/-- Table 13-16: the first matching row applies; every OWN_ message is acknowledged. A release that names this holder is kept for its claim (R309). -/
def ownMessage (kind : Nat) (m : Msg) (clk : Clock) (n : Node) : Node :=
  let b := m.body
  let k := kindOf (leAt b 0 1)
  let p := m.dstPtn
  let st := leAt b 1 1
  let ep := leAt b 0x10 8
  let own : W32 := BitVec.ofNat 32 (leAt b 0x18 4)
  let ownP := leAt b 0x1C 1 % 8
  let n := ackBack clk m n
  match findId n p k (BitVec.ofNat 64 (leAt b 8 8)) with
  | none => n
  | some num => match getOwn n p k num with
    | none => n
    | some o =>
      let saw (n : Node) : Node := modOwn p k num (fun o => { o with seen := max o.seen ep }) n
      let answer (n : Node) : Node := sendOwn clk mkOwnState p k num m.src m.srcPtn Holder.frozen.code n
      let freeze (n : Node) : Node := answer (freezeObj clk p k num m.src m.srcPtn n)
      let named := isMe n p own ownP
      if o.st == .frozen then answer (saw n)
      else if o.st == .owned && st == Holder.owned.code && kind != mkOwnClaim then freeze (saw n)
      else if o.st == .owned && kind == mkOwnClaim then freeze (saw n)
      else if o.st == .owned && !named && decide (o.epoch < ep) then freeze (saw n)
      else if o.st == .released && o.owner == m.src && o.ownerP == m.srcPtn && ((st == Holder.released.code && named) || st == ownDeclined) && kind == mkOwnState then freeze (saw n)
      else if st == Holder.frozen.code then freezeObj clk p k num m.src m.srcPtn (saw n)
      else
        let n := if o.st == .released && decide (o.epoch < ep) then modOwn p k num (fun o => { o with owner := own, ownerP := ownP, epoch := ep }) n else n
        let n := if kind = mkOwnRelease && named then
            modOwn p k num (fun o => { o with rel := some { from_ := m.src, fromP := m.srcPtn, epoch := ep, lastSeq := leAt b 0x20 8, at_ := pctr clk p } }) n else n
        tryClaim clk p k num (saw n)
/-- The release has its ACK: the command completes (R308 step 5). -/
def releaseAcked (clk : Clock) (p : Nat) (k : ObjKind) (num : Nat) (n : Node) : Node :=
  match getOwn n p k num with
  | none => n
  | some o => match o.xfer with
    | some x => if o.st == .released && x.wrote then post clk x.tok stSuccess o.epoch (modOwn p k num (fun o => { o with xfer := none }) n) else n
    | none => n
/-- The release is undeliverable: the object freezes and the command completes with `ST_OBJECT_FROZEN` (R308). -/
def releaseLost (clk : Clock) (p : Nat) (k : ObjKind) (num : Nat) (n : Node) : Node :=
  match getOwn n p k num with
  | none => n
  | some o => match o.xfer with
    | some x => if o.st == .released && x.wrote then freezeObj clk p k num x.peer x.peerP n else n
    | none => n

end Sys2Proof.Machine
end

