-- ==== Sys2Proof/Machine/Durability.lean ====
section
/-! DEFINITION. Update epochs, mirroring, snapshots and restoration (R314 to R323), and the events after which a transfer of ownership (R308, R309) or a drop may go on. -/

namespace Sys2Proof.Machine

/-! ### What a commit, an applied add or an acknowledgement lets go on -/

/-- A release, a claim or a drop of the object ends if nothing holds it back any more. -/
def settleObj (clk : Clock) (p : Nat) (k : ObjKind) (num : Nat) (n : Node) : Node :=
  let n := tryClaim clk p k num (tryRelease clk p k num n)
  match k with
  | .coll => finishDrop clk p num n
  | .table => finishTblDrop clk p num n
/-- The same for every object of a partition in transfer or being dropped. -/
def settleXfers (clk : Clock) (p : Nat) (n : Node) : Node :=
  let x := getP n p
  let n := foldNode (x.colls.filter (fun c => c.2.own.xfer.isSome || c.2.drop.isSome)) (fun c n => settleObj clk p .coll c.1 n) n
  foldNode (x.tbls.filter (fun t => t.2.own.xfer.isSome || t.2.drop.isSome)) (fun t n => settleObj clk p .table t.1 n) n
def execCommitPoint (e : Env) (p c seq : Nat) (s : State) : Host.Outcome State Fault Refusal :=
  run e (fun clk host n => settleXfers clk p (commitPoint p c seq clk host n)) s
def execAddApplied (e : Env) (p add : Nat) (s : State) : Host.Outcome State Fault Refusal :=
  run e (fun clk host n => settleXfers clk p (addApplied p add clk host n)) s
def execMigrationCutover (e : Env) (p t row : Nat) (s : State) : Host.Outcome State Fault Refusal :=
  run e (fun clk host n => settleXfers clk p (migrationCutover p t row clk host n)) s
def execModelBatchEnd (e : Env) (p batch : Nat) (s : State) : Host.Outcome State Fault Refusal :=
  run e (fun clk host n => settleXfers clk p (batchEnd p batch clk host n)) s
def execClaimTimeout (e : Env) (p : Nat) (k : ObjKind) (c : Nat) (s : State) : Host.Outcome State Fault Refusal :=
  run e (fun clk _ n => settleXfers clk p (claimTimeout p k c clk n)) s
def execOwnRelease (e : Env) (link : Nat) (m : Msg) (s : State) : Host.Outcome State Fault Refusal :=
  run e (onMsg mkOwnRelease link m (fun clk n => settleXfers clk m.dstPtn (ownMessage mkOwnRelease m clk n))) s
def execOwnClaim (e : Env) (link : Nat) (m : Msg) (s : State) : Host.Outcome State Fault Refusal :=
  run e (onMsg mkOwnClaim link m (fun clk n => settleXfers clk m.dstPtn (ownMessage mkOwnClaim m clk n))) s
def execOwnState (e : Env) (link : Nat) (m : Msg) (s : State) : Host.Outcome State Fault Refusal :=
  run e (onMsg mkOwnState link m (fun clk n => settleXfers clk m.dstPtn (ownMessage mkOwnState m clk n))) s

/-! ### Holds (R317) -/

/-- Committed records of an object that the buddy has not acknowledged, oldest first. -/
def Dur.open_ (d : Dur) : List Unack := (d.unacked.map (·.2)).flatten ++ d.unsent
/-- Commits go on without a buddy, until a new one has acknowledged every record (R320). -/
def goesOn (x : Ptn) : Bool := x.unprot && bit x.durCfg 2
/-- An unacknowledged record of the object is too old: an age of E, or a training step before the last closed one. Records committed before the last write of
`PTN_BUDDY` do not count (R320). -/
def holdDue (clk : Clock) (n : Node) (p : Nat) (k : ObjKind) (num : Nat) : Bool :=
  let x := getP n p
  let us := (((getDur n p k num).getD {}).open_).filter (fun u => decide (x.buddyAt ≤ u.at_))
  mirrorOn x && !goesOn x && (match k with
    | .coll => us.any (fun u => decide (u.at_ + epochCycles x ≤ pctr clk p))
    | .table => us.any (fun u => decide (u.r.epoch + 2 ≤ x.epoch)))
/-- A DURABILITY record (Table 13-7). -/
def durRecord (clk : Clock) (p cause epoch : Nat) (n : Node) : Node := addFault clk p { seq := 0, ctr := 0, kind := fkDurability, d1 := cause, d2 := epoch } n
def beginHold (clk : Clock) (p : Nat) (k : ObjKind) (num : Nat) (n : Node) : Node :=
  match getDur n p k num with
  | none => n
  | some d =>
    if d.held || !holdDue clk n p k num then n
    else raisePtn attnDurability p (durRecord clk p 2 (getP n p).epoch (modDur p k num (fun d => { d with held := true, heldAt := pctr clk p }) n))
def endHold (clk : Clock) (p : Nat) (k : ObjKind) (num : Nat) (n : Node) : Node :=
  match getDur n p k num with
  | none => n
  | some d =>
    if !d.held || holdDue clk n p k num then n
    else
      let n := modDur p k num (fun d => { d with held := false, heldAt := pctr clk p }) n
      match k with
      | .coll => creditHeld clk p d.heldAt ((((getC n p num).map (·.upds)).getD []).map (·.ctx)) n
      | .table => if ((getOwn n p k num).map (·.st)) == some .releasing then n else releaseAdds clk p num d.heldAt n
/-- Every object of a partition: collections, then tables. -/
def objsOf (x : Ptn) : List (ObjKind × Nat) := x.colls.map (fun c => (.coll, c.1)) ++ x.tbls.map (fun t => (.table, t.1))
def endHolds (clk : Clock) (p : Nat) (n : Node) : Node := foldNode (objsOf (getP n p)) (fun o n => endHold clk p o.1 o.2 n) n
/-- `DURABILITY_HOLD`: the collection's oldest unacknowledged record has reached an age of E. -/
def execDurabilityHold (e : Env) (p c : Nat) (s : State) : Host.Outcome State Fault Refusal := run e (fun clk _ n => beginHold clk p .coll c n) s

/-! ### Mirror messages sent (R316, R318, R320) -/

/-- `MIRROR_SEND_TIMER`: 1 ms since the collection's oldest unsent record committed. -/
def mirrorSendTimer (p c : Nat) (clk : Clock) (n : Node) : Node :=
  match (getDur n p .coll c).bind (fun d => d.unsent.head?) with
  | none => n
  | some u => if pctr clk p < u.at_ + 300000 then n else mirrorSend clk p .coll c false n
def execMirrorSendTimer (e : Env) (p c : Nat) (s : State) : Host.Outcome State Fault Refusal := run e (fun clk _ n => mirrorSendTimer p c clk n) s
/-- Durable commands whose record is acknowledged, or need not be any more. -/
def dropAcks (clk : Clock) (us : List Unack) (n : Node) : Node :=
  foldNode (us.filterMap (·.tok)) (fun t n => finishCmd clk t (modWait t (fun d => { d with acks := d.acks - 1 }) n)) n
/-- Every record of the partition is acknowledged. -/
def allAcked (x : Ptn) : Bool := x.colls.all (fun c => c.2.dur.open_.isEmpty) && x.tbls.all (fun t => t.2.dur.open_.isEmpty)
/-- The buddy has acknowledged a MIRROR_WRITE. -/
def mirrorAcked (clk : Clock) (p : Nat) (k : ObjKind) (num seq : Nat) (n : Node) : Node :=
  match (getDur n p k num).bind (fun d => mget d.unacked seq) with
  | none => n
  | some us =>
    let bytes := sumNat (us.map (fun u => (recBytes (descOfObj n p k num) u.r).length))
    let n := count p .mirrorBytes bytes (modDur p k num (fun d => { d with unacked := mdel d.unacked seq }) n)
    let n := modP p (fun x => if allAcked x then { x with unprot := false } else x) (dropAcks clk us n)
    settleXfers clk p (endHold clk p k num n)
/-- A MIRROR_WRITE is undeliverable: its records stay unacknowledged. -/
def mirrorLost (clk : Clock) (p : Nat) (n : Node) : Node :=
  let n := raisePtn attnDurability p (durRecord clk p 1 (getP n p).epoch (noteSet (0x50528 + 0x1000 * p) 1 (modP p (fun x => { x with buddyLost := true, unprot := x.unprot || bit x.durCfg 2 }) n)))
  endHolds clk p n
/-- Log records of an object from the epoch after `SNAP_EPOCH`, all of them where no snapshot is complete; what a record already knew of its commit time and its command is kept. -/
def resendOf (n : Node) (p : Nat) (k : ObjKind) (num : Nat) : List Unack :=
  let d := (getDur n p k num).getD {}
  let rs : List MRec := match k with
    | .coll => ((getC n p num).map (fun c => c.log.map MRec.coll)).getD []
    | .table => ((getT n p num).map (fun t => t.log.map (fun r => MRec.train r.2))).getD []
  let old := d.open_
  let k := rs.length - old.length
  ((rs.take k).filter (fun r => d.lastSnap = 0 || decide (d.lastSnap < r.epoch))).map (fun r => { r := r, at_ := 0 }) ++ old
/-- A write of `PTN_BUDDY` (R320): the new buddy is sent every record from the epoch after the snapshot; none of them counts under R317. -/
def ptnBuddy (p : Nat) (v : W64) (clk : Clock) (n : Node) : Node :=
  let n := modP p (fun x => { x with buddy := put 0 0 32 v.toNat, buddyAt := pctr clk p, buddyLost := x.buddyLost }) n
  let n := modLnk (fun b => { b with acks := b.acks.filter (fun a => match a.for_ with
    | .mirror q _ _ => q != p
    | _ => true) }) n
  let old (u : Unack) : Unack := { u with at_ := u.at_ - (u.at_ + 1 - pctr clk p) }
  let n := if mirrorOn (getP n p) then
      foldNode (objsOf (getP n p)) (fun o n =>
        let us := (resendOf n p o.1 o.2).map old
        mirrorSend clk p o.1 o.2 false (modDur p o.1 o.2 (fun d => { d with unsent := us, unacked := [] }) n)) n
    else n
  endHolds clk p n
/-- `MIRROR` is cleared: nothing waits for a buddy any more. -/
def mirrorOff (clk : Clock) (p : Nat) (n : Node) : Node :=
  let n := modLnk (fun b => { b with acks := b.acks.filter (fun a => match a.for_ with
    | .mirror q _ _ => q != p
    | _ => true) }) n
  let n := foldNode (objsOf (getP n p)) (fun o n =>
    let us := ((getDur n p o.1 o.2).getD {}).open_
    dropAcks clk us (modDur p o.1 o.2 (fun d => { d with unsent := [], unacked := [] }) n)) n
  settleXfers clk p (endHolds clk p n)

/-! ### Snapshots (R321, R322) -/

/-- The state of an object as a snapshot holds it (log 46): for a collection the live Sapling entries with their list, then the tombstoned IDs; for a table every row. -/
def snapBytes (n : Node) (p : Nat) (k : ObjKind) (num : Nat) : List Byte := match k with
  | .coll => match getC n p num with
    | none => []
    | some c => match c.cur with
      | none => toLe 8 0 ++ toLe 8 0
      | some g =>
        let live := (g.lists.map (fun l => (l.2.sap.filter (fun r => r.valid && !r.deleted)).map (fun r => (l.1, r)))).flatten
        let dead := (g.lists.map (fun l => (l.2.body.filter (·.tomb)).map (·.id))).flatten
        toLe 8 live.length ++ toLe 8 dead.length ++ (live.map (fun x => toLe 4 x.1 ++ sapBytes c.desc x.2)).flatten ++ (dead.map (fun i => toLe 8 i.toNat)).flatten
  | .table => match getT n p num with
    | none => []
    | some t => ((List.range t.rows).map (fun r => bytesOf32 (rowOfT t r))).flatten
def chunkSize : Nat := 32768
def stripesOf (bs : List Byte) : Nat := cdiv bs.length (8 * chunkSize)
/-- x · a over GF(2^8) with the polynomial x^8 + x^4 + x^3 + x^2 + 1. -/
def gfDbl (b : Byte) : Byte := (b <<< 1) ^^^ (if b.getLsbD 7 then 0x1D else 0)
def xorBytes (a b : List Byte) : List Byte := List.zipWith (· ^^^ ·) a b
/-- Data chunk j of a stripe, padded with zeros. -/
def dataChunk (bs : List Byte) (s j : Nat) : List Byte :=
  let d := slice bs (8 * chunkSize * s + chunkSize * j) chunkSize
  d ++ List.replicate (chunkSize - d.length) 0
/-- Chunk j of a stripe: 0 to 7 data, 8 P, 9 Q. -/
def chunkOf (bs : List Byte) (s j : Nat) : List Byte :=
  let ds := (List.range 8).map (dataChunk bs s)
  let zero : List Byte := List.replicate chunkSize 0
  if j < 8 then dataChunk bs s j
  else if j = 8 then ds.foldl xorBytes zero
  else ds.foldr (fun d q => xorBytes d (q.map gfDbl)) zero
/-- Table 13-18. -/
def chunkBody (n : Node) (p : Nat) (k : ObjKind) (num epoch : Nat) (bs : List Byte) (s j : Nat) : List Byte :=
  toLe 8 (objId n p k num).toNat ++ toLe 1 (ObjKind.code k) ++ toLe 1 j ++ toLe 6 0 ++ toLe 8 epoch ++ toLe 8 (genNum n p k num).toNat ++ toLe 4 s ++
    toLe 4 (stripesOf bs) ++ toLe 8 bs.length ++ chunkOf bs s j
def memberOf (x : Ptn) (i : Nat) : W32 × Nat :=
  let w := x.snapMem.toList.getD i 0
  (w.setWidth 32, fld w 32 3)
/-- Complete: every stripe has nine acknowledgements. Failed: a stripe can no longer have nine. -/
def settleSnap (clk : Clock) (p : Nat) (k : ObjKind) (num : Nat) (n : Node) : Node :=
  match (getDur n p k num).bind (·.snap) with
  | none => n
  | some s =>
    let per (l : List (Nat × Nat)) (st : Nat) : Nat := (l.filter (fun x => x.1 == st)).length
    let ss := List.range (stripesOf s.bytes)
    let quit (n : Node) : Node := modLnk (fun b => { b with acks := b.acks.filter (fun a => match a.for_ with
      | .snap q k2 m _ _ => !(q == p && k2 == k && m == num)
      | _ => true) }) n
    if ss.any (fun st => decide (2 ≤ per s.lost st)) then
      let n := quit (modDur p k num (fun d => { d with snap := none }) n)
      postO clk s.tok stNoSpace 0 (raisePtn attnDurability p (durRecord clk p 3 s.epoch (count p .snapFailed 1 n)))
    else if ss.all (fun st => decide (9 ≤ per s.acks st)) then
      postO clk s.tok stSuccess 0 (count p .snapshots 1 (modDur p k num (fun d => { d with snap := none, lastSnap := s.epoch }) n))
    else n
/-- Starts a snapshot of the state as it stands at the boundary that closes epoch `epoch`. -/
def startSnap (clk : Clock) (p : Nat) (k : ObjKind) (num epoch : Nat) (tok : Option Tok) (n : Node) : Node :=
  let bs := snapBytes n p k num
  let all := ((List.range (stripesOf bs)).map (fun s => (List.range 10).map (fun j => (s, j)))).flatten
  let x := getP n p
  let lost := all.filter (fun c => (memberOf x ((c.2 + c.1) % 10)).1 == 0)
  let n := modDur p k num (fun d => { d with wantSnap := none, snap := some { epoch := epoch, bytes := bs, lost := lost, tok := tok } }) n
  let n := foldNode (all.filter (fun c => !lost.contains c)) (fun c n =>
    let m := memberOf x ((c.2 + c.1) % 10)
    sendAcked clk (64 + p) m.1 mkSnap p m.2 (chunkBody n p k num epoch bs c.1 c.2) (.snap p k num c.1 c.2) n) n
  settleSnap clk p k num n
def snapAcked (clk : Clock) (p : Nat) (k : ObjKind) (num : Nat) (c : Nat × Nat) (n : Node) : Node :=
  settleSnap clk p k num (modDur p k num (fun d => { d with snap := d.snap.map (fun s => { s with acks := s.acks ++ [c] }) }) n)
def snapLost (clk : Clock) (p : Nat) (k : ObjKind) (num : Nat) (c : Nat × Nat) (n : Node) : Node :=
  settleSnap clk p k num (modDur p k num (fun d => { d with snap := d.snap.map (fun s => { s with lost := s.lost ++ [c] }) }) n)

/-! ### Epochs (R314) -/

/-- `EPOCH_BOUNDARY`: the epoch closes, its records go out, holds of tables begin, snapshots asked for or due start, and the next epoch latches its length. -/
def epochBoundary (p : Nat) (clk : Clock) (n : Node) : Node :=
  let x := getP n p
  if x.st == .absent || decide (pctr clk p < x.epochAt + x.epochLen) then n
  else
    let closed := x.epoch
    let n := ungate p n
    let n := foldNode (objsOf x) (fun o n => mirrorSend clk p o.1 o.2 true n) n
    let n := modP p (fun x => { x with epoch := closed + 1, epochAt := x.epochAt + x.epochLen, epochLen := 300000 * fld x.durCfg 32 16 }) n
    let n := foldNode x.tbls (fun t n => beginHold clk p .table t.1 n) n
    let every := fld x.durCfg 48 16
    let due := mirrorOn x && decide (0 < every) && (closed + 1) % every == 0
    if x.st == .resetting || x.st == .withdrawn || x.st == .restoring || x.pow == .off || x.pow == .waking then n
    else foldNode (objsOf x) (fun o n => match getDur n p o.1 o.2 with
      | none => n
      | some d =>
        if d.snap.isSome || !(due || d.wantSnap.isSome) then n
        else startSnap clk p o.1 o.2 closed (match d.wantSnap with
          | some t => t
          | none => none) n) n
def execEpochBoundary (e : Env) (p : Nat) (s : State) : Host.Outcome State Fault Refusal := run e (fun clk _ n => epochBoundary p clk n) s

/-! ### Records received (R316, R319) -/

/-- Inverse of `sapBytes`. -/
def sapOf (d : CollDesc) (bs : List Byte) : SapRec :=
  let k := skBits d.skw / 8
  { id := BitVec.ofNat 64 (leAt bs 0 8), seq := leAt bs 8 8, attr := BitVec.ofNat 64 (leAt bs 16 8), tag := BitVec.ofNat 16 (leAt bs 24 2)
    valid := (leAt bs 26 2).testBit 0, deleted := (leAt bs 26 2).testBit 1, scale := BitVec.ofNat 16 (leAt bs 28 2), sketch := leAt bs 32 k
    codes := if d.metric = 3 then [] else codesOf (slice bs (32 + k) (d.dim / 2)) }
/-- Records of a message, in order: width `w` elements for a table. -/
def recsOf (d : CollDesc) (k : ObjKind) (w : Nat) (packed : Bool) : Nat → List Byte → List MRec
  | 0, _ => []
  | fuel + 1, bs =>
    let step (len : Nat) : Nat := if packed then len else 64 * cdiv len 64
    match k with
    | .coll =>
      let kind : RecKind := match leAt bs 8 1 with
        | 0 => .insert
        | 1 => .delete
        | _ => .upsert
      let len := 32 + (if kind == .delete then 0 else sapSize d)
      .coll { seq := leAt bs 0 8, kind := kind, list := leAt bs 12 4, id := BitVec.ofNat 64 (leAt bs 16 8), epoch := leAt bs 24 8
              sap := if kind == .delete then none else some (sapOf d (bs.drop 32)) } :: recsOf d k w packed fuel (bs.drop (step len))
    | .table =>
      .train { epoch := leAt bs 0 8, row := leAt bs 8 4, write := leAt bs 12 4 % 2 == 1, delta := words32 (bs.drop 16) w } ::
        recsOf d k w packed fuel (bs.drop (step (16 + 4 * w)))
/-- Records in the body of a MIRROR_WRITE, as the object at this node reads them. -/
def bodyRecs (n : Node) (p : Nat) (k : ObjKind) (num : Nat) (b : List Byte) : List MRec :=
  recsOf (descOfObj n p k num) k (((getT n p num).map (·.width)).getD 0) ((leAt b 9 1).testBit 2) (leAt b 0x0A 2) (b.drop 0x30)
/-- An operation that comes from elsewhere applied to a row: after what was issued on it, in a migration's log too, and to no prefetch copy. -/
def applyRow (clk : Clock) (p tn r : Nat) (op : RowOp) (n : Node) : Node :=
  heatRow p tn r true (dropPre p tn r (modT p tn (fun t => applyOp t r op) (logOp p tn r op (settleRow clk p tn r n))))
/-- One record applied to a copy at the list it names; none where it cannot be (R319). A record that the copy already has changes nothing. -/
def applyRec (clk : Clock) (p : Nat) (k : ObjKind) (num : Nat) (r : MRec) (n : Node) : Option Node := match k, r with
  | .coll, .coll r => match getC n p num with
    | none => none
    | some c =>
      if r.seq ≤ c.applied then some n
      else match c.cur with
        | none => none
        | some g =>
          let g2 : Option Gen := match r.sap with
            | none => genDelete g r.id
            | some s =>
              let old := mget g.idMap r.id.toNat
              (appendSap c.desc.sapCap (poolSize (getP n p)) (usedChunks (getP n p)) g r.list s).map (fun g => match old with
                | some loc => killAt g loc
                | none => g)
          g2.map (fun g => logLocal clk p k num (.coll r) none
            (growIds clk p num (modC p num (fun c => { c with cur := some g, applied := r.seq, seq := max c.seq r.seq, log := c.log ++ [r] }) n)))
  | .table, .train r => match getT n p num with
    | none => none
    | some t =>
      if t.rows ≤ r.row then none
      else some (logLocal clk p k num (.train r) none (applyRow clk p num r.row (if r.write then .write r.delta else .add r.delta) n))
  | _, _ => none
/-- Applies records in order; false when one could not be applied. -/
def applyRecs (clk : Clock) (p : Nat) (k : ObjKind) (num : Nat) : List MRec → Node → Node × Bool
  | [], n => (n, true)
  | r :: rs, n => match applyRec clk p k num r n with
    | some n => applyRecs clk p k num rs n
    | none => (n, false)
/-- The node flash objects that keep the records and the snapshot chunks of other nodes (log 38). -/
def keptObj : Nat := 0x80002000
def chunkObj : Nat := 0x80002001
/-- The run of blocks that the next entry takes in such an object: after what is kept there, on ACTIVE cartridges. -/
def keptAt (n : Node) (o : Nat) (kept : List Kept) (k : Nat) : Nat :=
  let b := 16 * cdiv ((kept.map (fun x => x.blk + keptBlocks x)).foldl max 0) 16
  let ok (c : Nat) : Bool := (List.range k).all (fun j => (slotOfBlk n o (b + 16 * c + j)).any (fun s => (getCart n s).st == .active))
  ((List.range 64).find? ok).elim b (b + 16 * ·)
/-- Stages the bytes of an entry; and discards one. -/
def stageKept (clk : Clock) (o : Nat) (x : Kept) (dur : Bool) (n : Node) : Node :=
  foldNode (List.range (keptBlocks x)) (fun i n => stageSector clk o (x.blk + i) (slice x.bytes (4096 * i) 4096) dur none n) n
def dropKept (clk : Clock) (o : Nat) (x : Kept) (n : Node) : Node := unmap clk o x.blk (x.blk + keptBlocks x) n
def sameSource (src : W32) (sp : Nat) (k : ObjKind) (id : W64) (x : Kept) : Bool := x.src == src && x.srcP == sp && x.kind == k && x.objId == id
/-- This node follows the object: it holds a copy that names the sender as owner (R319). -/
def followsIt (n : Node) (p : Nat) (k : ObjKind) (num : Nat) (m : Msg) : Bool := match getOwn n p k num, getDur n p k num with
  | some o, some d => (o.st == .released || o.st == .claiming) && o.owner == m.src && o.ownerP == m.srcPtn && d.follow
  | _, _ => false
/-- The records that a follower takes: it stops at the first that it cannot apply. -/
def followRecs (clk : Clock) (p : Nat) (k : ObjKind) (num : Nat) (m : Msg) (n : Node) : Node :=
  if !followsIt n p k num m then n
  else
    let b := m.body
    let same := k == .table || genNum n p k num == BitVec.ofNat 64 (leAt b 0x28 8)
    let (n, ok) := if same then applyRecs clk p k num (bodyRecs n p k num b) n else (n, false)
    if ok then n else raisePtn attnDurability p (durRecord clk p 4 (leAt b 0x10 8) (modDur p k num (fun d => { d with follow := false }) n))
/-- `MIRROR_WRITE`: kept in a node flash object through the write stage, older epochs than the source's snapshot dropped, applied where this node follows; acknowledged at once, or
once programmed when `DURABLE`. With the stage full it is not accepted. -/
def mirrorWrite (m : Msg) (clk : Clock) (n : Node) : Node :=
  let b := m.body
  let k := kindOf (leAt b 8 1)
  let id : W64 := BitVec.ofNat 64 (leAt b 0 8)
  let dur := (leAt b 9 1).testBit 1
  let snap := leAt b 0x20 8
  let p := m.dstPtn
  let x : Kept := { src := m.src, srcP := m.srcPtn, kind := k, objId := id, epoch := leAt b 0x10 8, total := snap, bytes := b }
  if decide (stageSize < stageFill n + keptBlocks x) || n.flash.ackWhen.any (fun a => a.1.src == m.src && a.1.seq == m.seq) then n
  else
    let n := needObj p keptObj n
    let x := { x with blk := keptAt n keptObj n.flash.mirrors (keptBlocks x) }
    let gone := n.flash.mirrors.filter (fun x => sameSource m.src m.srcPtn k id x && snap != 0 && decide (x.epoch ≤ snap))
    let n := foldNode gone (dropKept clk keptObj) n
    let n := stageKept clk keptObj x dur (modFls (fun f => { f with mirrors := f.mirrors.filter (fun x => !gone.contains x) ++ [x] }) n)
    let n := if dur then modFls (fun f => { f with ackWhen := f.ackWhen ++ [(m, keptObj, x.blk)] }) n else ackBack clk m n
    let n := match findId n p k id with
      | some num => followRecs clk p k num m n
      | none => n
    settleXfers clk p n
def execMirrorWrite (e : Env) (link : Nat) (m : Msg) (s : State) : Host.Outcome State Fault Refusal := run e (onMsg mkMirror link m (mirrorWrite m)) s
/-- `SNAP_CHUNK`: kept on flash, through the write stage, while they have room; of each source object the chunks of its three latest epochs stay, which holds its two latest complete
snapshots beside one in progress. -/
def snapChunk (m : Msg) (clk : Clock) (n : Node) : Node :=
  let b := m.body
  let k := kindOf (leAt b 8 1)
  let id : W64 := BitVec.ofNat 64 (leAt b 0 8)
  let c : Kept := { src := m.src, srcP := m.srcPtn, kind := k, objId := id, epoch := leAt b 0x10 8, stripe := leAt b 0x20 4, chunk := leAt b 9 1, total := leAt b 0x24 4, bytes := b }
  if freeFlash n < 4096 * keptBlocks c || decide (stageSize < stageFill n + keptBlocks c) then n
  else
    let n := needObj m.dstPtn chunkObj n
    let c := { c with blk := keptAt n chunkObj n.flash.chunks (keptBlocks c) }
    let all := n.flash.chunks.filter (fun x => !(sameSource m.src m.srcPtn k id x && x.epoch == c.epoch && x.stripe == c.stripe && x.chunk == c.chunk)) ++ [c]
    let eps := sortBy (fun a b => decide (b ≤ a)) (nubNat ((all.filter (sameSource m.src m.srcPtn k id)).map (·.epoch)))
    let stay := all.filter (fun x => !sameSource m.src m.srcPtn k id x || (eps.take 3).contains x.epoch)
    let n := foldNode (n.flash.chunks.filter (fun x => !stay.contains x)) (dropKept clk chunkObj) n
    ackBack clk m (if stay.contains c then stageKept clk chunkObj c false (modFls (fun f => { f with chunks := stay }) n) else modFls (fun f => { f with chunks := stay }) n)
def execSnapChunk (e : Env) (link : Nat) (m : Msg) (s : State) : Host.Outcome State Fault Refusal := run e (onMsg mkSnap link m (snapChunk m)) s

/-! ### `SNAPSHOT_TAKE` (R322) -/

/-- Partition and number of the object that `TARGET` names: a collection, or a table of the function's partition. -/
def snapRef (n : Node) (fn : Nat) (e : Sqe) : Option (Nat × ObjKind × Nat) :=
  if e.arg0.testBit 8 then match (getFn n fn).map with
    | some p => if (getT n p e.target).isSome then some (p, .table, e.target) else none
    | none => none
  else (collRef n fn true e.target).map (fun x => (x.1, .coll, x.2))
def snapPtn (n : Node) (fn : Nat) (e : Sqe) : Option Nat := (snapRef n fn e).map (·.1)
def isRestore (e : Sqe) : Bool := e.arg0 % 4 == 1
def takeChk (n : Node) (fn : Nat) (e : Sqe) : Option Nat :=
  if (snapRef n fn e).isNone then some 0x04
  else if e.arg0 % 4 ≠ 0 then some 0x18
  else if e.arg1 ≠ 0 then some 0x20
  else if e.arg2 ≠ 0 then some 0x28
  else if e.arg3 ≠ 0 then some 0x30 else none
def snapshotTake : Job := fun clk _ t e n =>
  match snapRef n t.fn e with
  | none => invalid clk t 0x04 0 n
  | some (p, k, num) => match getDur n p k num with
    | none => invalid clk t 0x04 0 n
    | some d =>
      if d.snap.isSome || d.wantSnap.isSome then post clk t stBusy 0 n
      else modDur p k num (fun d => { d with wantSnap := some (some t) }) n
def execSnapshotTake (e : Env) (q : QRef) (s : State) : Host.Outcome State Fault Refusal :=
  run e (hostCmd Rows.snapshotTake (fun x => !isRestore x) takeChk snapPtn snapshotTake q) s

/-! ### Restoration (R323) -/

/-- Table 13-19. -/
def recBody (n : Node) (p : Nat) (k : ObjKind) (num what : Nat) (r : Recover) (stripe epoch : Nat) : List Byte :=
  toLe 8 (objId n p k num).toNat ++ toLe 1 (ObjKind.code k) ++ toLe 1 what ++ toLe 2 0 ++ toLe 4 r.src.toNat ++ toLe 1 r.srcP ++ toLe 3 0 ++ toLe 4 stripe ++ toLe 8 epoch ++ toLe 8 0
def sendPlain (clk : Clock) (p : Nat) (dst : W32) (kind dp : Nat) (body : List Byte) (n : Node) : Node := send clk (64 + p) dst kind (levelTo n dst) p dp body n
def modRec (p : Nat) (k : ObjKind) (num : Nat) (g : Recover → Recover) (n : Node) : Node := modDur p k num (fun d => { d with recover := d.recover.map g }) n
/-- Asks every member for a stripe; a member without an identifier or a route counts as having answered. -/
def askStripe (clk : Clock) (p : Nat) (k : ObjKind) (num stripe : Nat) (bound : Option Nat) (n : Node) : Node :=
  match (getDur n p k num).bind (·.recover) with
  | none => n
  | some r =>
    let x := getP n p
    let dead (i : Nat) : Bool :=
      let m := memberOf x i
      m.1 == 0 || (m.1 != n.lnk.nodeId && (pickLink n { dst := m.1, src := n.lnk.nodeId, kind := mkRecRead, level := 3 }).isNone)
    let (off, on) := (List.range 10).partition dead
    let n := modRec p k num (fun r => { r with stripe := stripe, bound := bound, heard := off }) n
    foldNode on (fun i n => sendPlain clk p (memberOf x i).1 mkRecRead (memberOf x i).2 (recBody n p k num 0 r stripe (bound.getD 0)) n) n
/-- Ends a restoration. -/
def endRecover (clk : Clock) (p : Nat) (k : ObjKind) (num status result : Nat) (n : Node) : Node :=
  match (getDur n p k num).bind (·.recover) with
  | none => n
  | some r => post clk r.tok status result (modDur p k num (fun d => { d with recover := none }) n)
/-- No update committed at the object. -/
def untouched (n : Node) (p : Nat) (k : ObjKind) (num : Nat) : Bool := match k with
  | .coll => match getC n p num with
    | some c => c.log.isEmpty && c.upds.isEmpty
    | none => false
  | .table => match getT n p num with
    | some t => t.log.isEmpty && !(getP n p).adds.any (fun a => a.2.tbl == num)
    | none => false
def restoreChk (n : Node) (fn : Nat) (e : Sqe) : Option Nat := match snapRef n fn e with
  | none => some 0x04
  | some (p, k, num) => if untouched n p k num then none else some 0x04
def snapshotRestore : Job := fun clk _ t e n =>
  match snapRef n t.fn e with
  | none => invalid clk t 0x04 0 n
  | some (p, k, num) => match getDur n p k num with
    | none => invalid clk t 0x04 0 n
    | some d =>
      if d.recover.isSome || d.snap.isSome then post clk t stBusy 0 n
      else
        let r : Recover := { tok := t, src := argOwner e.arg1, srcP := argOwnerP e.arg1, bud := argOwner e.arg2, budP := argOwnerP e.arg2 }
        let n := askStripe clk p k num 0 (if e.arg3 = 0 then none else some e.arg3) (modDur p k num (fun d => { d with recover := some r }) n)
        if (((getDur n p k num).bind (·.recover)).map (fun r => r.heard.length)) == some 10 then endRecover clk p k num stGenStale 0 n else n
def execSnapshotTakeRestore (e : Env) (q : QRef) (s : State) : Host.Outcome State Fault Refusal :=
  run e (hostCmd Rows.snapshotTake isRestore restoreChk snapPtn snapshotRestore q) s
/-- `RECOVER_READ` (log 46): every chunk kept of the stripe whose epoch is within the bound; or the epoch of the source's latest snapshot and the bodies kept from `EPOCH` on. -/
def recoverRead (m : Msg) (clk : Clock) (n : Node) : Node :=
  let b := m.body
  let k := kindOf (leAt b 8 1)
  let mine (x : Kept) : Bool := sameSource (BitVec.ofNat 32 (leAt b 0x0C 4)) (leAt b 0x10 1 % 8) k (BitVec.ofNat 64 (leAt b 0 8)) x
  let ep := leAt b 0x18 8
  let data : List Byte :=
    if leAt b 9 1 = 0 then ((n.flash.chunks.filter (fun x => mine x && x.stripe == leAt b 0x14 4 && (ep == 0 || decide (x.epoch ≤ ep)))).map (·.bytes)).flatten
    else
      let ms := n.flash.mirrors.filter mine
      toLe 8 ((ms.map (·.total)).foldl max 0) ++ ((ms.filter (fun x => decide (ep ≤ x.epoch))).map (fun x => toLe 4 x.bytes.length ++ x.bytes)).flatten
  send clk (64 + m.dstPtn) m.src mkRecData m.level m.dstPtn m.srcPtn (b.take 40 ++ data) n
def execRecoverRead (e : Env) (link : Nat) (m : Msg) (s : State) : Host.Outcome State Fault Refusal := run e (onMsg mkRecRead link m (recoverRead m)) s

/-- A product over GF(2^8). -/
def gfMul (a : Byte) : Nat → Byte → Byte
  | 0, _ => 0
  | k + 1, b => (if b.getLsbD 0 then a else 0) ^^^ gfMul (gfDbl a) k (b >>> 1)
def gf (a b : Byte) : Byte := gfMul a 8 b
def gfPow2 : Nat → Byte
  | 0 => 1
  | k + 1 => gfDbl (gfPow2 k)
/-- a^254, the inverse of a. -/
def gfInv (a : Byte) : Byte :=
  let a2 := gf a a
  let a4 := gf a2 a2
  let a8 := gf a4 a4
  let a16 := gf a8 a8
  let a32 := gf a16 a16
  let a64 := gf a32 a32
  let a128 := gf a64 a64
  gf a2 (gf a4 (gf a8 (gf a16 (gf a32 (gf a64 a128)))))
/-- The data of a stripe from any eight of its chunks: lost data chunks are solved from P and Q. -/
def decodeStripe (cs : List (Nat × List Byte)) : Option (List Byte) :=
  let zero : List Byte := List.replicate chunkSize 0
  let have_ (j : Nat) : Option (List Byte) := mget cs j
  let lost := (List.range 8).filter (fun j => (have_ j).isNone)
  let known (j : Nat) : List Byte := (have_ j).getD zero
  let px := (List.range 8).foldl (fun a j => xorBytes a (known j)) zero
  let qx := (List.range 8).foldr (fun j q => xorBytes (known j) (q.map gfDbl)) zero
  let out (fix : List (Nat × List Byte)) : Option (List Byte) := some (((List.range 8).map (fun j => (mget fix j).getD (known j))).flatten)
  match lost, have_ 8, have_ 9 with
  | [], _, _ => out []
  | [a], some pp, _ => out [(a, xorBytes pp px)]
  | [a], none, some q => out [(a, (xorBytes q qx).map (gf (gfInv (gfPow2 a))))]
  | [a, b], some pp, some q =>
    let ps := xorBytes pp px
    let qs := xorBytes q qx
    -- d_a + d_b = ps and 2^a d_a + 2^b d_b = qs
    let den := gfInv (gfPow2 a ^^^ gfPow2 b)
    let db := List.zipWith (fun x y => gf den (gf (gfPow2 a) x ^^^ y)) ps qs
    out [(a, xorBytes ps db), (b, db)]
  | _, _, _ => none
/-- Chunks of one stripe and epoch, as (chunk, data). -/
def chunksAt (r : Recover) (epoch stripe : Nat) : List (Nat × List Byte) :=
  (r.chunks.filter (fun c => c.epoch == epoch && c.stripe == stripe)).foldl (fun m c => mset m c.chunk (slice c.bytes 0x30 chunkSize)) []
/-- The bytes of a snapshot, when every stripe decodes. -/
def decodeSnap (r : Recover) (epoch : Nat) : Option (List Byte) :=
  match r.chunks.find? (fun c => c.epoch == epoch) with
  | none => none
  | some c =>
    let parts := (List.range c.total).map (fun s => decodeStripe (chunksAt r epoch s))
    if parts.any Option.isNone then none else some ((parts.filterMap id).flatten.take (leAt c.bytes 0x28 8))
/-- The object rebuilt from a snapshot; none where it does not fit. -/
def loadSnap (clk : Clock) (p : Nat) (k : ObjKind) (num : Nat) (bs : List Byte) (n : Node) : Option Node := match k with
  | .coll => match getC n p num with
    | none => none
    | some c => match c.cur with
      | none => if leAt bs 0 8 = 0 ∧ leAt bs 8 8 = 0 then some n else none
      | some g =>
        let size := 4 + sapSize c.desc
        let nl := leAt bs 0 8
        let live := (List.range nl).map (fun i => (leAt bs (16 + size * i) 4, sapOf c.desc (bs.drop (16 + size * i + 4))))
        let dead := (List.range (leAt bs 8 8)).map (fun i => (BitVec.ofNat 64 (leAt bs (16 + size * nl + 8 * i) 8) : W64))
        let g := dead.foldl (fun g i => (genDelete g i).getD g) g
        let g := live.foldl (fun (g : Option Gen) x => g.bind (fun g => appendSap c.desc.sapCap (poolSize (getP n p)) (usedChunks (getP n p) ++ genChunks g) g x.1 x.2)) (some g)
        let top := live.foldl (fun a x => max a x.2.seq) c.applied
        g.map (fun g => growIds clk p num (modC p num (fun c => { c with cur := some g, root := some g, applied := top, seq := max c.seq top }) n))
  | .table => match getT n p num with
    | none => none
    | some t =>
      let row (r : Nat) : List W32 := words32 (bs.drop (4 * t.width * r)) t.width
      let rs := (List.range t.rows).filter (fun r => (row r).any (· != 0))
      some (foldNode rs (fun r n => logLocal clk p k num (.train { epoch := (getP n p).epoch, row := r, delta := row r, write := true }) none
        (applyRow clk p num r (.write (row r)) n)) n)
/-- The next move once an answer is in: the next stripe, an earlier snapshot, the buddy's records, or the end. -/
def stepRecover (clk : Clock) (p : Nat) (k : ObjKind) (num : Nat) (r : Recover) (n : Node) : Node :=
  let eps := sortBy (fun a b => decide (b ≤ a)) (nubNat ((r.chunks.filter (fun c => c.stripe == 0)).map (·.epoch)))
  let inB (e : Nat) : Bool := match r.bound with
    | some b => decide (e ≤ b)
    | none => true
  let full (e s : Nat) : Bool := decide (8 ≤ (chunksAt r e s).length)
  let all := decide (10 ≤ r.heard.length)
  match eps.find? (fun e => inB e && full e 0) with
  | none => if all then endRecover clk p k num stGenStale 0 n else n
  | some e =>
    let total := ((r.chunks.find? (fun c => c.epoch == e)).map (·.total)).getD 0
    if full e r.stripe then
      if r.stripe + 1 < total then askStripe clk p k num (r.stripe + 1) r.bound n
      else
        let gen : W64 := ((r.chunks.find? (fun c => c.epoch == e)).map (fun c => BitVec.ofNat 64 (leAt c.bytes 0x18 8))).getD 0
        if k == .coll && gen != genNum n p k num then endRecover clk p k num stInvalidField (badField 0x04 0) n
        else sendPlain clk p r.bud mkRecRead r.budP (recBody n p k num 1 r 0 (e + 1)) (modRec p k num (fun r => { r with reading := some e }) n)
    else if all then
      -- the stripe cannot be decoded: the previous snapshot, from its first stripe
      if e = 0 then endRecover clk p k num stGenStale 0 n else askStripe clk p k num 0 (some (e - 1)) n
    else n
/-- Chunk bodies that an answer appends. -/
def chunksIn (src : W32) (sp : Nat) (k : ObjKind) (id : W64) : Nat → List Byte → List Kept
  | 0, _ => []
  | f + 1, b =>
    if b.length < 0x30 + chunkSize then []
    else { src := src, srcP := sp, kind := k, objId := id, epoch := leAt b 0x10 8, stripe := leAt b 0x20 4, chunk := leAt b 9 1, total := leAt b 0x24 4
           bytes := b.take (0x30 + chunkSize) } :: chunksIn src sp k id f (b.drop (0x30 + chunkSize))
/-- MIRROR_WRITE bodies that an answer appends. -/
def bodiesIn : Nat → List Byte → List (List Byte)
  | 0, _ => []
  | f + 1, b => if b.length < 4 then [] else slice b 4 (leAt b 0 4) :: bodiesIn f (b.drop (4 + leAt b 0 4))
/-- `RECOVER_DATA`. The object ends RELEASED, naming the source. -/
def recoverData (m : Msg) (clk : Clock) (n : Node) : Node :=
  let b := m.body
  let k := kindOf (leAt b 8 1)
  let p := m.dstPtn
  let id : W64 := BitVec.ofNat 64 (leAt b 0 8)
  let data := b.drop 40
  match findId n p k id with
  | none => n
  | some num => match (getDur n p k num).bind (·.recover) with
    | none => n
    | some r =>
      if r.src.toNat ≠ leAt b 0x0C 4 || r.srcP != leAt b 0x10 1 % 8 then n
      else if leAt b 9 1 = 0 then
        if r.reading.isSome || leAt b 0x14 4 != r.stripe then n
        else
          let x := getP n p
          let who := (List.range 10).filter (fun i => memberOf x i == (m.src, m.srcPtn))
          let r := { r with heard := nubNat (r.heard ++ who), chunks := r.chunks ++ chunksIn r.src r.srcP k id (data.length / chunkSize) data }
          stepRecover clk p k num r (modRec p k num (fun _ => r) n)
      else match r.reading with
        | none => n
        | some e =>
          if m.src ≠ r.bud || m.srcPtn != r.budP then n
          else if e < leAt data 0 8 then endRecover clk p k num stGenStale 0 n
          else match (decodeSnap r e).bind (fun bs => loadSnap clk p k num bs n) with
            | none => endRecover clk p k num stGenStale 0 n
            | some n =>
              let rs := ((bodiesIn data.length (data.drop 8)).map (bodyRecs n p k num)).flatten
              let (n, ok) := applyRecs clk p k num rs n
              let n := modOwn p k num (fun o => { o with st := .released, owner := r.src, ownerP := r.srcP }) n
              if ok then endRecover clk p k num stSuccess 0 n else endRecover clk p k num stGenStale 0 n
def execRecoverData (e : Env) (link : Nat) (m : Msg) (s : State) : Host.Outcome State Fault Refusal := run e (onMsg mkRecData link m (recoverData m)) s

/-! ### Acknowledged messages (R269) -/

/-- What the acknowledgement of a message ends. -/
def ackedFor (clk : Clock) (a : AckWait) (n : Node) : Node := match a.for_ with
  | .mirror p k num => mirrorAcked clk p k num a.m.seq n
  | .snap p k num s c => snapAcked clk p k num (s, c) n
  | .own p k num => if a.m.kind = mkOwnRelease then settleXfers clk p (releaseAcked clk p k num n) else n
/-- What an undeliverable message brings about. -/
def lostFor (clk : Clock) (a : AckWait) (n : Node) : Node := match a.for_ with
  | .mirror p _ _ => mirrorLost clk p n
  | .snap p k num s c => snapLost clk p k num (s, c) n
  | .own p k num => if a.m.kind = mkOwnRelease then settleXfers clk p (releaseLost clk p k num n) else n

end Sys2Proof.Machine
end

