-- ==== Sys2Proof/Machine/Links.lean ====
section
/-! DEFINITION. Juolo links (chapter 12): training and negotiation (R259, R260), flits (R264 to R266), acknowledged messages (R269), probes (R262), refill instants and the calendar wheel (R273 to R276). -/

namespace Sys2Proof.Machine

/-! ### Settled states (R372) and DOWN (R271) -/

def isSettled (s : LinkSt) : Bool := match s with
  | .off => true
  | .active => true
  | .degraded => true
  | .mismatch => true
  | .down => true
  | _ => false
/-- A link reaches a settled state: attention when it, or its `WHY`, differs from the last one. -/
def settleLink (l : Nat) (n : Node) : Node :=
  let x := getL n l
  if !isSettled x.st then n
  else
    let n1 := modL l (fun x => { x with settled := x.st, settledWhy := x.why }) n
    if x.settled = x.st && x.settledWhy == x.why then n1 else raiseAt attnLink 0 n1
/-- The state, why, and since when. -/
def setLink (clk : Clock) (l : Nat) (st : LinkSt) (why : Nat) (n : Node) : Node :=
  settleLink l (modL l (fun x => { x with st := st, why := why, since := clk.node, level := if st = .active || st = .degraded || st = .retrain then x.level else 0 }) n)
def whyNoId : Nat := 1
def whyClash : Nat := 2
def whyLevel : Nat := 3
def whyLanes : Nat := 4
def whyRetrain : Nat := 5
def whyTrain : Nat := 6
/-- A message of which a flit is still in the replay buffer. -/
def inReplay (x : Link) (e : EgMsg) : Bool := x.replay.any (fun f => f.mseq == e.m.seq && f.cls == msgClass e.m.kind)
/-- What a link held is settled as Table 12-9 gives for DOWN: messages without a flit in the replay buffer move to another link of their route, those of which a flit is there
are lost. The link then starts with an empty replay buffer and full credit. -/
def emptyLink (clk : Clock) (l : Nat) (n : Node) : Node :=
  let x := getL n l
  let lost := (x.replay.map (fun f => (f.mseq, f.cls))).eraseDups
  let mine := n.lnk.flows.filter (fun f => f.link == l)
  let go := x.waiting.filter (fun e => !inReplay x e) ++ (mine.map (·.queue)).flatten
  let n := countL l 6 lost.length (modL l (fun x => { x with
    waiting := [], replay := [], txSeq := 0, rxSeq := 0, rxAny := false, owed := List.replicate 16 0, asm_ := [], segs := [], credits := List.replicate 16 64, stallAt := List.replicate 16 clk.node }) n)
  let n := modLnk (fun b => { b with flows := b.flows.map (fun f => if f.link = l then { f with queue := [], slot := none } else f) }) n
  foldNode go (fun e n => match pickBy e.via n e.m with
    | none => countLnk 0 1 n
    | some (k, pool) => joinEgress clk k { e with pool := pool, sent := 0 } n) n
def linkDown (clk : Clock) (l why : Nat) (n : Node) : Node := emptyLink clk l (setLink clk l .down why n)
/-- The link has no peer until the next capability record (log 115). -/
def forgetPeer (l : Nat) (n : Node) : Node := modL l (fun x => { x with peer := none }) n
def startTrain (clk : Clock) (l : Nat) (n : Node) : Node := setLink clk l .train 0 (forgetPeer l n)
/-- `RETRAIN`, from a state that carries messages. -/
def retrain (clk : Clock) (l : Nat) (n : Node) : Node :=
  if (getL n l).carries then countL l 5 1 (setLink clk l .retrain 0 (modL l (fun x => { x with replay := x.replay.map (fun f => { f with tries := 0 }) }) n)) else n
/-- The state in which a trained link carries messages. -/
def carrySt (x : Link) : LinkSt := if x.bad.isEmpty then .active else .degraded
/-- The flits of the replay buffer are sent again from its head. -/
def replayBuf (clk : Clock) (l : Nat) (n : Node) : Node :=
  let x := getL n l
  if x.replay.isEmpty then n
  else
    let tries := (x.replay.headD { fseq := 0, mseq := 0, cls := 0, at_ := 0 }).tries + 1
    let n := foldNode x.replay (fun f => emit (.flit l (flitBytes f.fseq (fackOf x) 0 f.ftype f.data))) n
    let n := countL l 2 x.replay.length (modL l (fun x => { x with replay := (x.replay.map (fun f => { f with at_ := clk.node })).zipIdx.map (fun f => if f.2 = 0 then { f.1 with tries := tries } else f.1) }) n)
    if 16 ≤ tries then retrain clk l n else n

/-! ### Training (R258 to R260) -/

/-- The capability record of this end (R259). -/
def capOfLink (n : Node) (l : Nat) : CapRec :=
  { nodeId := n.lnk.nodeId, link := l, proto := imgProto n, protoMin := 3, fmt := imgFmt n, fmtMin := 2
    imageVer := match n.boot.image with
      | some i => i.imageVer
      | none => 0 }
def negotiate (clk : Clock) (l : Nat) (n : Node) : Node := emit (.cap l (capOfLink n l)) (setLink clk l .negotiate 0 n)
/-- A link that is ACTIVE puts its level into the valid route entry of its peer (R260). -/
def levelRoute (l : Nat) (n : Node) : Node :=
  let x := getL n l
  match x.peer with
  | none => n
  | some r =>
    if x.st ≠ .active then n
    else modLnk (fun b => { b with routes := mmod b.routes (r.nodeId.toNat % 4096) (fun w => if bit w 7 && fld w 32 32 == r.nodeId.toNat then put w 20 4 x.level else w) }) n
/-- `LINK_TRAINED`: training ends in NEGOTIATE; a retrain ends where it came from and replay resumes. -/
def linkTrained (l : Nat) (clk : Clock) (n : Node) : Node :=
  if 36 ≤ l then n
  else
    let x := getL n l
    if 2 ≤ x.bad.length then n
    else match x.st with
      | .train => negotiate clk l n
      | .retrain => pump clk l (replayBuf clk l (levelRoute l (setLink clk l (carrySt x) 0 n)))
      | _ => n
def execLinkTrained (e : Env) (link : Nat) (s : State) : Host.Outcome State Fault Refusal := run e (fun clk _ n => linkTrained link clk n) s
/-- `LINK_TRAINING_LOST`: the link trains again from the start; what it held is settled as for DOWN (log 48). -/
def linkTrainingLost (l : Nat) (clk : Clock) (n : Node) : Node :=
  let x := getL n l
  if 36 ≤ l || x.st == .off || x.st == .down || x.st == .train then n
  else emptyLink clk l (startTrain clk l n)
def execLinkTrainingLost (e : Env) (link : Nat) (s : State) : Host.Outcome State Fault Refusal := run e (fun clk _ n => linkTrainingLost link clk n) s
/-- `CAPABILITY_RECORD`: the link becomes ACTIVE, or MISMATCH with its reason. A record in a state past NEGOTIATE is the peer's new negotiation, which this end answers. -/
def capabilityRecord (l : Nat) (rec : CapRec) (clk : Clock) (n : Node) : Node :=
  let x := getL n l
  if 36 ≤ l || !(x.st == .negotiate || x.st == .mismatch || x.carries) then n
  else
    let n := if x.st = .negotiate then n else emit (.cap l (capOfLink n l)) n
    let n := modL l (fun x => { x with peer := some rec }) n
    let lvl := min (imgProto n) rec.proto
    let me := n.lnk.nodeId
    if me = 0 || rec.nodeId == 0 then setLink clk l .mismatch whyNoId n
    else if me = rec.nodeId then setLink clk l .mismatch whyClash n
    else if lvl < max 3 rec.protoMin then setLink clk l .mismatch whyLevel n
    else pump clk l (levelRoute l (setLink clk l (carrySt x) 0 (modL l (fun x => { x with level := lvl, st := carrySt x }) n)))
def execCapabilityRecord (e : Env) (link : Nat) (rec : CapRec) (s : State) : Host.Outcome State Fault Refusal :=
  run e (fun clk _ n => capabilityRecord link rec clk n) s
/-- `TRAIN_TIMEOUT`: 150 ms in TRAIN. -/
def trainTimeout (l : Nat) (clk : Clock) (n : Node) : Node :=
  let x := getL n l
  if 36 ≤ l || x.st != .train || decide (clk.node < x.since + 45000000) then n
  else linkDown clk l (if 2 ≤ x.bad.length then whyLanes else whyTrain) n
def execTrainTimeout (e : Env) (link : Nat) (s : State) : Host.Outcome State Fault Refusal := run e (fun clk _ n => trainTimeout link clk n) s
/-- `RETRAIN_TIMEOUT`: 20 ms in RETRAIN. -/
def retrainTimeout (l : Nat) (clk : Clock) (n : Node) : Node :=
  let x := getL n l
  if 36 ≤ l || x.st != .retrain || decide (clk.node < x.since + 6000000) then n else linkDown clk l whyRetrain n
def execRetrainTimeout (e : Env) (link : Nat) (s : State) : Host.Outcome State Fault Refusal := run e (fun clk _ n => retrainTimeout link clk n) s
/-- `LINK_DOWN_RETRY`: every second. A link whose two lanes have failed stays DOWN. -/
def linkDownRetry (l : Nat) (clk : Clock) (n : Node) : Node :=
  let x := getL n l
  if 36 ≤ l || x.st != .down || decide (clk.node < x.since + 300000000) then n
  else if 2 ≤ x.bad.length then modL l (fun x => { x with since := clk.node }) n
  else startTrain clk l n
def execLinkDownRetry (e : Env) (link : Nat) (s : State) : Host.Outcome State Fault Refusal := run e (fun clk _ n => linkDownRetry link clk n) s
/-- `LANE_FAILED` (R258): lane 0 or 1 of the link. The bundle's spare goes to its first failure, recorded in the repair map before use; a later one leaves the link one lane, or none. -/
def laneFailed (l lane : Nat) (clk : Clock) (n : Node) : Node :=
  let x := getL n l
  let b := l / 6
  if 36 ≤ l || 2 ≤ lane || x.bad.contains lane then n
  else
    let used := (List.range 6).any (fun i => (getL n (6 * b + i)).spare)
    if !used then
      let n := recordRepair (fun m => { m with links := m.links ++ [(b, 13 * b + 2 * (l % 6) + lane)] }) (modL l (fun x => { x with spare := true }) n)
      retrain clk l (raiseAt attnWear 0 (spareRecord clk 0 spLink (13 * b + 2 * (l % 6) + lane) n))
    else
      let n := modL l (fun x => { x with bad := x.bad ++ [lane] }) n
      if (getL n l).bad.length = 2 && x.st != .off then linkDown clk l whyLanes n else retrain clk l n
def execLaneFailed (e : Env) (link lane : Nat) (s : State) : Host.Outcome State Fault Refusal := run e (fun clk _ n => laneFailed link lane clk n) s
/-- `LINK_ENABLE`: a write of `LNK_LINK_STATE.ENABLE`. Cleared, the link is OFF and what it held is settled as for DOWN (log 48). -/
def linkEnable (fn l : Nat) (v : Bool) (clk : Clock) (n : Node) : Node :=
  if fn ≠ 0 || 36 ≤ l || (getL n l).enable == v then n
  else
    let n := modL l (fun x => { x with enable := v }) n
    if v then startTrain clk l n else emptyLink clk l (setLink clk l .off 0 (forgetPeer l n))
/-- `LNK_NODE_ID`: every link negotiates again (R261). -/
def lnkNodeId (fn : Nat) (v : W64) (clk : Clock) (n : Node) : Node :=
  if fn ≠ 0 then n
  else if fld v 0 32 = 0xFFFFFFFF then noteSet 0x30008 32 (modLnk (fun b => { b with cfg := put b.cfg 32 1 1 }) n)
  else
    let n := modLnk (fun b => { b with nodeId := v.setWidth 32 }) n
    foldNode (List.range 36) (fun l n =>
      let x := getL n l
      if x.carries || x.st == .mismatch || x.st == .negotiate then negotiate clk l n else n) n

/-! ### Flits in (R264 to R266, R373) -/

/-- A complete message reaches this node: it waits for its kind's row. One of a reserved kind, for this node, is discarded and answered with LEVEL_REJECT (R270). -/
def deliverMsg (clk : Clock) (l : Nat) (m : Msg) (n : Node) : Node :=
  if m.dst = n.lnk.nodeId && (m.kind == 0 || decide (mkPingReply < m.kind)) && n.boot.image.isSome then reject clk m n
  else modLnk (fun b => { b with inbox := b.inbox ++ [(l, m)] }) n
/-- Segments of trains: a message is delivered when its last segment has come after all before it (R268); a train that lost one is dropped whole. -/
def takeSegment (clk : Clock) (l : Nat) (m : Msg) (n : Node) : Node :=
  let same (s : Msg) : Bool := s.src == m.src && s.seq == m.seq
  let x := getL n l
  let old := x.segs.filter same
  if m.segment = 0 && m.lastSeg then deliverMsg clk l m n
  else if m.segment ≠ old.length then modL l (fun x => { x with segs := x.segs.filter (fun s => !same s) }) n
  else if m.lastSeg then
    let whole := { m with segment := 0, body := (old.map (·.body)).flatten ++ m.body }
    deliverMsg clk l whole (modL l (fun x => { x with segs := x.segs.filter (fun s => !same s) }) n)
  else modL l (fun x => { x with segs := x.segs ++ [m] }) n
/-- Flits through sequence `s` are acknowledged. -/
def ackFlits (s : Nat) (l : List TxFlit) : List TxFlit :=
  if l.any (fun f => f.fseq == s) then (l.dropWhile (fun f => f.fseq != s)).drop 1 else l
/-- `FLIT` (Table 12-3): correction and CRC, then acknowledgement and credit, then the payload of a message flit in sequence. A flit that fails, or comes out of sequence, is NAKed. -/
def flit (l : Nat) (f : RxFlit) (clk : Clock) (n : Node) : Node :=
  let x := getL n l
  let up := x.carries || x.st == .retrain
  if 36 ≤ l then n
  else match f.bytes with
    | none => if up then emit (.nak l x.rxSeq) (countL l 4 1 n) else n
    | some bs =>
      let ty := leAt bs 5 1
      let isMsg := ty % 4 == 1 || ty % 4 == 2
      if !up then (if isMsg then countLnk 5 1 n else n)
      else if bs.length < 244 || crc32c (bs.take 240) != BitVec.ofNat 32 (leAt bs 240 4) then emit (.nak l x.rxSeq) (countL l 4 1 n)
      else
        let n := if f.corrected = 0 then n else countL l 3 1 n
        let ack := leAt bs 2 2
        let cr := leAt bs 4 1
        let i := 2 * (cr % 8) + cr / 8 % 2
        let n := modL l (fun x => { x with
          replay := if ack / 32768 = 1 then ackFlits (ack % 4096) x.replay else x.replay
          credits := lmod x.credits i (fun k => min 64 (k + cr / 16))
          stallAt := if cr / 16 = 0 then x.stallAt else lmod x.stallAt i (fun _ => clk.node) }) n
        let n := if ty % 4 = 3 then replayBuf clk l n
          else if !isMsg then n
          else if leAt bs 0 2 % 4096 ≠ x.rxSeq then emit (.nak l x.rxSeq) n
          else
            let k := 2 * (ty / 8 % 8) + ty / 64 % 2
            let got := (if ty % 4 = 1 then [] else (mget x.asm_ k).getD []) ++ slice bs 8 232
            let n := countL l 1 1 (modL l (fun x => { x with rxSeq := (x.rxSeq + 1) % 4096, rxAny := true, owed := lmod x.owed k (· + 1), asm_ := if ty / 4 % 2 = 1 then mdel x.asm_ k else mset x.asm_ k got }) n)
            if ty / 4 % 2 = 1 then takeSegment clk l (msgOf got) n else n
        idleFlit l (pump clk l n)
def execFlit (e : Env) (link : Nat) (f : RxFlit) (s : State) : Host.Outcome State Fault Refusal := run e (fun clk _ n => flit link f clk n) s
/-- `REPLAY_TIMEOUT`: a flit has been without acknowledgement for 8 µs. -/
def replayTimeout (l : Nat) (clk : Clock) (n : Node) : Node :=
  let x := getL n l
  match x.replay.head? with
  | none => n
  | some f => if 36 ≤ l || !x.carries || decide (clk.node < f.at_ + 2400) then n else replayBuf clk l n
def execReplayTimeout (e : Env) (link : Nat) (s : State) : Host.Outcome State Fault Refusal := run e (fun clk _ n => replayTimeout link clk n) s
/-- `CREDIT_STALL`: 100 ms in which a class and pool held a flit and had no credit (R263). -/
def creditStall (l c pool : Nat) (clk : Clock) (n : Node) : Node :=
  let x := getL n l
  let i := 2 * c + pool
  let held := x.waiting.any (fun e => msgClass e.m.kind == c && e.pool == pool)
  if 36 ≤ l || 8 ≤ c || 2 ≤ pool || !x.carries || !held || x.credits.getD i 0 != 0 || decide (clk.node < x.stallAt.getD i 0 + 30000000) then n
  else raiseAt attnLink 0 (countL l 7 1 (modL l (fun x => { x with stallAt := lmod x.stallAt i (fun _ => clk.node) }) n))
def execCreditStall (e : Env) (link cls pool : Nat) (s : State) : Host.Outcome State Fault Refusal := run e (fun clk _ n => creditStall link cls pool clk n) s

/-! ### Messages of the link block -/

/-- `MESSAGE_FORWARD`: a message for another node. -/
def messageForward (l : Nat) (m : Msg) (clk : Clock) (n : Node) : Node :=
  if m.dst = n.lnk.nodeId || !arrived n l m || l == 36 then n
  else forward clk m (modLnk (fun b => { b with inbox := b.inbox.erase (l, m) }) n)
def execMessageForward (e : Env) (link : Nat) (m : Msg) (s : State) : Host.Outcome State Fault Refusal := run e (fun clk _ n => messageForward link m clk n) s
/-- `PING` is answered by the link logic whatever the partitions do (R262). -/
def pingMsg (m : Msg) (clk : Clock) (n : Node) : Node := send clk 64 m.src mkPingReply 3 0 0 m.body n
def execPing (e : Env) (link : Nat) (m : Msg) (s : State) : Host.Outcome State Fault Refusal := run e (onMsg mkPing link m (pingMsg m)) s
def pingReply (m : Msg) (clk : Clock) (n : Node) : Node :=
  match n.lnk.ping with
  | some (d, t) => if m.src = d && leAt m.body 0 8 == t then
      modLnk (fun b => { b with ping := none, pingRes := word [(63, 1, 1), (0, 62, clk.node - t)] }) n else n
  | none => n
def execPingReply (e : Env) (link : Nat) (m : Msg) (s : State) : Host.Outcome State Fault Refusal := run e (onMsg mkPingReply link m (pingReply m)) s
/-- `LNK_PING`: a write of the register sends a PING and clears `DONE`. -/
def lnkPing (fn : Nat) (dst : W32) (clk : Clock) (n : Node) : Node :=
  if fn ≠ 0 then n
  else send clk 0 dst mkPing 3 0 0 (toLe 8 clk.node) (modLnk (fun b => { b with ping := some (dst, clk.node), pingRes := 0 }) n)
/-- `PING_TIMEOUT`: no reply within 10 ms. -/
def pingTimeout (clk : Clock) (n : Node) : Node :=
  match n.lnk.ping with
  | some (_, t) => if clk.node < t + 3000000 then n else modLnk (fun b => { b with ping := none, pingRes := word [(63, 1, 1), (62, 1, 1)] }) n
  | none => n
def execPingTimeout (e : Env) (s : State) : Host.Outcome State Fault Refusal := run e (fun clk _ n => pingTimeout clk n) s

/-! ### Acknowledged kinds (R269, R270) -/

def findAck (n : Node) (seq : Nat) (src : Option W32) : Option AckWait :=
  n.lnk.acks.find? (fun a => a.m.seq == seq && (match src with
    | some s => a.m.dst == s
    | none => true))
def dropAck (seq : Nat) (n : Node) : Node := modLnk (fun b => { b with acks := b.acks.filter (fun a => a.m.seq != seq) }) n
def ackMsg (m : Msg) (clk : Clock) (n : Node) : Node :=
  match findAck n (leAt m.body 0 8) (some m.src) with
  | none => n
  | some a => ackedFor clk a (dropAck a.m.seq n)
def execAckMsg (e : Env) (link : Nat) (m : Msg) (s : State) : Host.Outcome State Fault Refusal := run e (onMsg mkAck link m (ackMsg m)) s
/-- Sends a message again: `RESEND` set, the route looked up afresh. -/
def resend (clk : Clock) (a : AckWait) (n : Node) : Node :=
  let m := { a.m with resend := true, hops := 0 }
  let n := countLnk 4 1 (modLnk (fun b => { b with acks := modFirst (fun x => x.m.seq == a.m.seq) (fun x => { x with m := m, sends := x.sends + 1, at_ := clk.node }) b.acks }) n)
  dispatch clk (64 + m.srcPtn) m n
/-- `RESEND_TIMEOUT`: `RESEND_US` without an ACK; after `SENDS` sends the message is undeliverable. -/
def resendTimeout (seq : Nat) (clk : Clock) (n : Node) : Node :=
  match findAck n seq none with
  | none => n
  | some a =>
    if clk.node < a.at_ + 300 * fld n.lnk.cfg 0 16 || (getP n a.m.srcPtn).st == .resetting then n
    else if fld n.lnk.cfg 16 4 ≤ a.sends then lostFor clk a (countLnk 3 1 (dropAck seq n))
    else resend clk a n
def execResendTimeout (e : Env) (seq : Nat) (s : State) : Host.Outcome State Fault Refusal := run e (fun clk _ n => resendTimeout seq clk n) s
/-- The message of an acknowledged kind at a lower level: a packed MIRROR_WRITE is laid out unpacked. -/
def relevel (n : Node) (a : AckWait) (lvl : Nat) : Msg := match a.for_ with
  | .mirror p k num =>
    let us := ((getDur n p k num).bind (fun d => mget d.unacked a.m.seq)).getD []
    let body := if lvl < 4 then mirrorBody n p k num us ((leAt a.m.body 9 1).testBit 0) false else a.m.body
    { a.m with level := lvl, body := body }
  | _ => { a.m with level := lvl }
/-- `LEVEL_REJECT`: of an acknowledged kind, the route entry's `LEVEL` falls to the receiver's and the message goes again at once, if `SENDS` leaves it a send. -/
def levelReject (m : Msg) (clk : Clock) (n : Node) : Node :=
  let n := countLnk 2 1 n
  match findAck n (leAt m.body 0 8) (some m.src) with
  | none => n
  | some a =>
    let lvl := leAt m.body 9 1
    let i := m.src.toNat % 4096
    let n := modLnk (fun b => { b with routes := mmod b.routes i (fun w => if fld w 32 32 == m.src.toNat then put w 20 4 (min lvl (fld w 20 4)) else w) }) n
    if fld n.lnk.cfg 16 4 ≤ a.sends then lostFor clk a (countLnk 3 1 (dropAck a.m.seq n)) else resend clk { a with m := relevel n a (min lvl a.m.level) } n
def execLevelReject (e : Env) (link : Nat) (m : Msg) (s : State) : Host.Outcome State Fault Refusal := run e (onMsg mkReject link m (levelReject m)) s

/-! ### Refill instants (R274 to R277, Table 12-12) -/

/-- Partition that a flow's owner belongs to. -/
def ownerPtn (n : Node) (own : Nat) : Option Nat := if own < 64 then (getFn n own).map else if own < 72 then some (own - 64) else none
/-- The owner's partition resets, or is withdrawn by a reset: no refill (R277, R298). -/
def frozenOwner (n : Node) (own : Nat) : Bool := match ownerPtn n own with
  | some p => (getP n p).st == .resetting || (getP n p).st == .withdrawn || (getP n p).st == .restoring
  | none => false
/-- `ON_CHANGE` of a pending write: the tokens it leaves, of a burst `full`. -/
def onChange (w : W64) (full t : Nat) : Nat := match fld w 62 2 with
  | 1 => full
  | 2 => 0
  | _ => min full t
/-- One flow after `m` refill instants, the last in slot `s`; `pend` is the write that takes effect now. -/
def refillFlow (old new : W64) (pend : Option W64) (frozen : Bool) (m s : Nat) (f : Flow) : Flow :=
  let b := 256 * burstOf new
  let wheel (t : Nat) : Flow := { f with mode := .wheel, fullAt := 65536 * s + slotsFor new (b - t), t := t }
  match f.mode, pend with
  | .wheel, none => f
  | .wheel, some w => wheel (onChange w b (flowTokens old f s))
  | .bucket, pend =>
    let t := if frozen then f.t else min b (f.t + 16 * m * rateOf new)
    let t := match pend with
      | some w => onChange w b t
      | none => t
    if frozen then { f with t := t } else if f.queue.isEmpty || t = b then wheel t else { f with t := t }
/-- One policer after `m` refill instants. -/
def refillPol (frozen : Bool) (m : Nat) (x : Pol) : Pol :=
  let y := match x.pending with
    | some (r, c) => { x with rate := r, cfg := c, pending := none }
    | none => x
  let cb := 65536 * fld y.cfg 0 16
  let pb := 65536 * fld y.cfg 16 16
  let y := if frozen then y else { y with tc := min cb (y.tc + m * fld y.rate 0 32), tp := min pb (y.tp + m * fld y.rate 32 32) }
  match x.pending with
  | some (_, c) => { y with tc := onChange c cb y.tc, tp := onChange c pb y.tp }
  | none => y
/-- Steps 1 to 3 of Table 12-12 for `m` refill instants, the last in slot `s`: what is pending takes effect, and flows and policers refill. -/
def refillAll (clk : Clock) (m s : Nat) (n : Node) : Node :=
  let old := n.lnk
  let past (cur pend : List (Nat × W64)) : List (Nat × W64) := pend.foldl (fun m x => mset m x.1 x.2) cur
  let n := modLnk (fun b => { b with shape := past b.shape b.pendShape, svc := past b.svc b.pendSvc, pendShape := [], pendSvc := [], refillAt := clk.node }) n
  let pendOf (f : Flow) : Option W64 :=
    if f.owner < 64 then mget old.pendShape (8 * f.owner + f.cls) else if f.owner < 72 then mget old.pendSvc (8 * (f.owner - 64) + f.cls) else none
  let oldOf (f : Flow) : W64 := if f.owner < 64 then (mget old.shape (8 * f.owner + f.cls)).getD 0 else (mget old.svc (8 * (f.owner - 64) + f.cls)).getD 0
  modLnk (fun b => { b with
    flows := b.flows.map (fun f => refillFlow (oldOf f) (shaperOf n f.owner f.cls) (pendOf f) (frozenOwner n f.owner) m s f)
    pols := b.pols.mapIdx (fun f x => refillPol (frozenOwner n f) m x) }) n
/-- The refill instants that passed while the CTL clock stood still: tokens keep refilling across SLEEP (R335). The first applies what was pending. -/
def missedRefills (clk : Clock) (from_ : Nat) (n : Node) : Node :=
  let a := slotOf from_ / 16
  let k := slotOf clk.node / 16 - a
  if k = 0 then n
  else
    let n := refillAll clk 1 (16 * (a + 1)) n
    if k = 1 then n else refillAll clk (k - 1) (16 * (a + k)) n
def refillInstantStep (clk : Clock) (n : Node) : Node :=
  if !refillInstant clk.node || decide (clk.node ≤ n.lnk.refillAt) then n
  else
    let n := refillAll clk 1 (slotOf clk.node) n
    foldNode (n.lnk.flows.filter (fun f => !f.queue.isEmpty)) (fun f n => match n.lnk.flows.find? (sameFlow f.owner f.cls f.link) with
      | some f => runFlow clk f n
      | none => n) n
def execRefillInstant (e : Env) (s : State) : Host.Outcome State Fault Refusal := run e (fun clk _ n => refillInstantStep clk n) s
/-- `WHEEL_SLOT_DUE`: the slot of a flow's entry has come. -/
def wheelSlotDue (l c own : Nat) (clk : Clock) (n : Node) : Node :=
  match n.lnk.flows.find? (sameFlow own c l) with
  | none => n
  | some f => match f.slot with
    | some k => if slotOf clk.node < k then n else runFlow clk f n
    | none => n
def execWheelSlotDue (e : Env) (link cls owner : Nat) (s : State) : Host.Outcome State Fault Refusal := run e (fun clk _ n => wheelSlotDue link cls owner clk n) s

end Sys2Proof.Machine
end

