-- ==== Sys2Proof/Machine/Partitions.lean ====
section
/-! DEFINITION. Partition resets (R292 to R300), watchdogs (R286 to R288), the fault log (R290, R291), spares (R12, R15, R301 to R305), function mapping (R284). -/

namespace Sys2Proof.Machine

/-! ### Commands leave the families (R89, R133, Table 7-5, Table 8-5, Table 10-8, R244) -/

/-- No work of the flash engine or of a log waits for the command any more; the work itself goes on. -/
def forgetTok (t : Tok) (n : Node) : Node :=
  let out (l : List Tok) : List Tok := l.filter (· != t)
  let un (u : Unack) : Unack := if u.tok == some t then { u with tok := none } else u
  let dur (d : Dur) : Dur := { d with unsent := d.unsent.map un, unacked := d.unacked.map (fun m => (m.1, m.2.map un)) }
  let n := modFls (fun f => { f with
    stage := f.stage.map (fun s => { s with toks := out s.toks })
    progs := f.progs.map (fun g => (g.1, { g.2 with toks := out g.2.toks }))
    sanits := f.sanits.map (fun x => if x.tok == some t then { x with tok := none } else x)
    waits := out f.waits, durable := f.durable.filter (fun d => d.tok != t) }) n
  { n with ptns := n.ptns.map (fun x => { x with
      colls := x.colls.map (fun c => (c.1, { c.2 with dur := dur c.2.dur })), tbls := x.tbls.map (fun y => (y.1, { y.2 with dur := dur y.2.dur })) }) }
/-- Updates of the command that have not committed are dropped. -/
def dropUpds (p : Nat) (t : Tok) (n : Node) : Node :=
  foldNode (getP n p).colls (fun c n => foldNode (c.2.upds.filter (fun u => u.tok == some t)) (fun u n => dropUpd p c.1 u n) n) n
/-- Adds of the command: those not issued are dropped, those issued are applied once without it (`all`: these are dropped as well). -/
def dropAdds (p : Nat) (t : Tok) (all : Bool) (n : Node) : Node :=
  modP p (fun x => { x with adds := (x.adds.filter (fun a => !(a.2.tok == some t && (all || a.2.held)))).map (fun a => if a.2.tok == some t then (a.1, { a.2 with tok := none }) else a) }) n
/-- An I/O command of partition `p` leaves. `down`: closure goes down its tree. -/
def cancelTok (clk : Clock) (p : Nat) (t : Tok) (down all : Bool) (n : Node) : Node :=
  forgetTok t (dropAdds p t all (dropUpds p t (abortQueries clk p t down n)))
/-- `RESULT` of a command that a reset ends (R244). -/
def abortResult (c : Cmd) : Nat := b2n c.committed + 2 * b2n c.partialEff

/-! ### Partition reset (R292, R293, R374) -/

/-- End of step `from_` to the end of step 8 of Table 13-8: step 6 scales with the share. -/
def step6 (x : Ptn) : Nat := 150000 * x.share / 524288
def resetLen (x : Ptn) : Nat := 241500 + step6 x
def restoreLen (x : Ptn) : Nat := 210000 + step6 x
/-- Physical core that runs a logical core of a partition: its number, 0xFF for none. -/
def pcoreOf (n : Node) (lcore : Nat) : Nat :=
  ((List.range 68).find? (fun i =>
    let c := vget n.cores i
    c.lcore == lcore && (c.st == .inService || c.st == .draining))).getD 0xFF
/-- Step 2: every command fetched from the I/O queues of the partition's functions completes. -/
def endIo (clk : Clock) (p : Nat) (n : Node) : Node :=
  let toks := ((ioPairs n p).map (fun q => q.2.2.cmds.map (fun c => (({ fn := q.1, qid := q.2.1, serial := c.serial } : Tok), c)))).flatten
  foldNode toks (fun t n => post clk t.1 stPtnReset (abortResult t.2) (cancelTok clk p t.1 false true n)) n
/-- Ownership work before its token write is abandoned; after it, it stands and only the command ends (Table 13-9). -/
def resetOwn (clk : Clock) (p : Nat) (k : ObjKind) (num : Nat) (n : Node) : Node :=
  match getOwn n p k num with
  | none => n
  | some o => match o.xfer with
    | none => n
    | some x =>
      let st : Holder := if x.wrote then o.st else if o.st == .releasing then .owned else if o.st == .claiming then .released else o.st
      post clk x.tok stPtnReset (b2n x.wrote) (modOwn p k num (fun o => { o with st := st, xfer := none }) n)
/-- A snapshot or a restoration in progress is abandoned; the last complete snapshot stays. -/
def resetSnap (clk : Clock) (p : Nat) (k : ObjKind) (num : Nat) (n : Node) : Node :=
  match getDur n p k num with
  | none => n
  | some d =>
    let n := modDur p k num (fun d => { d with snap := none, recover := none, wantSnap := none }) n
    let n := modLnk (fun b => { b with acks := b.acks.filter (fun a => match a.for_ with
      | .snap q k2 m _ _ => !(q == p && k2 == k && m == num)
      | _ => true) }) n
    let toks := (d.snap.bind (·.tok)).toList ++ (d.wantSnap.bind id).toList ++ (d.recover.map (·.tok)).toList
    foldNode toks (fun t n => post clk t stPtnReset 0 n) n
/-- A swap before its commit point is abandoned: the staged generation stays staged (R62). -/
def resetSwap (clk : Clock) (p s : Nat) (n : Node) : Node :=
  match (getC n p s).bind (·.swap) with
  | none => n
  | some w => post clk w.tok stPtnReset 0 (modC p s (fun c => { c with swap := none, st := if c.st == .swapping then c.before else c.st }) n)
/-- Migrations of rows and pages are abandoned; Canopy lines and filters are cleared (Table 8-5, Table 9-11), but for the reset by which a live load ends at its drain limit. -/
def resetTiers (clk : Clock) (p : Nat) (n : Node) : Node :=
  let keep := (getP n p).load.any (·.install)
  let n := foldNode (getP n p).tbls (fun t n =>
    let n := abandonMigs p t.1 n
    if keep then n else modT p t.1 (fun y => { y with lines := [], filter := [[], [], [], []], accesses := 0 }) n) n
  let n := modMem (fun m => { m with pages := m.pages.map (fun g => if g.2.ptn = p then (g.1, { g.2 with mig := none }) else g) }) n
  let n := foldNode (getP n p).polCmds (fun c n => post clk c.1 stPtnReset 0 n) n
  let n := foldNode ((getP n p).objs.filterMap (fun o => o.2.freeing)) (fun t n => post clk t stPtnReset 0 n) n
  modP p (fun x => { x with polCmds := [], objs := x.objs.map (fun o => (o.1, { o.2 with freeing := none })) }) n
/-- Messages of the partition's flows that are not on a link are discarded (Table 12-9). -/
def dropEgress (p : Nat) (n : Node) : Node :=
  let mine (own : Nat) : Bool := ownerPtn n own == some p
  modLnk (fun b => { b with
    flows := b.flows.map (fun f => if mine f.owner then { f with queue := [], slot := none } else f)
    links := b.links.map (fun l => { l with waiting := l.waiting.filter (fun e => !(mine e.own && e.sent == 0)) }) }) n
/-- Adds whose command has completed already are applied, with those issued before them on their rows: a later read sees them (R164). -/
def applySeen (clk : Clock) (p : Nat) (n : Node) : Node :=
  let x := getP n p
  foldNode (x.adds.filter (fun a => !a.2.held && (seenOps (issuedOps x a.2.tbl a.2.row)).any (fun b => b.1 == a.1))) (fun a n => applyAdd clk p a.1 a.2 n) n
/-- A load in progress is abandoned, and the current copy stays (Table 7-5). -/
def resetLoad (clk : Clock) (p m : Nat) (n : Node) : Node := match (mget (getP n p).mdls m).bind (·.load) with
  | some t => post clk t stPtnReset 0 (dropLoad clk p m n)
  | none => n
/-- What is in flight in the partition is settled (log 25: at the trigger, not spread over the steps of Table 13-8). -/
def settleReset (clk : Clock) (p : Nat) (n : Node) : Node :=
  let n := endIo clk p (applySeen clk p n)
  -- the instances and updates that no command of the partition's queues started
  let n := modP p (fun x => { x with
    queries := [], insts := [], closed := [], gather := [], passes := [], ctxs := [], selQ := [], batches := [], adds := [], prefetch := []
    colls := x.colls.map (fun c => (c.1, { c.2 with upds := [] }))
    mdls := x.mdls.map (fun m => (m.1, { m.2 with queue := [], window := [], nextRec := 0 })) }) n
  let n := foldNode (getP n p).colls (fun c n => retireGens clk p c.1 (resetSwap clk p c.1 n)) n
  let n := foldNode (objsOf (getP n p)) (fun o n => resetSnap clk p o.1 o.2 (resetOwn clk p o.1 o.2 n)) n
  let n := foldNode (getP n p).mdls (fun m n => freeCopies clk p m.1 (resetLoad clk p m.1 n)) n
  let n := modP p (fun x => { x with arb := { cfg := x.arb.cfg, inUse := x.arb.inUse } }) (resetTiers clk p n)
  settleXfers clk p (dropEgress p n)
/-- The reset itself starts: fetching stops and work in flight is settled. -/
def beginReset (clk : Clock) (p : Nat) (r : ResetRun) (n : Node) : Node :=
  settleReset clk p (modP p (fun x => { x with
    st := .resetting, run := some { r with at_ := pctr clk p }, pendReset := none, resets := sat 16 (x.resets + 1), lastKind := r.kind }) n)
/-- A fault of a kind that resets (R292): its record and attention first; a second one before step 8 starts no second reset. An entry in progress is abandoned; a reset that meets a
partition that is off runs at its wake (Table 14-5). -/
def startReset (clk : Clock) (p : Nat) (rec : FaultRec) (waiter : Option Tok) (n : Node) : Node :=
  let x := getP n p
  let busy := x.run.isSome || x.pendReset.isSome || x.st == .restoring
  let cnt := fkCounted rec.kind && !busy
  let n := raisePtn attnFault p (addFault clk p { rec with reset := !busy, counted := cnt } n)
  if busy then n
  else
    let n := if n.pwr.st == .entering then abandonNode clk n else if x.pow == .entering then abandonPtn clk p n else ungate p n
    let r : ResetRun := { kind := rec.kind, trigger := pctr clk p, at_ := pctr clk p, lcore := rec.lcore, counted := cnt, waiters := waiter.toList }
    let n := if cnt then count p .resetsCounted 1 n else n
    match (getP n p).pow with
    | .off => modP p (fun x => { x with pendReset := some r }) n
    | .waking => modP p (fun x => { x with pendReset := some r }) n
    | _ => beginReset clk p r n

/-! ### Watchdogs (R286 to R288) and faults of cores -/

/-- Stage kind of a thread by its kind (Tables 2-4 and 4-9). -/
def stageKind (c : Ctx) : Nat := match c.kind with
  | 2 => 1
  | 3 => 2
  | 4 => 3
  | 5 => 3
  | 6 => 4
  | 7 => 5
  | 8 => 6
  | 9 => 7
  | 10 => 8
  | 11 => 9
  | _ => 0
/-- A record that names a context. -/
def ctxRec (n : Node) (kind ci : Nat) (c : Ctx) (lcore : Nat) : FaultRec :=
  { seq := 0, ctr := 0, kind := kind, fn := c.fn, queue := c.queue, cid := c.cid, thread := ci, stage := stageKind c, lcore := lcore, pcore := if lcore < 64 then pcoreOf n lcore else 0xFF }
/-- The partition runs: its watchdogs count. -/
def runsP (x : Ptn) : Bool := x.run.isNone && x.pow == .on && (x.st == .inService || x.st == .loading)
/-- The thread is held by a durability hold, a transfer or a swap freeze (R286). -/
def ctxHeld (x : Ptn) (ci : Nat) : Bool :=
  x.colls.any (fun c => c.2.upds.any (fun u => u.ctx == ci && (u.held || !commitsOpen c.2))) || x.tbls.any (fun t => (keptAdds x t.1).any (fun a => a.2.ctx == ci))
def threadWatchdog (p ci : Nat) (clk : Clock) (n : Node) : Node :=
  let x := getP n p
  match mget x.ctxs ci with
  | none => n
  | some c =>
    let age := pctr clk p - c.since
    if !runsP x || !(c.st == 2 || c.st == 3 || c.st == 4) || ctxHeld x ci || decide (age < 300000 * fld x.wdCfg 0 16) then n
    else startReset clk p { ctxRec n fkThreadHang ci c (if c.core < 64 then c.core else 0xFF) with d1 := c.progress, d2 := age } none (count p .wdFired 1 n)
def execThreadWatchdog (e : Env) (p ctx : Nat) (s : State) : Host.Outcome State Fault Refusal := run e (fun clk _ n => threadWatchdog p ctx clk n) s
/-- `CORE_HEALTH.HANGS`. -/
def countHang (lcore : Nat) (n : Node) : Node :=
  let i := pcoreOf n lcore
  { n with cores := vmod n.cores i (fun c => { c with hangs := sat 8 (c.hangs + 1) }) }
/-- The core's last issue is the latest progress of a thread on it; the record names its READY thread of longest standing (R288). -/
def coreWatchdog (p core ci : Nat) (clk : Clock) (n : Node) : Node :=
  let x := getP n p
  match mget x.ctxs ci with
  | none => n
  | some c =>
    let on := x.ctxs.filter (fun y => y.2.core == core)
    let last := on.foldl (fun a y => max a y.2.since) c.since
    let age := pctr clk p - last
    let ready := (x.ctxs.filter (fun y => y.2.st == 2 && (y.2.core == core || y.1 == ci))).length
    if !runsP x || c.st != 2 || !(c.core == core || c.core == 0xFFFF) || on.any (fun y => y.2.st == 2 && decide (y.2.since < c.since)) || !(decide (core < 64) && x.ent.cores.getLsbD core) || decide (age < 30000 * fld x.wdCfg 16 8) then n
    else startReset clk p { ctxRec n fkCoreHang ci c core with d1 := age, d2 := ready } none (countHang core (count p .wdFired 1 n))
def execCoreWatchdog (e : Env) (p core ctx : Nat) (s : State) : Host.Outcome State Fault Refusal := run e (fun clk _ n => coreWatchdog p core ctx clk n) s
/-- A command that the queue watchdog does not count: `SECURE_DISCARD`, `AUDIT`, held by a durability hold or by a power entry. -/
def notWatched (n : Node) (p : Nat) (t : Tok) (c : Cmd) : Bool :=
  c.opc == 0xA5 || c.opc == 0x81 || c.delayed ||
    (getP n p).colls.any (fun y => y.2.dur.held && y.2.upds.any (fun u => u.tok == some t)) ||
    (getP n p).tbls.any (fun y => y.2.dur.held && (keptAdds (getP n p) y.1).any (fun a => a.2.tok == some t))
/-- The oldest watched command names the queue; its wait runs on the service time of the partition (R288). -/
def queueWatchdog (p : Nat) (q : QRef) (clk : Clock) (n : Node) : Node :=
  let x := getP n p
  match getQ n q.fn q.qid with
  | none => n
  | some y =>
    let live := y.cmds.filter (fun c => !notWatched n p { fn := q.fn, qid := q.qid, serial := c.serial } c)
    match live.head? with
    | none => n
    | some c =>
      if !runsP x || x.st != .inService || q.qid == 0 || (getFn n q.fn).map != some p || decide (x.svc < max y.lastPost c.svcAt + 300000000 * fld x.wdCfg 24 8) then n
      else
        let th := ((x.ctxs.find? (fun k => k.2.fn == q.fn && k.2.queue == q.qid && k.2.cid == c.cid)).map (·.1)).getD 0xFFFFFFFF
        startReset clk p { seq := 0, ctr := 0, kind := fkQueueHang, fn := q.fn, queue := q.qid, cid := c.cid, thread := th, d1 := y.cmds.length, d2 := clk.node - c.at_ } none
          (count p .wdFired 1 n)
def execQueueWatchdog (e : Env) (p : Nat) (q : QRef) (s : State) : Host.Outcome State Fault Refusal := run e (fun clk _ n => queueWatchdog p q clk n) s
/-- `CORE_FAULT`: a core's own check failed, or (`context`) an uncorrectable error in a structure of the scheduler. -/
def coreFault (p core check : Nat) (context : Bool) (clk : Clock) (n : Node) : Node :=
  let x := getP n p
  if x.st == .absent || x.st == .withdrawn || check = 0 || 4 < check then n
  else if context then startReset clk p { seq := 0, ctr := 0, kind := fkContextUe, d1 := check } none n
  else if !(decide (core < 64) && x.ent.cores.getLsbD core) then n
  else startReset clk p { seq := 0, ctr := 0, kind := fkCoreFault, lcore := core, pcore := pcoreOf n core, d1 := check } none (countHang core n)
def execCoreFault (e : Env) (p core check : Nat) (context : Bool) (s : State) : Host.Outcome State Fault Refusal := run e (fun clk _ n => coreFault p core check context clk n) s

/-! ### `PARTITION_RESET` and `PARTITION_RESTORE` (R299) -/

def ptnChk (_ : Node) (_ : Nat) (e : Sqe) : Option Nat := if 8 ≤ e.target then some 0x04 else none
def partitionReset : Job := fun clk _ t e n =>
  let p := e.target
  let x := getP n p
  match x.st with
  | .absent => invalid clk t 0x04 0 n
  | .withdrawn => post clk t stBusy 0 n
  | .restoring => modP p (fun x => { x with restWait := x.restWait ++ [t] }) n
  | _ => match x.run, x.pendReset with
    | some r, _ => modP p (fun x => { x with run := some { r with waiters := r.waiters ++ [t] } }) n
    | none, some r => modP p (fun x => { x with pendReset := some { r with waiters := r.waiters ++ [t] } }) n
    | none, none => startReset clk p { seq := 0, ctr := 0, kind := fkCommanded, d1 := t.fn } (some t) n
def execPartitionReset (e : Env) (q : QRef) (s : State) : Host.Outcome State Fault Refusal :=
  run e (hostCmd Rows.partitionReset anyEntry ptnChk noPtn partitionReset q) s
def beginRestore (clk : Clock) (p : Nat) (t : Option Tok) (n : Node) : Node := modP p (fun x => { x with st := .restoring, restore := some t, restAt := pctr clk p }) n
def partitionRestore : Job := fun clk _ t e n =>
  match (getP n e.target).st with
  | .absent => invalid clk t 0x04 0 n
  | .withdrawn => beginRestore clk e.target (some t) n
  | _ => post clk t stBusy 0 n
def execPartitionRestore (e : Env) (q : QRef) (s : State) : Host.Outcome State Fault Refusal :=
  run e (hostCmd Rows.partitionRestore anyEntry ptnChk noPtn partitionRestore q) s
/-- MSI-X messages held since step 0 are sent, once for each unmasked vector; a masked one stays pending (R294). -/
def releaseMsix (p : Nat) (n : Node) : Node :=
  foldNode (fnsOf n p) (fun f n => sendPend f (modFn f (fun x => { x with heldV := [] }) n)) n
/-- Spare lanes and SRAM rows come in at the reset of their partition (R12, R303). -/
def engageAtReset (clk : Clock) (p : Nat) (n : Node) : Node :=
  let n := foldNode (getP n p).sramBad (fun w n => spareRecord clk p spSram w (recordRepair (fun m => { m with sram := m.sram ++ [(p, w)] }) n)) n
  let n := modP p (fun x => { x with sramBad := [], sramMap := nubNat (x.sramMap ++ x.sramBad) }) n
  foldNode (List.range 68) (fun i n =>
    let c := vget n.cores i
    if c.ptn = p then foldNode (c.lanes.filter (fun l => !n.boot.running.lanes.contains (i, l.1, l.2))) (fun l n =>
      spareCore clk p spLane (i + 256 * l.1 + 65536 * l.2) c.lcore i (modBoot (fun b => { b with running := { b.running with lanes := b.running.lanes ++ [(i, l.1, l.2)] } }) n)) n else n) n

/-! ### Live replacement of a section (R36 to R38) -/

def imgSlot (n : Node) (k : Nat) : Slot := if k = 0 then n.bflash.slotA else n.bflash.slotB
/-- The section of partition `p` in a slot. -/
def secIn (n : Node) (k p : Nat) : Option PtnSection := (imgSlot n k).image.bind (fun i => i.parts.find? (fun s => s.ptn == p))
/-- A model becomes EMPTY: a load in progress ends, and its copies and its window are freed. -/
def emptyModel (clk : Clock) (p m : Nat) (n : Node) : Node :=
  dropUses clk p (· == .window m) (dropCopies clk p m (fun _ => false) (modP p (fun x => { x with mdls := mdel x.mdls m }) (resetLoad clk p m n)))
/-- The new section is in: a model whose descriptor differs becomes EMPTY (Table 7-5), the Sapling pool takes its size, the thread-table share is cleared. -/
def installSec (clk : Clock) (p k : Nat) (sec : PtnSection) (n : Node) : Node :=
  let x := getP n p
  let gone := x.mdls.filter (fun m => (modelOf x m.1).isNone || modelOf x m.1 != sec.models.find? (fun d => d.model == m.1))
  makePool clk p (modP p (fun x => { x with sec := some sec, srcSlot := k, load := none, ctxs := [] }) (foldNode gone (fun m n => emptyModel clk p m.1 n) n))
/-- The load of one partition starts; true when it is done at once, since nothing of the partition runs. -/
def beginLoad (clk : Clock) (k : Nat) (sec : PtnSection) (n : Node) : Node × Bool :=
  let p := sec.ptn
  let x := getP n p
  if x.st == .withdrawn || (x.st == .inService && x.pow == .off) then (installSec clk p k sec n, true)
  else (modP p (fun x => { x with
    st := if x.st = .inService then .loading else x.st, load := some { slot := k, sec := sec, deadline := pctr clk p + fld n.boot.drain 0 32 } })
    (foldNode x.colls (fun c n => thaw p c.1 n) (ungate p n)), false)
/-- Staged section after staged section, in partition order; the list that remains when one waits for its drain. -/
def loadEach (clk : Clock) (k : Nat) : List PtnSection → Node → Node × Option (List PtnSection)
  | [], n => (n, none)
  | s :: ss, n =>
    let (n, done) := beginLoad clk k s n
    if done then loadEach clk k ss n else (n, some ss)
/-- The load goes on, and after its end the next one that waits. -/
def pumpLive (clk : Clock) : Nat → Node → Node
  | 0, n => n
  | fuel + 1, n =>
    let (n, left) := loadEach clk n.boot.liveSlot n.boot.liveQ n
    match left with
    | some ps => modBoot (fun b => { b with liveQ := ps }) n
    | none =>
      let n := postO clk n.boot.liveTok stSuccess 0 (modBoot (fun b => { b with liveQ := [], liveTok := none }) n)
      match n.boot.liveWait with
      | [] => n
      | (t, k, ps) :: r => pumpLive clk fuel (modBoot (fun b => { b with liveTok := some t, liveSlot := k, liveQ := ps, liveWait := r }) n)
/-- The transfers that waited for a load run, those that still meet one wait on, and those whose command is gone are forgotten (R38). -/
def runAfter (clk : Clock) (n : Node) : Node :=
  foldNode n.boot.after (fun c n =>
    if (cmdOf n c.1).isNone then n
    else if (xferPtns n c.1.fn c.2).any (fun p => (getP n p).st == .withdrawn) then post clk c.1 stPtnReset 0 n
    else if c.2.opc = 0x45 then afterLoad ownershipRelease clk [] c.1 c.2 n
    else afterLoad ownershipClaim clk [] c.1 c.2 n) (modBoot (fun b => { b with after := [] }) n)
/-- The load of a partition has ended: the next one starts, and what waited for it goes on (R38). -/
def stepLive (clk : Clock) (n : Node) : Node :=
  if n.boot.liveTok.isSome then runAfter clk (pumpLive clk (n.boot.liveWait.length + 1) n) else n
/-- The partition serves again: held messages go, `PARTITION_RESET` commands complete, the reset scrub starts; its WHEEL flows keep their tokens (R277). -/
def resume (clk : Clock) (p len : Nat) (waiters : List Tok) (n : Node) : Node :=
  let ld := (getP n p).load
  let n := match ld with
    | some l => if l.install then installSec clk p l.slot l.sec n else n
    | none => n
  let n := modP p (fun x => { x with st := if x.load.isSome then .loading else .inService, run := none, resetScrub := some (pctr clk p), idleFor := 0 }) n
  let n := modLnk (fun b => { b with flows := b.flows.map (fun f => if ownerPtn n f.owner = some p && f.mode == .wheel then { f with fullAt := f.fullAt + 5 * len * 65536 / 384 } else f) }) n
  let n := foldNode waiters (fun t n => post clk t stSuccess 0 n) (releaseMsix p n)
  if ld.any (·.install) then stepLive clk n else n
/-- The window of R296. -/
def window (x : Ptn) : Nat := 300000000 * fld x.escCfg 0 16
/-- The lowest spare core of a die, or of the other one (R301). -/
def dieOfCore (i : Nat) : Nat := i / 34
def sparesOn (n : Node) (die : Nat) : List Nat := (List.range 68).filter (fun i => (vget n.cores i).st == .spare && dieOfCore i == die)
def pickSpare (n : Node) (pc : Nat) : Option Nat :=
  let d := dieOfCore pc
  let keep := if d = 0 then n.reserve.1 else n.reserve.2
  let own := sparesOn n d
  if keep < own.length then own.head? else (sparesOn n (1 - d)).head?
def modCore (i : Nat) (g : PCore → PCore) (n : Node) : Node := { n with cores := vmod n.cores i g }
/-- The spare takes the logical number, the partition and the role; the failed core is RETIRED (R13, R15). -/
def engageCore (clk : Clock) (old new : Nat) (n : Node) : Node :=
  let c := vget n.cores old
  let n := modCore new (fun s => { s with st := .inService, ptn := c.ptn, lcore := c.lcore, peer := 0xFF })
    (modCore old (fun s => { s with st := .retired, ptn := 0xF, lcore := 0xFF, peer := 0xFF, tok := none }) n)
  raiseAt attnWear 0 (spareCore clk (if c.ptn < 8 then c.ptn else 0) spCore old c.lcore new n)
/-- Logical cores that at least two counted resets inside the window name (R300). -/
def namedTwice (l : List (Nat × Nat)) : List Nat := (List.range 64).filter (fun c => decide (2 ≤ (l.filter (fun h => h.2 == c)).length))
/-- R300: one spare for each named core, while spares last. -/
def autoSpare (clk : Clock) (cores : List Nat) (n : Node) : Node :=
  foldNode cores (fun c n =>
    let old := pcoreOf n c
    if old = 0xFF then n
    else match ((sparesOn n (dieOfCore old) ++ sparesOn n (1 - dieOfCore old)).head?) with
      | some new => engageCore clk old new (recordRepair (mapRetire old new) n)
      | none => n) n
/-- `PARTITION_RESET_END`: step 8. A counted reset is weighed against the window (R297). A live load that met the reset goes on after it, also where the partition is withdrawn (R38). -/
def partitionResetEnd (p : Nat) (clk : Clock) (n : Node) : Node :=
  let x := getP n p
  match x.run with
  | none => n
  | some r =>
    if pctr clk p < r.at_ + resetLen x then n
    else
      let n := engageAtReset clk p n
      if !r.counted then resume clk p (pctr clk p - r.at_) r.waiters n
      else
        let hist := ((r.trigger, r.lcore) :: x.hist).take 16
        let inW := hist.filter (fun h => decide (r.trigger - h.1 < window x))
        let n := modP p (fun x => { x with hist := hist, inWindow := inW.length }) n
        if inW.length ≤ fld x.escCfg 16 4 then resume clk p (pctr clk p - r.at_) r.waiters n
        else
          let n := modP p (fun x => { x with st := .withdrawn, run := none, downAt := r.at_ }) n
          let n := modP p (fun x => { x with faults := x.faults.map (fun f => if f.counted && f.ctr == r.trigger then { f with withdrew := true } else f) }) n
          let n := raisePtn attnWithdrawn p (addFault clk p { seq := 0, ctr := 0, kind := fkWithdrawn, d1 := inW.length } n)
          let n := foldNode r.waiters (fun t n => post clk t stSuccess 0 n) (releaseMsix p n)
          let n := match x.load with
            | some l => stepLive clk (installSec clk p l.slot l.sec n)
            | none => n
          let cs := namedTwice inW
          if bit x.escCfg 20 && !cs.isEmpty && !(sparesOn n 0 ++ sparesOn n 1).isEmpty then beginRestore clk p none (autoSpare clk cs n) else n
def execPartitionResetEnd (e : Env) (p : Nat) (s : State) : Host.Outcome State Fault Refusal := run e (fun clk _ n => partitionResetEnd p clk n) s
/-- `RESTORE_END`: steps 5 to 8 are done; the reset history is cleared. -/
def restoreEnd (p : Nat) (clk : Clock) (n : Node) : Node :=
  let x := getP n p
  match x.restore with
  | none => n
  | some t =>
    if x.st != .restoring || decide (pctr clk p < x.restAt + restoreLen x) then n
    else
      let n := modP p (fun x => { x with restore := none, restWait := [], hist := [] }) n
      postO clk t stSuccess 0 (resume clk p (pctr clk p - x.downAt) x.restWait n)
def execRestoreEnd (e : Env) (p : Nat) (s : State) : Host.Outcome State Fault Refusal := run e (fun clk _ n => restoreEnd p clk n) s

/-! ### `FAULT_LOG_READ` (R291) -/

def faultLogChk (_ : Node) (_ : Nat) (e : Sqe) : Option Nat := if 8 ≤ e.target then some 0x04 else if e.arg0 = 0 || 4096 < e.arg0 then some 0x18 else none
def faultLogRead : Job := fun clk _ t e n =>
  let x := getP n e.target
  if x.st == .absent || (t.fn != 0 && (getFn n t.fn).map != some e.target) then invalid clk t 0x04 0 n
  else
    let rs := (x.faults.filter (fun r => decide (e.arg1 ≤ r.seq))).take e.arg0
    post clk t stSuccess rs.length (if rs.isEmpty then n else emit (.data e.addr0 ((rs.map faultBytes).flatten)) n)
def execFaultLogRead (e : Env) (q : QRef) (s : State) : Host.Outcome State Fault Refusal :=
  run e (hostCmd Rows.faultLogRead anyEntry faultLogChk noPtn faultLogRead q) s

/-! ### Core spares (R12, R15, R301) -/

/-- A live swap starts: the repair map first, then FILLING and DRAINING with one `LCORE`. -/
def startSwap (clk : Clock) (pc : Nat) (t : Option Tok) (n : Node) : Option Node :=
  (pickSpare n pc).map (fun k =>
    let c := vget n.cores pc
    modCore k (fun s => { s with st := .filling, ptn := c.ptn, lcore := c.lcore, peer := pc })
      (modCore pc (fun s => { s with st := .draining, peer := k, since := clk.node, restarted := false, tok := t })
        (recordRepair (mapRetire pc k) n)))
/-- The counter that a core's windows run on: its partition's, or the node's (R4). -/
def coreCtr (clk : Clock) (c : PCore) : Nat := if c.ptn < 8 then pctr clk c.ptn else clk.node
/-- Corrected errors of a core inside the escalation window of its partition; 0 for a core of no partition. -/
def ceInWindow (n : Node) (clk : Clock) (c : PCore) : Nat :=
  if c.ptn < 8 then (c.ceTimes.filter (fun t => decide (coreCtr clk c - t < window (getP n c.ptn)))).length else 0
/-- The core's checks corrected errors, each so many cycles ago as `ages` says. -/
def addErrors (clk : Clock) (pc : Nat) (ages : List Nat) (n : Node) : Node :=
  modCore pc (fun c => { c with ce := sat 32 (c.ce + ages.length), ceTimes := c.ceTimes ++ ages.map (coreCtr clk c - ·) }) n
/-- `CORE_SWAP`: corrected errors that no command has reported yet; the swap starts where 64 of the core's lie in its window. -/
def coreSwap (pc : Nat) (ages : List Nat) (clk : Clock) (n : Node) : Node :=
  if 68 ≤ pc || (vget n.cores pc).st == .retired then n
  else
    let n := addErrors clk pc ages n
    let c := vget n.cores pc
    if c.st == .inService && decide (64 ≤ ceInWindow n clk c) then (startSwap clk pc none n).getD n else n
def execCoreSwap (e : Env) (c : CoreErrs) (s : State) : Host.Outcome State Fault Refusal := run e (fun clk _ n => coreSwap c.core c.ages clk n) s
/-- `CORE_SWAP_BLOCK_RESTART`: 1 ms after the start, threads whose block has not ended restart it on the filling core. -/
def blockRestart (pc : Nat) (clk : Clock) (n : Node) : Node :=
  let c := vget n.cores pc
  if 68 ≤ pc || c.st != .draining || c.restarted || decide (clk.node < c.since + 300000) then n else modCore pc (fun c => { c with restarted := true }) n
def execCoreSwapBlockRestart (e : Env) (pcore : Nat) (s : State) : Host.Outcome State Fault Refusal := run e (fun clk _ n => blockRestart pcore clk n) s
/-- `CORE_SWAP_CUTOVER`: both entries change in one cycle. -/
def swapCutover (pc : Nat) (clk : Clock) (n : Node) : Node :=
  let c := vget n.cores pc
  if 68 ≤ pc || c.st != .draining || 68 ≤ c.peer then n else postO clk c.tok stSuccess 0 (engageCore clk pc c.peer n)
def execCoreSwapCutover (e : Env) (pcore : Nat) (s : State) : Host.Outcome State Fault Refusal := run e (fun clk _ n => swapCutover pcore clk n) s
/-- A core that nothing replaces is out of service for good. -/
def retireCore (pc : Nat) (n : Node) : Node :=
  modCore pc (fun s => { s with st := .retired, ptn := 0xF, lcore := 0xFF, peer := 0xFF, tok := none }) (recordRepair (mapRetire pc 0xFF) n)
/-- A core that cannot keep 128 active lanes leaves service (R12): by a live swap, or without a replacement where no spare is left (log 131). A spare is used no more, and a swap that was filling it takes
the next spare; without one the draining core stays, its command having found no spare. -/
def loseCore (clk : Clock) (pc : Nat) (n : Node) : Node :=
  let c := vget n.cores pc
  match c.st with
  | .inService => (startSwap clk pc none n).getD (retireCore pc n)
  | .spare => retireCore pc n
  | .filling =>
    let t := (vget n.cores c.peer).tok
    let n := modCore c.peer (fun s => { s with st := .inService, peer := 0xFF, tok := none }) (retireCore pc n)
    match startSwap clk c.peer t n with
    | some n => n
    | none => postO clk t stNoSpace 0 (recordRepair (fun m => { m with cores := m.cores.filter (fun x => x.1 != c.peer) }) n)
  | _ => n
/-- `LANE_FAILURE` (R12): recorded and reported; the spare lane comes in at the next reset, and a second failed lane of a slice takes the core out by core sparing (log 49). -/
def laneFailure (core slice lane : Nat) (clk : Clock) (n : Node) : Node :=
  let c := vget n.cores core
  if 68 ≤ core || 8 ≤ slice || 17 ≤ lane || c.lanes.contains (slice, lane) then n
  else
    let n := modCore core (fun c => { c with lanes := c.lanes ++ [(slice, lane)] }) n
    let n := { n with bflash := { n.bflash with map := { n.bflash.map with lanes := n.bflash.map.lanes ++ [(core, slice, lane)] } } }
    let n := spareCore clk (if c.ptn < 8 then c.ptn else 0) spLane (core + 256 * slice + 65536 * lane) c.lcore core n
    if c.lanes.any (fun l => l.1 == slice) then loseCore clk core n else n
def execLaneFailure (e : Env) (core slice lane : Nat) (s : State) : Host.Outcome State Fault Refusal := run e (fun clk _ n => laneFailure core slice lane clk n) s

/-! ### Bank spares (R302) and `SPARE_ENGAGE` (R304) -/

def modChan (c : Nat) (g : Chan → Chan) (n : Node) : Node := modMem (fun m => { m with chans := vmod m.chans c g }) n
/-- A bank is due for its channel's spare: its spare rows have fallen to 8, or four of its rows had an uncorrectable word within 24 hours. -/
def bankDue (clk : Clock) (c : Chan) (pos : Nat) : Bool :=
  decide (spareLeft c pos ≤ 8) ||
    decide (4 ≤ (nubNat ((c.ueRows.filter (fun r => r.1 == pos && decide (clk.node < r.2.2 + 25920000000000))).map (fun r => r.2.1))).length)
def bankSpare (ch pos : Nat) (clk : Clock) (n : Node) : Node :=
  let c := vget n.mem.chans ch
  if 128 ≤ ch || 32 ≤ pos || c.spare || c.copying.isSome || !bankDue clk c pos then n else modChan ch (fun c => { c with copying := some (pos, none) }) n
def execBankSpare (e : Env) (chan pos : Nat) (s : State) : Host.Outcome State Fault Refusal := run e (fun clk _ n => bankSpare chan pos clk n) s
/-- `BANK_SPARE_CUTOVER`: the spare takes the bank's chain position, with its own spare rows. -/
def bankCutover (ch : Nat) (clk : Clock) (n : Node) : Node :=
  let c := vget n.mem.chans ch
  match c.copying with
  | none => n
  | some (pos, t) =>
    if 128 ≤ ch then n
    else
      let n := modChan ch (fun c => { c with copying := none, spare := true, rowsUsed := mdel c.rowsUsed pos, ueRows := c.ueRows.filter (fun r => r.1 != pos), ceRows := c.ceRows.filter (fun r => r.1 != pos) }) n
      let n := recordRepair (fun m => { m with banks := m.banks ++ [(ch, pos)], rows := m.rows.filter (fun r => !(r.1 == ch && r.2.1 == pos)) }) n
      let n := raiseAt attnWear 0 (spareRecord clk (if c.ptn < 8 then c.ptn else 0) spBank (placeOf ch pos) n)
      let used := (n.mem.chans.toList.filter (·.spare)).length
      postO clk t stSuccess 0 (if used = n.bankLvl then raiseAt attnWear 0 n else n)
def execBankSpareCutover (e : Env) (chan : Nat) (s : State) : Host.Outcome State Fault Refusal := run e (fun clk _ n => bankCutover chan clk n) s
def spareChk (_ : Node) (_ : Nat) (e : Sqe) : Option Nat :=
  if e.arg0 = 0 then (if 64 ≤ e.arg1 then some 0x20 else none)
  else if e.arg0 = 1 then (if e.arg1.testBit 7 then some 0x20 else none)
  else some 0x18
def spareEngage : Job := fun clk _ t e n =>
  if e.arg0 = 0 then
    match (List.range 68).find? (fun i => (vget n.cores i).lcore == e.arg1 && (vget n.cores i).st != .retired) with
    | none => invalid clk t 0x20 0 n
    | some pc =>
      if (vget n.cores pc).st != .inService then post clk t stBusy 0 n
      else match startSwap clk pc (some t) n with
        | some n => n
        | none => post clk t stNoSpace 0 n
  else
    let ch := e.arg1 % 128
    let c := vget n.mem.chans ch
    if c.copying.isSome then post clk t stBusy 0 n
    else if c.spare then post clk t stNoSpace 0 n
    else modChan ch (fun c => { c with copying := some (e.arg1 / 256, some t) }) n
def execSpareEngage (e : Env) (q : QRef) (s : State) : Host.Outcome State Fault Refusal :=
  run e (hostCmd Rows.spareEngage anyEntry spareChk noPtn spareEngage q) s

/-! ### `FUNCTION_MAP` (R284) -/

def functionMapChk (n : Node) (_ : Nat) (e : Sqe) : Option Nat :=
  if 64 ≤ e.arg0 || n.totalVfs < e.arg0 then some 0x18
  else if e.arg1 = 0xFF then (if e.arg0 = 0 then some 0x20 else none)
  else if 8 ≤ e.arg1 || (getP n e.arg1).st == .absent then some 0x20 else none
def functionMap : Job := fun clk _ t e n =>
  let x := getFn n e.arg0
  let resetting : Bool := match x.map with
    | some p => (getP n p).run.isSome
    | none => false
  if resetting || x.queues.any (fun q => q.1 != 0) then post clk t stBusy 0 n
  else post clk t stSuccess 0 (modFn e.arg0 (fun x => { x with map := if e.arg1 = 0xFF then none else some e.arg1 }) n)
def execFunctionMap (e : Env) (q : QRef) (s : State) : Host.Outcome State Fault Refusal :=
  run e (hostCmd Rows.functionMap anyEntry functionMapChk noPtn functionMap q) s

end Sys2Proof.Machine
end

