-- ==== Sys2Proof/Machine/Host.lean ====
section
/-! DEFINITION. The host interface (chapter 11): doorbells (R240), the admin pair (R236), queues (R237, R240, R244), resets of functions (R245), virtual functions (R284),
host reads that fail (R234), sessions (R251, R252), attention (R249) and heartbeats (R250). -/

namespace Sys2Proof.Machine

/-! ### What the host can reach -/

/-- Configuration space is complete, or the node is in recovery mode, and the host link is served. -/
def reach (n : Node) : Bool := n.pins.perst && !n.boot.stopped && (decide (6 ≤ n.boot.step) || n.boot.mode == 1) && n.pwr.st != .off
/-- The always-on domain alone answers (R336; a wake from SLEEP counts as SLEEP until it ends). -/
def aonOnly (n : Node) : Bool := n.pwr.st == .sleep || n.pwr.st == .wakeHold || (n.pwr.st == .waking && n.pwr.target == 3 && n.pwr.padHeld)
/-- A register write that R336 makes the node ignore. -/
def lostWrite (n : Node) : Node := modPwr (fun w => { w with lostWr := w.lostWr + 1 }) n
/-- Power states in which completions and heartbeats are posted. -/
def awake (n : Node) : Bool := match n.pwr.st with
  | .run => true
  | .idle => true
  | .rest => true
  | .entering => true
  | .waking => n.pwr.target == 2
  | .wakeHold => n.pwr.target == 2
  | _ => false

/-! ### Doorbells (R240, R247) -/

def dbErr (f qid why : Nat) (n : Node) : Node :=
  modFn f (fun x => { x with dbErr := word [(32, 32, sat 32 (fld x.dbErr 32 32 + 1)), (16, 2, why), (0, 13, qid)] }) n
/-- The node, or the function's partition, is entering a low-power state or leaving one. -/
def inTransit (n : Node) (f : Nat) : Bool :=
  let st := n.pwr.st
  st == .entering || st == .waking || st == .wakeHold || st == .rest || st == .sleep ||
    (match (getFn n f).map with
      | some p => (getP n p).pow == .entering || (getP n p).pow == .waking || (getP n p).pow == .off
      | none => false)
def ringSq (q : QRef) (late : Bool) (v : Nat) (n : Node) : Node := match getQ n q.fn q.qid with
  | none => n
  | some x =>
    if x.sqSize < v then dbErr q.fn q.qid 2 n
    else modQ q.fn q.qid (fun x => { x with sqTail := v, delay := if late && v != x.sqTail then x.delay ++ [(x.sqTail, v)] else x.delay }) n
def ringCq (q : QRef) (v : Nat) (n : Node) : Node := match getQ n q.fn q.qid with
  | none => n
  | some x =>
    let d := x.cqSize + 1
    if x.cqSize < v || x.unreleased < (v + d - x.cqHead) % d then dbErr q.fn q.qid 3 n
    else modQ q.fn q.qid (fun x => { x with cqHead := v }) n
/-- `DOORBELL`: `sq` and `cq` are the halves written. -/
def doorbell (q : QRef) (sq cq : Option Nat) (clk : Clock) (n : Node) : Node :=
  if !reach n || !(getFn n q.fn).enabled then n
  else match getQ n q.fn q.qid with
    | none => dbErr q.fn q.qid 1 n
    | some _ =>
      let late := inTransit n q.fn
      let n := wakeNode clk true n
      let n := if n.pwr.st = .entering then wakeNode clk true (abandonNode clk n)
        else match (getFn n q.fn).map with
          | some p => rouse clk p n
          | none => n
      let n := match sq with
        | some v => ringSq q late v n
        | none => n
      match cq with
      | some v => ringCq q v n
      | none => n
def execDoorbell (e : Env) (q : QRef) (sq cq : Option Nat) (s : State) : Host.Outcome State Fault Refusal := runAon e (fun clk _ n => doorbell q sq cq clk n) s

/-! ### Resets of pairs (R244, R245) -/

/-- Work of an admin command is abandoned before its commit point: a swap, a model's load, an ownership transfer, a snapshot or a restoration; other work runs on without its command. -/
def abortAdmin (clk : Clock) (t : Tok) (n : Node) : Node :=
  foldNode (List.range 8) (fun p n =>
    let n := foldNode (getP n p).colls (fun c n => if c.2.swap.any (fun w => w.tok == t) then retireGens clk p c.1 (resetSwap clk p c.1 n) else n) n
    let n := foldNode ((getP n p).mdls.filter (fun m => m.2.load == some t)) (fun m n => dropLoad clk p m.1 n) n
    foldNode (objsOf (getP n p)) (fun o n =>
      let n := if ((getOwn n p o.1 o.2).bind (·.xfer)).any (fun x => x.tok == t) then resetOwn clk p o.1 o.2 n else n
      if (getDur n p o.1 o.2).any (fun d => (d.snap.bind (·.tok)) == some t || d.wantSnap.bind id == some t || d.recover.any (fun r => r.tok == t)) then resetSnap clk p o.1 o.2 n else n) n) (forgetTok t n)
/-- The tokens of a pair's fetched commands. -/
def pairToks (n : Node) (f qid : Nat) : List (Tok × Cmd) := match getQ n f qid with
  | some q => q.cmds.map (fun c => ({ fn := f, qid := qid, serial := c.serial }, c))
  | none => []
/-- The work of a command of pair `qid` ends. -/
def abortTok (clk : Clock) (t : Tok) (n : Node) : Node :=
  if t.qid = 0 then abortAdmin clk t n
  else match (getFn n t.fn).map with
    | some p => cancelTok clk p t true false n
    | none => n
def settleFn (clk : Clock) (f : Nat) (n : Node) : Node := match (getFn n f).map with
  | some p => settleXfers clk p n
  | none => n
/-- Entries submitted before the reset point complete without running, as completion queue space allows. `unread` says that the entry cannot be read. -/
def abortEntry (clk : Clock) (host : Mem) (f qid : Nat) (unread : Bool) (n : Node) : Node := match getQ n f qid with
  | none => n
  | some q =>
    if q.st != .resetting || q.sqHead == q.resetTo || !q.room then n
    else
      let head := (q.sqHead + 1) % (q.sqSize + 1)
      let late := q.isDelayed q.sqHead
      let n := modQ f qid (fun q => { q with sqHead := head, delay := q.delay.filter (fun r => r.2 != head), lastPost := svcOf n f }) n
      if unread then emit (.aer f) (putCqe clk f qid head false 0xFFFF late stAborted 4 n)
      else putCqe clk f qid head false (nextEntry host q).cid late stAborted 0 n
def abortEntries (clk : Clock) (host : Mem) (f qid : Nat) (n : Node) : Node := match getQ n f qid with
  | none => n
  | some q => foldNode (List.range (q.sqSize + 1)) (fun _ n => abortEntry clk host f qid false n) n
/-- The I/O pair that `TARGET` names. -/
def ioChk (n : Node) (fn : Nat) (e : Sqe) : Option Nat := if e.target = 0 || (getQ n fn e.target).isNone then some 0x04 else none
def queueReset : Job := fun clk _ t e n => match getQ n t.fn e.target with
  | none => invalid clk t 0x04 0 n
  | some q =>
    if q.st = .resetting then post clk t stBusy 0 n
    else
      let n := modQ t.fn e.target (fun q => { q with st := .resetting, resetTo := q.sqTail, resetTok := some t }) n
      let n := foldNode (pairToks n t.fn e.target) (fun c n => post clk c.1 stAborted (abortResult ((cmdOf n c.1).getD c.2)) (abortTok clk c.1 n)) n
      settleFn clk t.fn n
def execQueueReset (e : Env) (q : QRef) (s : State) : Host.Outcome State Fault Refusal := run e (hostCmd Rows.queueReset anyEntry ioChk noPtn queueReset q) s
/-- `QUEUE_RESET_DONE`: what is still to complete completes as far as there is room; after the last, the pair is ACTIVE and `QUEUE_RESET` completes. -/
def queueResetDone (q : QRef) (clk : Clock) (host : Mem) (n : Node) : Node :=
  let n := abortEntries clk host q.fn q.qid n
  match getQ n q.fn q.qid with
  | none => n
  | some x =>
    if x.st != .resetting || x.sqHead != x.resetTo || !x.cmds.isEmpty then n
    else postO clk x.resetTok stSuccess 0 (modQ q.fn q.qid (fun x => { x with st := .active, resetTok := none }) n)
def execQueueResetDone (e : Env) (q : QRef) (s : State) : Host.Outcome State Fault Refusal := run e (queueResetDone q) s

/-! ### Queues (R237, R240) -/

def queueCreateChk (n : Node) (fn : Nat) (e : Sqe) : Option Nat :=
  let sq := e.arg0 % 65536
  let cq := e.arg0 / 2 ^ 16 % 65536
  if e.target = 0 || 4096 < e.target || (getQ n fn e.target).isSome then some 0x04
  else if e.addr0 = 0 || e.addr0 % 4096 != 0 then some 0x08
  else if e.addr1 = 0 || e.addr1 % 4096 != 0 then some 0x10
  else if sq = 0 || cq < sq || (e.arg0 / 2 ^ 32 % 4 != 0 && e.arg0 / 2 ^ 40 % 256 == 0) then some 0x18
  else if 1000 < e.arg1 / 2 ^ 16 % 65536 then some 0x20 else none
/-- I/O pairs of all functions. -/
def ioCount (n : Node) : Nat := (n.fns.toList.map (fun x => (x.queues.filter (fun q => q.1 != 0)).length)).foldl (· + ·) 0
def queueCreate : Job := fun clk _ t e n =>
  if (getFn n t.fn).map.isNone then invalid clk t 0 0 n
  else if 4096 ≤ ioCount n then post clk t stNoSpace 0 n
  else
    let w := e.arg0 / 2 ^ 40 % 256
    let q : Queue :=
      { sqBase := e.addr0, cqBase := e.addr1, sqSize := e.arg0 % 65536, cqSize := e.arg0 / 2 ^ 16 % 65536, cls := e.arg0 / 2 ^ 32 % 4, weight := w, credit := w
        vector := e.arg0 / 2 ^ 48 % 2048, ien := e.arg0.testBit 59, aggCount := e.arg1 % 256, aggUs := e.arg1 / 2 ^ 16 % 65536 }
    post clk t stSuccess 0 (modFn t.fn (fun x => { x with queues := mset x.queues e.target q }) n)
def execQueueCreate (e : Env) (q : QRef) (s : State) : Host.Outcome State Fault Refusal := run e (hostCmd Rows.queueCreate anyEntry queueCreateChk noPtn queueCreate q) s
def queueDelete : Job := fun clk _ t e n => match getQ n t.fn e.target with
  | none => invalid clk t 0x04 0 n
  | some q =>
    if !q.cmds.isEmpty || q.st == .resetting then post clk t stBusy 0 n
    else post clk t stSuccess 0 (modFn t.fn (fun x => { x with queues := mdel x.queues e.target }) n)
def execQueueDelete (e : Env) (q : QRef) (s : State) : Host.Outcome State Fault Refusal := run e (hostCmd Rows.queueDelete anyEntry ioChk noPtn queueDelete q) s

/-! ### The admin pair (R236, R245) -/

def aqEnabled (x : Fn) : Bool := bit x.aqCtl 0
/-- `HIF_AQ_CTL` of function `f` among the W1C bits set in this cycle: each function has its own copy. -/
def aqKey (f : Nat) : Nat := 0x10000 + 2 ^ 32 * f
/-- `ENABLE` is set. -/
def aqEnable (f : Nat) (_ : Clock) (n : Node) : Node :=
  let x := getFn n f
  if !reach n || !x.enabled || aqEnabled x then n
  else if aonOnly n then lostWrite n
  else
    let sq := fld x.aqCtl 16 12
    let cq := fld x.aqCtl 32 12
    if sq = 0 || cq = 0 || cq < sq || fld x.aqSq 12 52 == 0 || fld x.aqCq 12 52 == 0 then noteSet (aqKey f) 2 (modFn f (fun x => { x with aqCtl := put x.aqCtl 0 3 5 }) n)
    else
      let q : Queue := { sqBase := x.aqSq.toNat, cqBase := x.aqCq.toNat, sqSize := sq, cqSize := cq, ien := true }
      modFn f (fun x => { x with aqCtl := put x.aqCtl 0 2 3, queues := mset x.queues 0 q }) n
def execAqEnable (e : Env) (fn : Nat) (s : State) : Host.Outcome State Fault Refusal := runAon e (fun clk _ n => aqEnable fn clk n) s
/-- `ENABLE` is cleared: the pair's commands end without completions, and the session ends. -/
def aqDisable (f : Nat) (clk : Clock) (n : Node) : Node :=
  let x := getFn n f
  if !reach n || !aqEnabled x then n
  else if aonOnly n then lostWrite n
  else
    let toks := pairToks n f 0
    let n := modFn f (fun x => { x with aqCtl := put x.aqCtl 0 2 0, queues := mdel x.queues 0, session := none }) n
    settleD f (foldNode toks (fun t n => abortTok clk t.1 n) n)
def execAqDisable (e : Env) (fn : Nat) (s : State) : Host.Outcome State Fault Refusal := runAon e (fun clk _ n => aqDisable fn clk n) s

/-! ### Functions (R245, R277, R284) -/

/-- Tokens of a function's flows and policer at zero. -/
def zeroTokens (clk : Clock) (f : Nat) (n : Node) : Node :=
  let s := slotOf clk.node
  modLnk (fun b => { b with
    flows := b.flows.map (fun x => if x.owner = f then
      let w := (mget b.shape (8 * f + x.cls)).getD 0
      { x with fullAt := 65536 * s + slotsFor w (256 * burstOf w), t := 0 } else x)
    pols := vmod b.pols f (fun y => { y with tc := 0, tp := 0 }) }) n
/-- One function's reset: pairs, session, attentions, MSI-X, tokens. -/
def resetFn (clk : Clock) (f : Nat) (n : Node) : Node :=
  let x := getFn n f
  let toks := (x.queues.map (fun q => (pairToks n f q.1).map (·.1))).flatten
  let n := modFn f (fun x => { x with
    queues := [], aqCtl := put x.aqCtl 0 2 0, attn := 0, session := none, unmasked := [], pend := [], heldV := [], msixTab := [], msixCtl := 0, devCtl := 0x2810, devCtl2 := 0, dst := .d0 }) n
  settleFn clk f (zeroTokens clk f (foldNode toks (fun t n => abortTok clk t n) n))
/-- The registers of a function take their image values, and its tokens start full (R277). -/
def qosImage (q : QosDefaults) (f : Nat) (n : Node) : Node :=
  let rate := q.polRate.getD f 0
  let cfg := q.polCfg.getD f 0
  modLnk (fun b => { b with
    shape := (List.range 8).foldl (fun m c => mset m (8 * f + c) (q.shape.getD (8 * f + c) 0)) b.shape
    pendShape := b.pendShape.filter (fun x => x.1 / 8 != f)
    flows := b.flows.map (fun x => if x.owner = f then { x with mode := .wheel, fullAt := 0 } else x)
    pols := vmod b.pols f (fun y => { y with rate := rate, cfg := cfg, staged := none, pending := none, tc := 65536 * fld cfg 0 16, tp := 65536 * fld cfg 16 16 }) }) n
/-- NumVFs falls to `k`: the functions above it disappear and keep their mappings. -/
def vfDisable (k : Nat) (clk : Clock) (n : Node) : Node :=
  if !reach n || n.numVfs ≤ k then n
  else
    let n := foldNode ((List.range (n.numVfs - k)).map (fun i => k + 1 + i)) (fun f n =>
      modFn f (fun x => { ({} : Fn) with map := x.map, attnSeq := x.attnSeq }) (resetFn clk f n)) n
    { n with numVfs := k }
def execVfDisable (e : Env) (num : Nat) (s : State) : Host.Outcome State Fault Refusal := runAon e (fun clk _ n => vfDisable num clk n) s
/-- NumVFs rises to `k`. -/
def vfEnable (k : Nat) (n : Node) : Node :=
  if !reach n || n.boot.mode == 1 || n.totalVfs < k || k ≤ n.numVfs then n
  else
    let q := match n.boot.image with
      | some i => i.node.qos
      | none => {}
    let n := foldNode ((List.range (k - n.numVfs)).map (fun i => n.numVfs + 1 + i)) (fun f n => qosImage q f (modFn f (fun x => { x with enabled := true }) n)) n
    { n with numVfs := k }
def execVfEnable (e : Env) (num : Nat) (s : State) : Host.Outcome State Fault Refusal := runAon e (pureBody (vfEnable num)) s
/-- A function-level reset; that of the physical function clears VF Enable. -/
def flr (f : Nat) (clk : Clock) (n : Node) : Node :=
  if !reach n || !(getFn n f).enabled then n
  else
    let n := resetFn clk f n
    if f = 0 then vfDisable 0 clk n else n
def execFunctionLevelReset (e : Env) (fn : Nat) (s : State) : Host.Outcome State Fault Refusal := runAon e (fun clk _ n => flr fn clk n) s

/-! ### Vectors and heartbeats (R239, R250) -/

def cqVectorTimer (q : QRef) (clk : Clock) (n : Node) : Node := match getQ n q.fn q.qid with
  | none => n
  | some x => match x.unsigAt with
    | some t => if x.ien && x.unsig != 0 && q.qid != 0 && decide (t + 300 * x.aggUs ≤ clk.node) then signal q.fn q.qid n else n
    | none => n
def execCqVectorTimer (e : Env) (q : QRef) (s : State) : Host.Outcome State Fault Refusal := run e (fun clk _ n => cqVectorTimer q clk n) s
/-- One function's heartbeat, or a missed one. -/
def beat (clk : Clock) (f : Nat) (n : Node) : Node :=
  let x := getFn n f
  match mget x.queues 0 with
  | none => n
  | some q =>
    if !x.enabled || x.dst == .d3hot || !bit x.aqCtl 1 then n
    else if q.room then putCqe clk f 0 q.sqHead true 0xFFFF false stSuccess clk.node n
    else modFn f (fun x => { x with hbMissed := x.hbMissed + 1 }) n
def heartbeat (clk : Clock) (n : Node) : Node :=
  if !n.boot.ready || recovery n || !reach n || !awake n || clk.node % 3000000 != 0 || n.hbAt == some clk.node then n
  else foldNode (List.range 64) (beat clk) { n with hbAt := some clk.node }
def execHeartbeat (e : Env) (s : State) : Host.Outcome State Fault Refusal := run e (fun clk _ n => heartbeat clk n) s

/-! ### Attention (R249) -/

def attnAck : Job := fun clk _ t e n =>
  let x := getFn n t.fn
  if e.arg0 / 65536 % 2 ^ 32 = x.attnSeq.toNat then post clk t stSuccess 0 (modFn t.fn (fun x => { x with attn := x.attn &&& ~~~(BitVec.ofNat 16 e.arg0) }) n)
  else post clk t stSuccess x.attnSeq.toNat n
def execAttnAck (e : Env) (q : QRef) (s : State) : Host.Outcome State Fault Refusal := run e (hostCmd Rows.attnAck anyEntry noChk noPtn attnAck q) s

/-! ### Sessions (R251, R252) -/

def getKey (n : Node) (s : Nat) : KeySlot := vget n.bflash.keys s
def modKey (s : Nat) (g : KeySlot → KeySlot) (n : Node) : Node := { n with bflash := { n.bflash with keys := vmod n.bflash.keys s g } }
def lockedAt (clk : Clock) (k : KeySlot) : Bool := match k.locked with
  | some t => decide (clk.node < t)
  | none => false
/-- "VS760SO1" and "VS760SN1". -/
def tagSo : List Byte := [0x56, 0x53, 0x37, 0x36, 0x30, 0x53, 0x4F, 0x31]
def tagSn : List Byte := [0x56, 0x53, 0x37, 0x36, 0x30, 0x53, 0x4E, 0x31]
/-- M, or M′ with the other tag. -/
def sessionMsg (tag : List Byte) (f s : Nat) (nn : BitVec 256) (nh : List Byte) : List Byte := tag ++ toLe 2 f ++ toLe 1 s ++ [0] ++ toLe 32 nn.toNat ++ nh
/-- Phase 0. -/
def sessionPhase0 : Job := fun clk _ t e n =>
  let s := e.arg0 % 8
  let k := getKey n s
  if lockedAt clk k then post clk t stAuthFailed 1 n
  else if k.key.isNone then post clk t stAuthFailed 0 n
  else
    let (i, n) := nextFree n
    let v := Config.nonce i
    post clk t stSuccess 0 (emit (.data e.addr0 (toLe 32 v.toNat)) (modFn t.fn (fun x => { x with nonce := some { value := v, slot := s, at_ := clk.node } }) n))
def execSessionOpenPhase0 (e : Env) (q : QRef) (s : State) : Host.Outcome State Fault Refusal :=
  run e (hostCmd Rows.sessionOpen (fun x => !x.arg0.testBit 8) noChk noPtn sessionPhase0 q) s
/-- The proof of phase 1 holds. -/
def proofOk (clk : Clock) (n : Node) (f s : Nat) (bs : List Byte) : Option (List Byte) :=
  let k := getKey n s
  match k.key, (getFn n f).nonce with
  | some key, some nn =>
    if nn.slot = s && decide (clk.node ≤ nn.at_ + 300000000) && k.mask.getLsbD f && slice bs 32 48 == hmac384 key (sessionMsg tagSo f s nn.value (bs.take 32)) then
      some (hmac384 key (sessionMsg tagSn f s nn.value (bs.take 32)))
    else none
  | _, _ => none
/-- One more failure of a slot; the fourth in succession locks it for 60 s. -/
def failSlot (clk : Clock) (k : KeySlot) : KeySlot :=
  if k.fails + 1 < 4 then { k with fails := k.fails + 1 } else { k with fails := 0, locked := some (clk.node + 18000000000) }
/-- Phase 1. -/
def sessionPhase1 : Job := fun clk host t e n =>
  let s := e.arg0 % 8
  let ok := proofOk clk n t.fn s (Mem.readN host e.addr0 80)
  let n := modFn t.fn (fun x => { x with nonce := none }) n
  if lockedAt clk (getKey n s) then post clk t stAuthFailed 1 n
  else match ok with
    | some mac => post clk t stSuccess 0 (emit (.data e.addr1 mac) (modKey s (fun k => { k with fails := 0 }) (modFn t.fn (fun x => { x with session := some s }) n)))
    | none => post clk t stAuthFailed 0 (modKey s (failSlot clk) n)
def execSessionOpenPhase1 (e : Env) (q : QRef) (s : State) : Host.Outcome State Fault Refusal :=
  run e (hostCmd Rows.sessionOpen (fun x => x.arg0.testBit 8) noChk noPtn sessionPhase1 q) s
def lockoutEnd (s : Nat) (clk : Clock) (n : Node) : Node :=
  if (getKey n s).locked.isSome && !lockedAt clk (getKey n s) then modKey s (fun k => { k with locked := none, fails := 0 }) n else n
def execSessionLockoutEnd (e : Env) (slot : Nat) (s : State) : Host.Outcome State Fault Refusal := run e (fun clk _ n => lockoutEnd slot clk n) s
def sessionClose : Job := fun clk _ t _ n => post clk t stSuccess 0 (modFn t.fn (fun x => { x with session := none }) n)
def execSessionClose (e : Env) (q : QRef) (s : State) : Host.Outcome State Fault Refusal := run e (hostCmd Rows.sessionClose anyEntry noChk noPtn sessionClose q) s
/-- While all eight slots are empty, slot 0 is written without a session. -/
def keyRow (host : Mem) (q : QRef) (n : Node) : Row :=
  let free : Bool := match getQ n q.fn q.qid with
    | some x => n.bflash.keys.toList.all (fun k => k.key.isNone) && (nextEntry host x).arg0 % 512 == 0
    | none => false
  { Rows.sessionKeySet with s := !free }
def sessionKeySet : Job := fun clk host t e n =>
  let bs := Mem.readN host e.addr0 40
  post clk t stSuccess 0 (modKey (e.arg0 % 8) (fun k => { k with key := some (bs.take 32), mask := BitVec.ofNat 64 (leAt bs 32 8) }) n)
def execSessionKeySet (e : Env) (q : QRef) (s : State) : Host.Outcome State Fault Refusal :=
  run e (fun clk host n => hostCmd (keyRow host q n) (fun x => !x.arg0.testBit 8) noChk noPtn sessionKeySet q clk host n) s
/-- An erased slot ends the sessions opened on it. -/
def sessionKeyErase : Job := fun clk _ t e n =>
  let s := e.arg0 % 8
  let n := modKey s (fun k => { k with key := none, mask := 0 }) n
  post clk t stSuccess 0 { n with fns := n.fns.map (fun x => if x.session = some s then { x with session := none } else x) }
def execSessionKeyErase (e : Env) (q : QRef) (s : State) : Host.Outcome State Fault Refusal :=
  run e (hostCmd Rows.sessionKeySet (fun x => x.arg0.testBit 8) noChk noPtn sessionKeyErase q) s

/-! ### Host reads that fail (R234) -/

/-- The command reads host memory before it has an effect. -/
def readsHost (e : Sqe) : Bool :=
  [0x10, 0x20, 0x24, 0x25, 0x26, 0x80, 0x81, 0x82, 0x84, 0x86, 0x90, 0x91, 0x92, 0xA0, 0xA2].contains e.opc || ((e.opc == 0x04) && e.arg0.testBit 8) || ((e.opc == 0x06) && !e.arg0.testBit 8)
/-- The entry check and the partition of the commands that read host memory. -/
def chkOf (opc : Nat) : Node → Nat → Sqe → Option Nat :=
  if opc = 0x81 then auditChk
  else if opc = 0x82 ∨ opc = 0x84 then insertChk
  else if opc = 0x86 then collChk false
  else if opc = 0x92 then tblChk
  else if opc = 0xA0 then objRange
  else if opc = 0xA2 then flashChk true
  else noChk
def ptnOf (opc : Nat) : Node → Nat → Sqe → Option Nat := if opc = 0x20 ∨ opc = 0x24 ∨ opc = 0x25 ∨ opc = 0x26 then fnPtn else noPtn
/-- A nonce serves one phase 1 at most. -/
def hostAccess : Job := fun clk _ t e n => post clk t stHostAccess 0 (emit (.aer t.fn) (if e.opc = 0x04 then modFn t.fn (fun x => { x with nonce := none }) n else n))
def hostReadFailure (q : QRef) (what : ReadWhat) (clk : Clock) (host : Mem) (n : Node) : Node := match getQ n q.fn q.qid with
  | none => n
  | some x => match what with
    | .fetch =>
      if x.st = .resetting then n
      else match grant clk q n with
        | some n => emit (.aer q.fn) (raiseAt attnHost q.fn (modQ q.fn q.qid (fun x => { x with st := .error }) n))
        | none => n
    | .aborted ahead => abortEntry clk host q.fn q.qid true (foldNode (List.range (min ahead x.sqSize)) (fun _ n => abortEntry clk host q.fn q.qid false n) n)
    | .data =>
      let e := nextEntry host x
      match rowOf e.opc with
      | some r => if readsHost e then hostCmd (if e.opc = 0x06 then keyRow host q n else r) anyEntry (chkOf e.opc) (ptnOf e.opc) hostAccess q clk host n else n
      | none => n
def execHostReadFailure (e : Env) (q : QRef) (what : ReadWhat) (s : State) : Host.Outcome State Fault Refusal := run e (hostReadFailure q what) s

end Sys2Proof.Machine
end

