-- ==== Sys2Proof/Machine/Power.lean ====
section
/-! DEFINITION. Power (chapter 14): entries (R328 to R333), wakes (R334 to R337), AVSBus rails (R339, R340), limits (R341, R342, R344), function power states (R333). -/

namespace Sys2Proof.Machine

/-! ### Entries (R330, R331) -/

/-- Power commands do not wait for each other's drain. -/
def powerOpc (opc : Nat) : Bool := opc == 0x50 || opc == 0x51
/-- A command that the functions of `p` have fetched is still running. -/
def cmdsLeft (n : Node) (p : Nat) : Bool := (fnsOf n p).any (fun f => (getFn n f).queues.any (fun q => q.2.cmds.any (fun c => !powerOpc c.opc)))
/-- Work of the partition that no command of its own functions stands for. -/
def workLeft (n : Node) (p : Nat) : Bool :=
  let x := getP n p
  !x.queries.isEmpty || !x.insts.isEmpty || !x.passes.isEmpty || !x.gather.isEmpty || !x.batches.isEmpty || !x.adds.isEmpty || !x.polCmds.isEmpty || x.load.isSome || x.run.isSome ||
    x.restore.isSome || x.colls.any (fun c => !c.2.upds.isEmpty || c.2.swap.isSome || c.2.own.xfer.isSome || c.2.dur.snap.isSome || c.2.dur.recover.isSome) ||
    x.tbls.any (fun t => !t.2.migs.isEmpty || t.2.own.xfer.isSome || t.2.dur.snap.isSome || t.2.dur.recover.isSome) || (pagesOf n p).any (fun g => g.2.mig.isSome)
/-- Step 2 of Table 14-3 is over. -/
def drained (n : Node) (p : Nat) : Bool := !cmdsLeft n p && !workLeft n p
def present (x : Ptn) : Bool := x.st != .absent
/-- Partitions that a node entry drains. -/
def allDrained (n : Node) : Bool := (List.range 8).all (fun p => !present (getP n p) || (getP n p).pow == .off || ((getP n p).pow != .waking && drained n p))

def powerSetChk (_ : Node) (_ : Nat) (e : Sqe) : Option Nat := if e.arg0 = 0 || e.arg0 = 2 || e.arg0 = 3 || e.arg0 = 4 then none else some 0x18
def inState (st : NPow) (target : Nat) : Bool := match target with
  | 0 => st == .run || st == .idle
  | 2 => st == .rest
  | 3 => st == .sleep
  | _ => st == .off
/-- The node starts an entry: fetching stops and the partitions drain together. -/
def beginEntry (clk : Clock) (t : Tok) (target : Nat) (n : Node) : Node :=
  let rest := n.pwr.st == .rest
  let saved := if rest then n.pwr.saved else n.ptns.toList.map (·.pow)
  let n := if rest then n else { n with ptns := n.ptns.map (fun x => if present x && (x.pow == .on || x.pow == .gated) then { x with pow := .entering } else x) }
  modPwr (fun w => { w with st := .entering, target := target, entryTok := some t, entryAt := clk.node, saved := saved, fromRest := rest }) n
def powerSet : Job := fun clk _ t e n =>
  match n.pwr.st with
  | .entering => post clk t stBusy 0 n
  | .waking => post clk t stBusy 0 n
  | .wakeHold => post clk t stBusy 0 n
  | st =>
    if inState st e.arg0 then post clk t stSuccess 0 n
    else if e.arg0 = 0 then wakeNode clk false (modPwr (fun w => { w with wakeTok := some t }) n)
    else beginEntry clk t e.arg0 n
def execPowerSet (e : Env) (q : QRef) (s : State) : Host.Outcome State Fault Refusal := run e (hostCmd Rows.powerSet anyEntry powerSetChk noPtn powerSet q) s
def partitionPowerChk (_ : Node) (_ : Nat) (e : Sqe) : Option Nat := if 8 ≤ e.target then some 0x04 else if e.arg0 = 0 || e.arg0 = 2 then none else some 0x18
def partitionPower : Job := fun clk _ t e n =>
  let p := e.target
  let x := getP n p
  if x.st = .absent then invalid clk t 0x04 0 n
  else if x.st = .withdrawn || x.st = .resetting || x.st = .loading || n.pwr.st = .entering then post clk t stBusy 0 n
  else if e.arg0 = 0 then match x.pow with
    | .on => post clk t stSuccess 0 n
    | .gated => post clk t stSuccess 0 n
    | .off => wakePtn clk p (modP p (fun x => { x with wakeTok := x.wakeTok ++ [t] }) n)
    | .waking => modP p (fun x => { x with wakeTok := x.wakeTok ++ [t] }) n
    | .entering => modP p (fun x => { x with wakeTok := x.wakeTok ++ [t], enPend := true }) (delayCmd t n)
  else match x.pow with
    | .off => post clk t stSuccess 0 n
    | .entering => post clk t stBusy 0 n
    | .waking => post clk t stBusy 0 n
    | _ => settleIdle (modP p (fun x => { x with pow := .entering, shutTok := some t, shutAt := pctr clk p }) n)
def execPartitionPower (e : Env) (q : QRef) (s : State) : Host.Outcome State Fault Refusal := run e (hostCmd Rows.partitionPower anyEntry partitionPowerChk noPtn partitionPower q) s

/-- `ENTRY_DRAIN_LIMIT`: step 2 has not ended after `DRAIN_MS`. -/
def entryDrainLimit (en : EntryRef) (clk : Clock) (n : Node) : Node :=
  let lim := 300 + 300000 * fld n.pwr.ctl 24 8
  match en with
  | .node => if n.pwr.st == .entering && !allDrained n && decide (n.pwr.entryAt + lim ≤ clk.node) then abandonNode clk n else n
  | .ptn p =>
    let x := getP n p
    if x.pow == .entering && n.pwr.st != .entering && !drained n p && decide (x.shutAt + lim ≤ pctr clk p) then abandonPtn clk p n else n
def execEntryDrainLimit (e : Env) (en : EntryRef) (s : State) : Host.Outcome State Fault Refusal := run e (fun clk _ n => entryDrainLimit en clk n) s

/-- Canopy lines, filters and prefetch copies are lost with the partition's power (Table 14-3, R335). -/
def dropCanopy (p : Nat) (n : Node) : Node := modP p (fun x => { x with prefetch := [], tbls := x.tbls.map (fun t => (t.1, { t.2 with lines := [], filter := [[], [], [], []], accesses := 0 })) }) n
/-- Logical cores of compute die 0 and 1. -/
def onDie (x : Ptn) (d : Nat) : Bool := if d = 0 then !((x.ent.cores.setWidth 32 : W32) == 0) else !((x.ent.cores >>> 32) == 0)
def dieOff (n : Node) (d : Nat) : Bool := n.ptns.toList.all (fun x => !present x || !onDie x d || x.pow == .off)
/-- Rails that supply only partitions that are OFF. -/
def idleRails (n : Node) : List Nat := (if dieOff n 0 then [0] else []) ++ (if dieOff n 1 then [1] else []) ++ (if dieOff n 0 && dieOff n 1 then [2, 4, 5] else [])
/-- Retention of these rails (R339). -/
def retain (clk : Clock) (n : Node) : Node := foldNode (idleRails n) (fun r n => requestMv clk r (railKeep r) n) n
/-- The rail is held at retention. -/
def retained (n : Node) (r : Nat) : Bool := (getRail n r).target == railKeep r && (idleRails n).contains r
/-- Step 5 of Table 14-3. -/
def commitPtn (clk : Clock) (p : Nat) (n : Node) : Node :=
  let x := getP n p
  let n := retain clk (dropCanopy p (modP p (fun x => { x with pow := .off, shutTok := none }) n))
  let n := settleIdle (postO clk x.shutTok stSuccess 0 n)
  if x.enPend then wakePtn clk p n else n
/-- A link goes to electrical idle with its replay buffer empty; it starts afresh when it trains. -/
def idleLink (x : Link) : Link :=
  { x with st := .off, level := 0, txSeq := 0, rxSeq := 0, replay := [], asm_ := [], segs := [], credits := List.replicate 16 64 }
/-- Steps 3 to 8 of Table 14-4. -/
def commitNode (clk : Clock) (n : Node) : Node :=
  let t := n.pwr.target
  let n := postO clk n.pwr.entryTok stSuccess 0 (flushFlash clk n)
  let n := foldNode (List.range 8) (fun p n =>
    let x := getP n p
    if x.pow == .entering then
      let n := postO clk x.shutTok stSuccess 0 (dropCanopy p (modP p (fun x => { x with pow := .off, shutTok := none }) n))
      if x.shutTok.isSome && !x.enPend then modPwr (fun w => { w with saved := w.saved.set p .off }) n else n
    else n) n
  let n := if n.pwr.fromRest then n else retain clk n
  let n := modPwr (fun w => { w with
    st := if t = 2 then .rest else if t = 3 then .sleep else .off, entryTok := none, target := 0, fromRest := false, padHeld := true, commitAt := clk.node }) n
  if t = 2 then n
  else
    let n := { n with pins := { n.pins with vrEn := 0, pwrOffOk := if t = 4 then false else n.pins.pwrOffOk } }
    modLnk (fun b => { b with links := b.links.map (fun x => if x.enable then idleLink x else x) }) (modPwr (fun w => { w with rootLock := false }) n)
/-- `ENTRY_COMMIT`: the steps before the commit point are over. -/
def entryCommit (en : EntryRef) (clk : Clock) (n : Node) : Node := match en with
  | .node =>
    let quiet := n.pwr.target = 2 || n.lnk.links.toList.all (fun x => x.replay.isEmpty)
    if n.pwr.st == .entering && allDrained n && quiet then commitNode clk n else n
  | .ptn p =>
    let x := getP n p
    if x.pow == .entering && n.pwr.st != .entering && drained n p && decide (x.shutAt + 61800 ≤ pctr clk p) then commitPtn clk p n else n
def execEntryCommit (e : Env) (en : EntryRef) (s : State) : Host.Outcome State Fault Refusal := run e (fun clk _ n => entryCommit en clk n) s

/-! ### Gating (R327) -/

def partitionGate (p : Nat) (n : Node) : Node :=
  let x := getP n p
  if present x && x.pow == .on && x.st == .inService && !cmdsLeft n p && !workLeft n p && x.ctxs.isEmpty && (n.pwr.st == .run || n.pwr.st == .idle) &&
    decide (300 * fld n.pwr.ctl 0 16 ≤ x.idleFor) then settleIdle (modP p (fun x => { x with pow := .gated }) n) else n
def execPartitionGate (e : Env) (p : Nat) (s : State) : Host.Outcome State Fault Refusal := run e (pureBody (partitionGate p)) s

/-! ### Wakes (R334 to R337) -/

/-- A write of 1 to `PWR_CTL.WAKE`. -/
def wake (fn : Nat) (clk : Clock) (n : Node) : Node := if fn ≠ 0 || !reach n then n else wakeNode clk false n
def execWake (e : Env) (fn : Nat) (s : State) : Host.Outcome State Fault Refusal := runAon e (fun clk _ n => wake fn clk n) s
/-- An MCTP message on I3C bus 0. -/
def bmcWake (clk : Clock) (n : Node) : Node := if !n.pins.perst || n.boot.stopped then n else wakeNode clk false n
def execBmcWakeMessage (e : Env) (s : State) : Host.Outcome State Fault Refusal := runAon e (fun clk _ n => bmcWake clk n) s
/-- Rails of a wake are confirmed; from SLEEP every power-good is there as well. -/
def railsBack (n : Node) : Bool := [0, 1, 2, 3, 4, 5].all (railUp n) && (n.pwr.target != 3 || n.pins.vrPg == 31)
/-- `WAKE_HOLD`: the save list is restored; the pads stay latched. Shapers and policers have refilled across SLEEP. -/
def wakeHold (clk : Clock) (n : Node) : Node :=
  if n.pwr.st == .waking && n.pwr.padHeld && !n.boot.stopped && railsBack n then
    let n := modPwr (fun w => { w with st := .wakeHold, holdAt := clk.node, rootLock := true }) n
    if n.pwr.target = 3 then missedRefills clk (max n.lnk.refillAt n.pwr.commitAt) n else n
  else n
def execWakeHold (e : Env) (s : State) : Host.Outcome State Fault Refusal := runAon e (fun clk _ n => wakeHold clk n) s
/-- A wake fails: once it is tried again after 10 ms; then the node stays where it was (Table 14-7). -/
def failWake (clk : Clock) (n : Node) : Node :=
  let off : Node := { n with pins := { n.pins with vrEn := if n.pwr.target = 3 then 0 else n.pins.vrEn, vrPg := if n.pwr.target = 3 then 0 else n.pins.vrPg } }
  if n.pwr.wakeTry = 0 then
    let n := modPwr (fun w => { w with wakeTry := 1 }) off
    if n.pwr.target = 3 then { n with pins := { n.pins with vrRetry := true, vrAt := clk.node + 3000000 } } else powerUp clk clk.node n
  else modPwr (fun w => { w with st := if w.target = 3 then .sleep else .rest, target := 0, wakeFail := true }) off
def wakeFailure (clk : Clock) (n : Node) : Node := if n.pwr.st == .waking && n.pwr.padHeld && !n.boot.stopped then failWake clk n else n
def execWakeFailure (e : Env) (s : State) : Host.Outcome State Fault Refusal := runAon e (fun clk _ n => wakeFailure clk n) s
/-- The pads are driven again; the node is WAKING until it fetches. -/
def releasePads (clk : Clock) (n : Node) : Node :=
  if n.pwr.padHeld && n.pwr.st == .wakeHold then modPwr (fun w => { w with padHeld := false, st := .waking, holdAt := clk.node }) n else n
def padRelease (fn : Nat) (clk : Clock) (n : Node) : Node := if fn ≠ 0 || !reach n then n else releasePads clk n
def execPwrPadRelease (e : Env) (fn : Nat) (s : State) : Host.Outcome State Fault Refusal := runAon e (fun clk _ n => padRelease fn clk n) s
def autoRelease (clk : Clock) (n : Node) : Node := if bit n.pwr.ctl 16 && decide (n.pwr.holdAt + 3000000 ≤ clk.node) then releasePads clk n else n
def execAutoRelease (e : Env) (s : State) : Host.Outcome State Fault Refusal := run e (fun clk _ n => autoRelease clk n) s
/-- Messages that the I/O die held are delivered. -/
def freeHeld (p : Nat) (n : Node) : Node :=
  let ms := (getP n p).heldMsgs
  modP p (fun x => { x with heldMsgs := [] }) (modLnk (fun b => { b with inbox := b.inbox ++ ms }) n)
/-- A partition fetches again. A reset that met it while it was off runs first (Table 14-5). -/
def ptnBack (clk : Clock) (p : Nat) (n : Node) : Node :=
  let n := freeHeld p (modP p (fun x => { x with pow := .on, enPend := false, idleFor := 0 }) n)
  match (getP n p).pendReset with
  | some r => beginReset clk p r n
  | none => n
/-- A partition returns to its state before the entry; one whose enable was recorded, or for which a reset waits, comes back On. -/
def wakeBack (clk : Clock) (saved : List PPow) (p : Nat) (n : Node) : Node :=
  let x := getP n p
  if !present x then n
  else
    let n := match saved.getD p .on with
      | .off => if x.enPend || x.pendReset.isSome then ptnBack clk p n else n
      | .gated => modP p (fun x => { x with pow := .gated }) (ptnBack clk p n)
      | _ => ptnBack clk p n
    if (getP n p).pow = .off then n
    else foldNode x.wakeTok (fun t n => post clk t stSuccess 0 n) (modP p (fun x => { x with wakeTok := [] }) n)
/-- `WAKE_COMPLETE`: partitions return to their states before the entry, links train, `POWER_SET` Run completes. A partition whose enable was recorded comes back On. -/
def wakeComplete (clk : Clock) (n : Node) : Node :=
  if n.pwr.st != .waking || n.pwr.padHeld then n
  else
    let slept := n.pwr.target == 3
    let saved := n.pwr.saved
    let t := n.pwr.wakeTok
    let n := modPwr (fun w => { w with st := .run, target := 0, saved := [], wakeTok := none, wakeDb := false }) n
    let n := foldNode (List.range 8) (wakeBack clk saved) n
    let n := if slept then foldNode (List.range 36) (fun l n => if (getL n l).enable then startTrain clk l n else n) n else n
    settleIdle (postO clk t stSuccess 0 n)
def execWakeComplete (e : Env) (s : State) : Host.Outcome State Fault Refusal := run e (fun clk _ n => wakeComplete clk n) s
/-- `PARTITION_WAKE_DONE`: switches closed, save list restored, DRAM retrained (R330). Within a node entry the partition goes on into it. -/
def partitionWakeDone (p : Nat) (clk : Clock) (n : Node) : Node :=
  let x := getP n p
  if x.pow != .waking || decide (pctr clk p < x.shutAt + 195000) || !(railsOf x).all (railUp n) then n
  else if n.pwr.st = .entering then modPwr (fun w => { w with saved := w.saved.set p .on }) (modP p (fun x => { x with pow := .entering }) n)
  else
    let n := settleIdle (ptnBack clk p n)
    foldNode x.wakeTok (fun t n => post clk t stSuccess 0 n) (modP p (fun x => { x with wakeTok := [] }) n)
def execPartitionWakeDone (e : Env) (p : Nat) (s : State) : Host.Outcome State Fault Refusal := run e (fun clk _ n => partitionWakeDone p clk n) s

/-! ### Function power states (R333) -/

def d3hotEntry (f : Nat) (n : Node) : Node :=
  if !reach n || !(getFn n f).enabled || (getFn n f).dst == .d3hot then n else settleD f (modFn f (fun x => { x with dst := .draining false }) n)
def execD3hotEntry (e : Env) (fn : Nat) (s : State) : Host.Outcome State Fault Refusal := runAon e (pureBody (d3hotEntry fn)) s
def d0Entry (f : Nat) (n : Node) : Node :=
  if !reach n || !(getFn n f).enabled then n
  else match (getFn n f).dst with
    | .d0 => n
    | .draining _ => modFn f (fun x => { x with dst := .draining true }) n
    | .d3hot => sendPend f (modFn f (fun x => { x with dst := .d0 }) n)
def execD0Entry (e : Env) (fn : Nat) (s : State) : Host.Outcome State Fault Refusal := runAon e (pureBody (d0Entry fn)) s

/-! ### AVSBus (R339, R340) -/

/-- Caps change by `g`; attention when a cap begins after at least 1 s without one. -/
def withCaps (clk : Clock) (g : Power → Power) (n : Node) : Node :=
  let old := capOf n.pwr
  let n := modPwr g n
  let new := capOf n.pwr
  if old = 16 && new < 16 then
    let first := match n.pwr.capEnd with
      | some t => decide (t + 300000000 ≤ clk.node)
      | none => true
    if first then raiseAll attnPower n else n
  else if old < 16 && new == 16 then modPwr (fun w => { w with capEnd := some clk.node, capOne := none }) n
  else n
/-- The cap of 8 in 16 holds while some rail lies below what its temperature needs. -/
def avsCap (clk : Clock) (n : Node) : Node :=
  withCaps clk (fun w => { w with capAvs := if w.rails.toList.any (·.lowCap) then 8 else 16 }) n
/-- An AVSBus fault. An entry before its commit point is abandoned, but for a shut-down whose enable is recorded (Table 14-5: the first row that matches, log 163); a wake fails. -/
def avsFault (clk : Clock) (r why : Nat) (n : Node) : Node :=
  let run : Bool := n.pwr.st == .run || n.pwr.st == .idle
  let bad (x : Rail) : Rail :=
    let mv := min x.mv x.target
    { x with fault := true, why := why, mv := mv, busy := none, acked := false, tries := 0, want := 0, lowCap := x.lowCap || (run && decide (mv < x.need)) }
  let n := raiseAll attnPower (noteSet (0x80040 + 8 * r) 32 (modPwr (fun w => { w with avsFault := w.avsFault + 1 }) (modRail r bad n)))
  if n.pwr.st = .entering then abandonNode clk n
  else if n.pwr.st = .waking && n.pwr.padHeld then failWake clk n
  else avsCap clk (foldNode (List.range 8) (fun p n => if (getP n p).enPend then n else abandonPtn clk p n) n)
/-- `AVS_ADJUST`: every 100 ms, one step of 5 mV towards the setpoint of the temperature; a rail in retention stays there. -/
def avsAdjust (r temp : Nat) (clk : Clock) (n : Node) : Node :=
  let x := getRail n r
  if 6 ≤ r || x.target < railLow r || retained n r || !(n.pwr.st == .run || n.pwr.st == .idle) || decide (clk.node < x.adjAt + 30000000) then n
  else
    let want := runMv r temp
    let next := if x.target + 5 ≤ want then x.target + 5 else if want + 5 ≤ x.target then x.target - 5 else x.target
    requestMv clk r next (modRail r (fun x => { x with need := want, adjAt := clk.node }) n)
def execAvsAdjust (e : Env) (rail temp : Nat) (s : State) : Host.Outcome State Fault Refusal := run e (fun clk _ n => avsAdjust rail temp clk n) s
/-- `AVS_RESPONSE`: good frames then voltage done acknowledge a request; bad frames are retried up to `RETRIES` times. -/
def avsResponse (r : Nat) (resp : AvsResp) (clk : Clock) (n : Node) : Node :=
  let x := getRail n r
  if 6 ≤ r || x.busy.isNone || n.boot.stopped then n
  else
    let again (why : Nat) : Node :=
      if x.tries < fld n.pwr.avsCfg 16 4 then emit (.avs r x.target) (modRail r (fun x => { x with tries := x.tries + 1, busy := some clk.node, acked := false }) n)
      else avsFault clk r why n
    match resp with
    | .noAck => again 1
    | .badCrc => again 2
    | .ack => modRail r (fun x => { x with acked := true, busy := some clk.node }) n
    | .done mv =>
      if !x.acked then n
      else
        let n := avsCap clk (modRail r (fun x => { x with mv := mv, busy := none, acked := false, tries := 0, want := 0, lowCap := false }) n)
        if x.want = 0 then n else requestMv clk r x.want n
def execAvsResponse (e : Env) (rail : Nat) (r : AvsResp) (s : State) : Host.Outcome State Fault Refusal := runAon e (fun clk _ n => avsResponse rail r clk n) s
def avsSettleTimeout (r : Nat) (clk : Clock) (n : Node) : Node :=
  let x := getRail n r
  match x.busy with
  | some t => if 6 ≤ r || !x.acked || n.boot.stopped || decide (clk.node < t + 300 * fld n.pwr.avsCfg 0 16) then n else avsFault clk r 3 n
  | none => n
def execAvsSettleTimeout (e : Env) (rail : Nat) (s : State) : Host.Outcome State Fault Refusal := runAon e (fun clk _ n => avsSettleTimeout rail clk n) s

/-! ### Limits (R341, R342, R344) -/

/-- The cap that brings the estimate to 760 W (log 50). -/
def capTo760 (w cap : Nat) : Nat := min 16 (max 1 (Config.capFor w cap))
def windowMs (l : List (Nat × Nat)) (now cycles : Nat) : List (Nat × Nat) := l.filter (fun x => decide (now - x.1 < cycles))
def sumW (l : List (Nat × Nat)) : Nat := (l.map (·.2)).foldl (· + ·) 0
/-- One step of 1 per ms. -/
def stepCap (cap : Nat) (down up : Bool) : Nat := if down then max 1 (cap - 1) else if up then min 16 (cap + 1) else cap
/-- Excursion samples in the window of 200 ms. -/
def excCount (w : Power) (now : Nat) : Nat := ((windowMs w.samples now 60000000).filter (fun x => decide (760 < x.2))).length
def powerSample (watts : Nat) (clk : Clock) (n : Node) : Node :=
  let now := clk.node
  let g (w : Power) : Power :=
    let tau := 300000 * fld w.limit 26 14
    let w := { w with samples := (now, watts) :: windowMs w.samples now (max tau 60000000) }
    let l := windowMs w.samples now tau
    let lim := fld w.limit 0 10
    let due := decide (w.adjAt + 300000 ≤ now)
    let past := decide (lim * l.length < sumW l)
    let under := decide (100 * sumW l < 97 * lim * l.length)
    let dest := capTo760 watts (capOf w)
    let k := excCount w now
    let w := { w with
      capSust := if due then stepCap w.capSust past under else w.capSust
      adjAt := if due then now else w.adjAt
      capPeak := if 980 < watts then dest else if watts ≤ 760 then 16 else w.capPeak
      capExc := if 2000 ≤ k && w.capExc == 16 then dest else if k ≤ 1000 then 16 else w.capExc }
    let one := capOf w == 1 && decide (lim < watts)
    let stuck := one && w.capOne.any (fun t => decide (t + 3000000 ≤ now))
    { w with
      uncapp := w.uncapp || stuck
      w1cSets := if stuck then w.w1cSets ++ [(0x80020, 12)] else w.w1cSets
      capOne := if one then some (w.capOne.getD now) else none }
  withCaps clk g n
def execPowerSample (e : Env) (watts : Nat) (s : State) : Host.Outcome State Fault Refusal := run e (fun clk _ n => powerSample watts clk n) s
def execThermalTrip (e : Env) (temp : Nat) (s : State) : Host.Outcome State Fault Refusal := runAon e (pureBody (trip temp)) s
def junctionSample (c0 c1 io : Nat) (clk : Clock) (n : Node) : Node :=
  let hot := max c0 (max c1 io)
  let g (w : Power) : Power :=
    let due := decide (w.thermAt + 300000 ≤ clk.node)
    { w with cmp0 := sat 8 c0, cmp1 := sat 8 c1, iod := sat 8 io
             capTherm := if due then stepCap w.capTherm (decide (100 ≤ hot)) (decide (hot < 97)) else w.capTherm
             thermAt := if due then clk.node else w.thermAt }
  trip hot (withCaps clk g n)
def execJunctionSample (e : Env) (cmp0 cmp1 iod : Nat) (s : State) : Host.Outcome State Fault Refusal := run e (fun clk _ n => junctionSample cmp0 cmp1 iod clk n) s

end Sys2Proof.Machine
end

