-- ==== Sys2Proof/Machine/Boot.lean ====
section
/-! DEFINITION. Node reset, power-up and boot (chapters 02 and 15): pins and rails (R352 to R358), the boot sequence (R28 to R33), image checks (R23 to R27), image commands
(R34 to R38), attestation (R40, R41). -/

namespace Sys2Proof.Machine

/-! ### Node reset -/

/-- The sector of a node object's block is mapped on some cartridge: what the object keeps there survives. -/
def onFlash (n : Node) (o b : Nat) : Bool := n.flash.copies.any (fun c => c.obj == o && c.blk == b && c.mapped)
/-- A token after a node reset: what was in progress before its durable write is undone. -/
def keepOwn (o : Own) : Own :=
  let wrote : Bool := match o.xfer with
    | some x => x.wrote
    | none => false
  { o with st := if wrote then o.st else if o.st == .releasing then .owned else if o.st == .claiming then .released else o.st, rel := none, xfer := none }
/-- A run of blocks survives when all of it is on flash. -/
def allOnFlash (n : Node) (o b k : Nat) : Bool := (List.range k).all (fun i => onFlash n o (b + i))
/-- A collection before its mount (R61): its descriptor, its root record, what its log holds on flash, and the originals there whose update is not lost. -/
def keepColl (n : Node) (p s : Nat) (c : Coll) : Coll :=
  let (log, lost) := c.log.partition (fun r => onFlash n (nodeObj p .coll s) r.seq)
  let top := (log.map (·.seq)).foldl max ((c.root.map (·.hdr.baseSeq)).getD 0)
  { desc := c.desc, st := .mounting, root := c.root, seq := top, applied := top, log := log, logFrom := c.logFrom, own := keepOwn c.own
    dur := { follow := c.dur.follow }
    orig := c.orig.filter (fun o => allOnFlash n (origObj p s) o.2.1 (origBlocks c.desc) && !lost.any (fun r => r.id.toNat == o.1)) }
/-- Blocks that a record of a table's log takes. -/
def trainBlocks (r : TrainRec) : Nat := max 1 (cdiv (recBytes {} (.train r)).length 4096)
/-- A table restored from its log; hot rows are home, and the Canopy is empty (Table 8-5). -/
def keepTbl (n : Node) (p s : Nat) (t : Tbl) : Tbl :=
  let log := t.log.filter (fun r => allOnFlash n (nodeObj p .table s) r.1 (trainBlocks r.2))
  let own := keepOwn t.own
  let base : Tbl :=
    { train := t.train, width := t.width, rows := t.rows, hotRows := t.hotRows, canopyK := t.canopyK, tblId := t.tblId, policy := t.policy, name := t.name
      st := if own.st == .frozen then .frozen else .ready, log := log, logN := (log.map (fun r => r.1 + trainBlocks r.2)).foldl max 0, own := own, dur := { follow := t.dur.follow } }
  log.foldl (fun t r => applyOp t r.2.row (if r.2.write then .write r.2.delta else .add r.2.delta)) base
/-- What a partition keeps: the collections and tables whose data is on flash. -/
def keepPtn (n : Node) (p : Nat) (x : Ptn) : Ptn :=
  { colls := x.colls.map (fun c => (c.1, keepColl n p c.1 c.2)), tbls := x.tbls.map (fun t => (t.1, keepTbl n p t.1 t.2)) }
/-- A seated cartridge is identified again at boot step 0x09; counters start again. Where the node counter starts again too, sets keep the order of their times. -/
def keepCart (fresh : Bool) (c : Cart) : Cart :=
  let rank (b : BSet) : Nat := (c.sets.filter (fun s => decide (s.2.at_ < b.at_))).length
  if c.present then { c with
    st := .identifying, why := 0, power := true, safe := false, lifeAt := 0, sanHold := false, ident := none, relTok := none, relEvac := false
    counts := [0, 0, 0, 0, 0, 0, 0], throttle := 0, sets := if fresh then c.sets.map (fun s => (s.1, { s.2 with at_ := rank s.2 })) else c.sets }
  else {}
/-- A flash object that only a staged or a retired generation had: it is dropped (R62). -/
def looseGen (n : Node) (o : Nat) : Bool :=
  decide (0x90000000 ≤ o) && !n.ptns.toList.any (fun x => x.colls.any (fun c => c.2.root.any (fun g => g.store == o)))
/-- Flash after a node reset (Table 10-8): programmed sectors and the directory stay; the write stage, programs in flight and waiting commands are lost; a sanitisation resumes at mount (R227). -/
def keepFlash (fresh : Bool) (n : Node) : FlashSt :=
  let f := n.flash
  let whole (o : Nat) (k : Kept) : Bool := allOnFlash n o k.blk (keptBlocks k)
  { carts := f.carts.map (keepCart fresh), objs := f.objs.filter (fun o => !looseGen n o.1), copies := f.copies.map (fun c => { c with mapped := c.mapped && !looseGen n c.obj })
    nextP := f.nextP, nextV := f.nextV, sanits := f.sanits.map (fun x => { x with tok := none })
    mirrors := f.mirrors.filter (whole keptObj), chunks := f.chunks.filter (whole chunkObj) }
/-- A key slot keeps its key; its failures and its lockout end with the reset. -/
def keepKey (k : KeySlot) : KeySlot := { k with fails := 0, locked := none }
/-- A node reset. `fresh`: by `PERST_N` or a loss of power, where the node counter starts again. Memory contents and everything volatile are lost; the boot flash, the cartridges and the
always-on domain's trip and lock records stay. -/
def nodeReset (fresh : Bool) (n : Node) : Node :=
  let slot (s : Slot) : Slot := { s with verified := false, staged := false }
  { pins := n.pins
    boot := { failA := n.boot.failA, failB := n.boot.failB }
    bflash := { n.bflash with slotA := slot n.bflash.slotA, slotB := slot n.bflash.slotB, keys := n.bflash.keys.map keepKey }
    ptns := n.ptns.mapIdx (fun p x => keepPtn n p x)
    flash := keepFlash fresh n
    pwr := { tripped := n.pwr.tripped, tripLast := n.pwr.tripLast, lockLost := n.pwr.lockLost, refOk := n.pwr.refOk, rootLock := n.pwr.rootLock }
    serial := n.serial, free := n.free, out := n.out }
/-- Counters: zero while `PERST_N` is asserted, and a partition's starts when the image creates it (R18). -/
def bootFix (c : Clock) (n : Node) : Clock :=
  if !n.pins.perst then {}
  else { c with ptn := c.ptn.mapIdx (fun p o => if (getP n p).st == .absent then none else some (o.getD c.node)) }
/-- A meaning that may create or end partitions. -/
def runBoot (e : Env) (body : Clock → Node → Node) (s : State) : Host.Outcome State Fault Refusal := .next (runClk bootFix e (fun clk _ n => body clk n) s)
def runBootUp (e : Env) (body : Clock → Node → Node) (s : State) : Host.Outcome State Fault Refusal := runBoot e (fun clk n => if alive n then body clk n else n) s

/-! ### The boot ROM (R28, R30, R33) -/

/-- Recovery mode: the physical function with its admin pair only. -/
def enterRecovery (n : Node) : Node := modFn 0 (fun x => { x with enabled := true }) (modBoot (fun b => { b with mode := 1, isTrial := false, imgRead := false }) n)
def recordFail (slot reason : Nat) (n : Node) : Node := modBoot (fun b => if slot = 0 then { b with failA := reason } else { b with failB := reason }) n
/-- The boot directory is read: a trial flag is cleared before its slot is tried. A boot flash that does not meet R28 leads to recovery mode, its reason recorded for both slots. -/
def chooseSlot (clk : Clock) (n : Node) : Node :=
  let n := modBoot (fun b => { b with step := 1, bootAt := clk.node }) n
  if n.pins.straps.getLsbD 2 then enterRecovery n
  else if !n.bflash.suitable then enterRecovery (recordFail 0 0x0B (recordFail 1 0x0B n))
  else match n.bflash.trial with
    | some k => modBoot (fun b => { b with trySlot := k, isTrial := true }) { n with bflash := { n.bflash with trial := none } }
    | none => modBoot (fun b => { b with trySlot := n.bflash.active }) n

/-! ### Reset and power pins (R352 to R358) -/

/-- `PERST_N` is asserted. -/
def perstAssert (n : Node) : Node :=
  let n := nodeReset true n
  { n with pins := { n.pins with perst := false, vrEn := 0, vrPg := 0, vrAt := 0, vrRetry := false } }
def execPerstNAssert (e : Env) (s : State) : Host.Outcome State Fault Refusal := runBoot e (fun _ n => perstAssert n) s
/-- `PERST_N` rises: the straps are sampled, the boot ROM starts and the first rail is enabled. -/
def perstDeassert (straps : BitVec 4) (clk : Clock) (n : Node) : Node :=
  if n.pins.perst then n
  else
    let n := { n with pins := { n.pins with perst := true, straps := straps, thermtrip := true, pwrOffOk := true } }
    let n := modPwr (fun w => { w with refOk := true, rootLock := true }) n
    if straps.getLsbD 3 then n
    else chooseSlot clk { n with pins := { n.pins with vrEn := 8, vrAt := clk.node } }
def execPerstNDeassert (e : Env) (straps : BitVec 4) (s : State) : Host.Outcome State Fault Refusal := runBoot e (perstDeassert straps) s

/-- Enables that follow a power-good (Table 15-5). -/
def nextEn (rail : Nat) : BitVec 5 := match rail with
  | 3 => 16
  | 4 => 4
  | 2 => 3
  | _ => 0
def railBit (rail : Nat) : BitVec 5 := BitVec.ofNat 5 (2 ^ rail)
/-- A retry enables the first rail when its wait is over. -/
def reEnable (clk : Clock) (n : Node) : Node :=
  if n.pins.vrEn == 0 && n.pins.vrRetry && decide (n.pins.vrAt ≤ clk.node) then { n with pins := { n.pins with vrEn := 8 } } else n
/-- `VR_PG_RISE`: the next enable follows; after the last the AVSBus setpoints are requested. -/
def vrPgRise (rail : Nat) (clk : Clock) (n : Node) : Node :=
  if 5 ≤ rail || !n.pins.perst || n.boot.stopped then n
  else
    let n := reEnable clk n
    let k := n.pins
    if !k.vrEn.getLsbD rail || k.vrPg.getLsbD rail || decide (clk.node < k.vrAt) then n
    else
      let n := { n with pins := { k with vrPg := k.vrPg ||| railBit rail, vrEn := k.vrEn ||| nextEn rail, vrAt := clk.node } }
      if n.pins.vrPg != 31 then n
      else
        let n := foldNode (List.range 6) (askRun clk) n
        if n.boot.hostUp then modBoot (fun b => { b with step := max b.step 2 }) n else n
def execVrPgRise (e : Env) (rail : Nat) (s : State) : Host.Outcome State Fault Refusal := runAon e (fun clk _ n => vrPgRise rail clk n) s
/-- `VR_PG_TIMEOUT`: 5 ms without power-good. One retry 10 ms later; then the enables stay off, and only the boot ROM and the host link go on (R357). -/
def vrPgTimeout (rail : Nat) (clk : Clock) (n : Node) : Node :=
  if 5 ≤ rail || !n.pins.perst || n.boot.stopped then n
  else
    let n := reEnable clk n
    let k := n.pins
    if !k.vrEn.getLsbD rail || k.vrPg.getLsbD rail || decide (clk.node < k.vrAt + 1500000) then n
    else if n.pwr.st = .waking then failWake clk n
    else
      { n with pins := { k with vrEn := 0, vrPg := 0, vrRetry := !k.vrRetry, vrAt := clk.node + 3000000 } }
def execVrPgTimeout (e : Env) (rail : Nat) (s : State) : Host.Outcome State Fault Refusal := runAon e (fun clk _ n => vrPgTimeout rail clk n) s
/-- `VR_PG_FALL`: every domain but the always-on one stops, the enables fall, and the node waits for `PERST_N`. -/
def vrPgFall (rail : Nat) (n : Node) : Node :=
  if 5 ≤ rail || !n.pins.perst || n.boot.stopped || !n.pins.vrEn.getLsbD rail || !n.pins.vrPg.getLsbD rail then n
  else modBoot (fun b => { b with stopped := true }) { n with pins := { n.pins with vrEn := 0, vrPg := 0 } }
def execVrPgFall (e : Env) (rail : Nat) (s : State) : Host.Outcome State Fault Refusal := runAon e (pureBody (vrPgFall rail)) s
/-- `POWER_LOSS`: the package rails are gone, the always-on domain's records with them. -/
def powerLoss (n : Node) : Node :=
  let n := perstAssert n
  modPwr (fun w => { w with tripped := false, tripLast := 0, lockLost := false, refOk := false, rootLock := false })
    (modBoot (fun b => { b with failA := 0, failB := 0 }) { n with pins := {} })
def execPowerLoss (e : Env) (s : State) : Host.Outcome State Fault Refusal := runBoot e (fun _ n => powerLoss n) s
/-- `LOCK_LOST`: every other domain stops until the root PLL locks again. -/
def lockLost (n : Node) : Node :=
  if !n.pins.perst || n.boot.stopped || !n.pwr.rootLock then n
  else modBoot (fun b => { b with stopped := true }) (modPwr (fun w => { w with lockLost := true, rootLock := false }) n)
def execLockLost (e : Env) (s : State) : Host.Outcome State Fault Refusal := runAon e (pureBody lockLost) s
/-- `ROOT_PLL_RELOCK`: the node boots from step 0x01 as a node reset, the rails as they are. -/
def rootRelock (clk : Clock) (n : Node) : Node :=
  if !n.pins.perst || !n.boot.stopped || n.pwr.rootLock || !n.pins.thermtrip || n.pins.vrEn == 0 then n
  else chooseSlot clk (modPwr (fun w => { w with rootLock := true }) (nodeReset false n))
def execRootPllRelock (e : Env) (s : State) : Host.Outcome State Fault Refusal := runBoot e rootRelock s

/-! ### Image checks (Table 2-8) -/

/-- The map's valid entries overlap nowhere. -/
def disjointMap : List PtnEntry → Bool
  | [] => true
  | x :: r => r.all (fun y => (x.cores &&& y.cores) == 0 && (x.stks &&& y.stks) == 0 && ((x.t2 &&& y.t2).setWidth 12 : BitVec 12) == 0) && disjointMap r
/-- R25, R282, R283. -/
def nodeOk (s : NodeSection) : Bool :=
  let v := s.map.filter (·.valid)
  let entry (x : PtnEntry) : Bool :=
    decide (4 ≤ ones 64 x.cores) && ones 64 x.cores % 4 == 0 && x.stks != 0 && decide (65536 ≤ x.threads) && x.threads % 65536 == 0
  let pf : Bool := match s.map[s.fnMap.getD 0 0xFF]? with
    | some x => x.valid
    | none => false
  s.map.length == 8 && s.fnMap.length == 64 && !v.isEmpty && v.all entry && disjointMap v && decide (sumNat (v.map (·.threads)) ≤ 4194304) && pf
/-- Stages from which every path ends, within `k` edges: a graph without a cycle has all of them. -/
def ends (g : Graph) : Nat → List Nat → List Nat
  | 0, l => l
  | k + 1, l => ends g k ((List.range g.stages.length).filter (fun j => ((g.stages[j]?).map (·.succ)).any (fun s => s.all (l.contains ·))))
def acyclic (g : Graph) : Bool := (ends g g.stages.length []).length == g.stages.length
/-- Stage kind `k` stands upstream of stage `i`. -/
def hasUp (g : Graph) (i : Nat) (k : StageKind) : Bool := (List.range g.stages.length).any (fun j =>
  (g.stages[j]?).any (fun s => s.kind == k) && reachesIt g g.stages.length [j] i)
where
  /-- `i` is reached from the stages of `l`. -/
  reachesIt (g : Graph) : Nat → List Nat → Nat → Bool
    | 0, _, _ => false
    | k + 1, l, i =>
      let next := nubNat ((l.map (fun j => ((g.stages[j]?).map (·.succ)).getD [])).flatten)
      next.contains i || reachesIt g k next i
def inR (v lo hi : Nat) : Bool := decide (lo ≤ v ∧ v ≤ hi)
/-- A finite BF16 ρ from 0.25 to 1 (R104). -/
def rhoOk (r : W16) : Bool := inR r.toNat 0x3E80 0x3F80
/-- Weights of a model in N4 codes. -/
def weights (d : ModelDesc) : Nat := sumNat ((layerShapes d).map (fun s => s.1 * s.2)) + d.vocab * d.dModel + (if d.flags.testBit 2 then 0 else d.maxSeq * d.dModel)
/-- R144. -/
def modelOk (d : ModelDesc) : Bool :=
  inR d.model 0 15 && inR d.kind 1 2 && inR d.blocks 1 128 && inR d.dModel 64 16384 && d.dModel % 64 == 0 && inR d.ffn 64 16384 && d.ffn % 16 == 0 && inR d.heads 1 128 &&
    [32, 64, 128].contains d.headDim && d.heads * d.headDim == d.dModel && inR d.vocab 1 1048576 && inR d.maxSeq 1 512 &&
    (if d.kind = 1 then d.outDim == 0 || (inR d.outDim 16 16384 && d.outDim % 16 == 0) else d.outDim == 1) && inR d.pool 0 1 && inR d.flags 0 7 && inR d.window 2 8 && d.rsv == 0 &&
    finite32 d.lnEps && !neg32 d.lnEps && !zero32 d.lnEps && d.rhos.all rhoOk && decide (weights d ≤ 17179869184)
/-- Tables 4-4, 7-8 and 8-3. -/
def stageOk (cores : Nat) (ms : List ModelDesc) (s : Stage) : Bool :=
  let u (off len : Nat) : Nat := leAt s.par off len
  let model (kind : Nat) : Option ModelDesc := ms.find? (fun d => d.model == u 0 1 && d.kind == kind)
  let batch : Bool := inR (u 2 2) 16 4096 && inR (u 4 2) 0 1000 && inR (u 6 1) 4 cores && u 6 1 % 4 == 0
  match s.kind with
  | .route => inR (u 0 2) 1 1024 && inR (u 2 2) 1 2048 && inR (u 4 1) 1 8 && inR (u 6 2) 1 4096 && inR (u 8 2) 0 1024
  | .rinse => inR (u 0 2) 0 1000 && inR (u 2 1) 1 16 && inR (u 3 1) (u 2 1) 128 && inR (u 4 1) 16 128 && inR (u 5 1) 0 1 && inR (u 6 2) 8 4096
  | .press => inR (u 0 4) 64 65536
  | .select => inR (u 0 4) 1 1048576
  | .encode => (model 1).isSome && batch
  | .score => (match model 2 with
    | some d => inR (u 0x0C 2) 16 d.maxSeq
    | none => false) && batch && inR (u 8 2) 1 256 && inR (u 0x0A 1) 0 1 && inR (u 0x10 1) 10 30
  | .pool => inR (u 0 1) 0 63 && inR (u 1 1) 0 63 && finite32 (BitVec.ofNat 32 (u 4 4)) && inR (u 8 2) 1 4096
  | .other _ => false
  | _ => true
/-- R26. A graph of an `AUDIT` holds no ROUTE and no RINSE stage. -/
def graphOk (cores : Nat) (ms : List ModelDesc) (g : Graph) : Bool :=
  let auditG := !hasStage g .route && !hasStage g .rinse
  let up (i : Nat) (s : Stage) : Bool := match s.kind with
    | .merge => hasUp g i .select
    | .rinse => hasUp g i .route
    | .press => auditG || hasUp g i .route
    | _ => true
  decide (g.stages.length ≤ 32) && g.stages.all (fun s => decide (s.succ.length ≤ 4) && s.succ.all (fun j => decide (j < g.stages.length))) && acyclic g &&
    g.stages.all (stageOk cores ms) && (g.stages.zipIdx).all (fun x => up x.2 x.1)
/-- R100 and the inner dimension of R96. -/
def layoutOk (l : MatLayout) : Bool :=
  decide (l.inner ≤ 65536) && decide (l.orient ≤ 2) && (l.orient == 0 || !(l.bits == 1 || l.bits == 2 || (l.bits == 4 && l.rows % 2 == 1)))
def partOk (m : List PtnEntry) (s : PtnSection) : Bool :=
  let cores := ((m[s.ptn]?).map (fun x => ones 64 x.cores)).getD 0
  decide (s.ptn < 8) && s.graphs.all (fun g => decide (g.1 < 64) && graphOk cores s.models g.2) && s.models.all modelOk && s.layouts.all layoutOk &&
    rhoOk s.quant.rhoQuery && rhoOk s.quant.rhoStore && rhoOk s.quant.rhoAct && s.quant.rsv == 0
/-! An image from its bytes: Tables 2-1, 2-2, 13-1, 5-7 and 7-2 -/

/-- Table 13-1. -/
def ptnEntryOf (b : List Byte) : PtnEntry :=
  { cores := BitVec.ofNat 64 (leAt b 0x00 8), stks := BitVec.ofNat 8 (leAt b 0x08 1), valid := leAt b 0x09 1 % 2 == 1
    t2 := BitVec.ofNat 16 (leAt b 0x0A 2), threads := leAt b 0x0C 4 }
/-- Table 5-7. -/
def quantTable (b : List Byte) : Quant :=
  { rhoQuery := BitVec.ofNat 16 (leAt b 0x00 2), rhoStore := BitVec.ofNat 16 (leAt b 0x02 2), rhoAct := BitVec.ofNat 16 (leAt b 0x04 2)
    clipThr := BitVec.ofNat 16 (leAt b 0x06 2), rsv := BitVec.ofNat 64 (leAt b 0x08 8) }
/-- Table 7-2; the ρ of each layer stands at `RHO_OFF` in the section. -/
def modelDescOf (sec b : List Byte) : ModelDesc :=
  let u (off len : Nat) : Nat := leAt b off len
  let d : ModelDesc :=
    { model := u 0x00 1, kind := u 0x01 1, blocks := u 0x02 2, dModel := u 0x04 2, ffn := u 0x06 2, heads := u 0x08 1, headDim := u 0x09 1, vocab := u 0x0A 4, maxSeq := u 0x0E 2
      outDim := u 0x10 2, pool := u 0x12 1, flags := u 0x13 1, window := u 0x14 1, rsv := u 0x15 3 + 2 ^ 24 * u 0x20 32, lnEps := BitVec.ofNat 32 (u 0x18 4) }
  if u 0x1C 4 = 0 then d
  else { d with rhos := (List.range (layerShapes d).length).map (fun j => BitVec.ofNat 16 (leAt sec (u 0x1C 4 + 2 * j) 2)) }
/-- Table 2-2. -/
def dirEntryOf (b : List Byte) : DirEntry :=
  { kind := leAt b 0x00 1, ptn := leAt b 0x01 1, offset := leAt b 0x08 4, length := leAt b 0x0C 4, digest := leAt b 0x10 48 }
/-- The node section from its bytes and from what of it has no printed layout. -/
def nodeSectionOf (sec : List Byte) (f : NodeForm) : NodeSection :=
  { map := (List.range 8).map (fun p => ptnEntryOf (slice sec (f.mapOff + 32 * p) 32)), fnMap := (List.range 64).map (fun i => leAt sec (f.fnOff + i) 1)
    totalVfs := f.totalVfs, numVfs := f.numVfs, qos := f.qos, reserve := f.reserve, bankLevel := f.bankLevel, digest := leNat (sha384 sec) }
/-- A partition section likewise. -/
def ptnSectionOf (p : Nat) (sec : List Byte) (f : PtnForm) : PtnSection :=
  { ptn := p, graphs := f.graphs, quant := quantTable (slice sec f.quantOff 16), models := f.models.map (fun o => modelDescOf sec (slice sec o 64)), layouts := f.layouts
    sapPool := f.sapPool, place := f.place, mountAll := f.mountAll, digest := leNat (sha384 sec) }
/-- The image that a slot's bytes hold. `rd off len` reads them. The signed message is every byte up to `SIG_OFFSET`, the signature block what follows (R23, R24). -/
def imageOf (rd : Nat → Nat → List Byte) (f : ImageForm) : Image :=
  let h := rd 0 0x280
  let u (off len : Nat) : Nat := leAt h off len
  let dir := (List.range (min 9 (u 0x0C 2))).map (fun j => dirEntryOf (slice h (0x40 + 64 * j) 64))
  let bytes (d : DirEntry) : List Byte := rd d.offset d.length
  let msg := rd 0 (u 0x1C 4)
  let sig := rd (u 0x1C 4) (u 0x18 4 - u 0x1C 4)
  { magic := BitVec.ofNat 32 (u 0x00 4), hdrVer := BitVec.ofNat 16 (u 0x04 2), proto := u 0x06 1, fmt := u 0x07 1, secVer := BitVec.ofNat 32 (u 0x08 4), sections := u 0x0C 2
    flags := BitVec.ofNat 16 (u 0x0E 2), imageVer := BitVec.ofNat 64 (u 0x10 8), imageLen := u 0x18 4, sigOffset := u 0x1C 4
    targetPart := BitVec.ofNat 16 (u 0x20 2), targetStep := BitVec.ofNat 8 (u 0x22 1), dir := dir
    node := nodeSectionOf (((dir.find? (fun d => d.kind == 1)).map bytes).getD []) f.node
    parts := ((dir.filter (fun d => d.kind == 2)).zipIdx).map (fun d => ptnSectionOf d.1.ptn (bytes d.1) (f.parts.getD d.2 {}))
    rsaOk := Config.rsaVerifies msg sig, slhOk := Config.slhVerifies msg sig }
/-- Every directory entry in use has its section, with the digest it names (R23). -/
def dirOk (i : Image) : Bool :=
  (i.dir.filter (fun d => d.kind == 1)).length == 1 && i.dir.all (fun d =>
    if d.kind = 1 then d.digest == i.node.digest
    else if d.kind = 2 then i.parts.any (fun s => s.ptn == d.ptn && s.digest == d.digest)
    else true)
/-- The length limits of Tables 2-1 and 2-2. -/
def sizesOk (i : Image) : Bool := decide (i.imageLen ≤ 50331648) && i.dir.all (fun d => d.kind != 2 || decide (d.length ≤ 4194304))
/-- The first failing check, 0 when all pass (an image or a section that is too long: log 132). -/
def checkImage (counter : Nat) (im : Option Image) : Nat := match im with
  | none => 0x01
  | some i =>
    if i.magic ≠ 0x4C58594B then 0x01
    else if i.targetPart ≠ 0x0760 || i.targetStep ≠ 0xB1 || i.hdrVer ≠ 1 then 0x02
    else if !dirOk i then 0x03
    else if !i.rsaOk then 0x04
    else if !i.slhOk then 0x05
    else if i.secVer.toNat < counter then 0x06
    else if !inR i.proto 3 4 || !inR i.fmt 2 4 then 0x07
    else if !inR i.sections 2 9 || !sizesOk i || !nodeOk i.node || !i.parts.all (partOk i.node.map) then 0x08
    else 0

/-! ### Boot steps (Table 2-6) -/

def toStep (k : Nat) (n : Node) : Node := modBoot (fun b => { b with step := max b.step k }) n
/-- `HOST_LINK_UP`: the link has trained at `rate` (1 to 5: 2.5 to 32 GT/s) over `width` lanes (R231). -/
def hostLinkUp (rate width : Nat) (n : Node) : Node :=
  if !inR rate 1 5 || !([1, 2, 4, 8, 16].contains width) then n
  else
    let n := modBoot (fun b => { b with hostUp := true, linkRate := rate, linkWidth := width }) n
    if n.boot.step = 0 || n.pins.vrPg != 31 then n else toStep 2 n
def execHostLinkUp (e : LinkUp) (s : State) : Host.Outcome State Fault Refusal := run e.toEnv (pureBody (hostLinkUp e.rate e.width)) s
/-- The node tries a slot: the boot ROM runs and no recovery mode has begun. -/
def booting (n : Node) : Bool := n.boot.step != 0 && n.boot.mode != 1 && n.boot.image.isNone
/-- `IMAGE_READ_DONE`. -/
def imageReadDone (n : Node) : Node := if booting n && n.pins.vrPg == 31 && !n.boot.imgRead then toStep 3 (modBoot (fun b => { b with imgRead := true }) n) else n
def execImageReadDone (e : Env) (s : State) : Host.Outcome State Fault Refusal := run e (pureBody imageReadDone) s
/-- `IMAGE_VERIFIED`: the image is taken, or the other slot is tried, or the node enters recovery mode. -/
def imageVerified (n : Node) : Node :=
  let b := n.boot
  let k := b.trySlot
  if !booting n || !b.imgRead then n
  else if !n.bflash.ctrAuth then enterRecovery (recordFail k 0x0A n)
  else
    let r := checkImage n.bflash.counter (imgSlot n k).image
    if r = 0 then toStep 4 (modBoot (fun b => { b with image := (imgSlot n k).image, slot := k, mode := if b.isTrial then 2 else 0 }) n)
    else
      let n := modBoot (fun b => { b with tried := b.tried ++ [k], isTrial := false, imgRead := false }) (recordFail k r n)
      if b.tried.contains (1 - k) then enterRecovery n else modBoot (fun b => { b with trySlot := 1 - k }) n
def execImageVerified (e : Env) (s : State) : Host.Outcome State Fault Refusal := run e (pureBody imageVerified) s
/-- Physical cores in the order of the logical ones: at shipment the first 32 of each die (log 133); a core that the map replaces gives its number to the one that the map names (R13). -/
def bindOrder (m : RepairMap) : List Nat :=
  m.cores.foldl (fun l c => l.map (fun i => if i = c.1 then c.2 else i)) ((List.range 64).map (fun l => if l < 32 then l else l + 2))
/-- A core with two failed lanes in one slice cannot keep 128 active ones (R12). -/
def narrow (lanes : List (Nat × Nat × Nat)) (i : Nat) : Bool :=
  (List.range 8).any (fun s => decide (2 ≤ (lanes.filter (fun l => l.1 == i && l.2.1 == s)).length))
/-- The map that a full test writes: each core that it finds bad, or too narrow, is retired, and a good spare of its die, else of the other one, takes its number. -/
def rebuiltMap (found : RepairMap) : RepairMap :=
  let bad := (List.range 68).filter (fun i => found.cores.any (fun c => c.1 == i) || narrow found.lanes i)
  let spares := [32, 33, 66, 67]
  { found with cores := (bad.foldl (fun a i =>
      let free := a.2
      let new := if spares.contains i then 0xFF else ((free.find? (fun k => dieOfCore k == dieOfCore i)).orElse (fun _ => free.head?)).getD 0xFF
      (a.1 ++ [(i, new)], free.filter (· != new))) (([] : List (Nat × Nat)), spares.filter (fun i => !bad.contains i))).1 }
/-- Logical cores, lanes, banks and rows are bound to physical ones by the repair map. -/
def bindCores (n : Node) : Node :=
  let m := n.boot.running
  let order := bindOrder m
  let owner (l : Nat) : Nat := ((List.range 8).find? (fun p => (getP n p).st != .absent && (getP n p).ent.cores.getLsbD l)).getD 0xF
  { n with cores := n.cores.mapIdx (fun i c =>
      let c := { c with lanes := (m.lanes.filter (fun (l : Nat × Nat × Nat) => l.1 == i)).map (fun (l : Nat × Nat × Nat) => (l.2.1, l.2.2)) }
      if m.cores.any (fun x => x.1 == i) then { c with st := .retired, ptn := 0xF, lcore := 0xFF }
      else match order.findIdx? (· == i) with
        | some l => { c with st := .inService, lcore := l, ptn := owner l }
        | none => { c with st := .spare, ptn := 0xF, lcore := 0xFF }) }
/-- Banks and rows of tier 1, and the SRAM rows of the partitions. -/
def bindMem (n : Node) : Node :=
  let m := n.boot.running
  let n := { n with ptns := n.ptns.mapIdx (fun p x => { x with sramMap := (m.sram.filter (fun r => r.1 == p)).map (·.2) }) }
  modMem (fun x => { x with chans := x.chans.mapIdx (fun c y => { y with
    spare := m.banks.any (fun b => b.1 == c)
    rowsUsed := (m.rows.filter (fun r => r.1 == c)).foldl (fun l r => mset l r.2.1 ((mget l r.2.1).getD 64 - 1)) [] }) }) n
def bindLinks (n : Node) : Node :=
  modLnk (fun b => { b with links := b.links.mapIdx (fun l x => { x with spare := n.boot.running.links.any (fun y => y.1 == l / 6 && (y.2 - 13 * y.1) / 2 == l % 6) }) }) n
/-- `REPAIR_MAP_APPLIED`: a map that fails its authentication applies no repairs. -/
def repairMapApplied (n : Node) : Node :=
  if n.boot.image.isNone || n.boot.mapRead then n
  else
    let ok := n.bflash.mapAuth
    toStep 5 (bindLinks (bindMem (modBoot (fun b => { b with mapRead := true, mapGood := ok, running := if ok then n.bflash.map else {} }) n)))
def execRepairMapApplied (e : Env) (s : State) : Host.Outcome State Fault Refusal := run e (pureBody repairMapApplied) s
/-- The partitions of the map come into being with what survived of them; a function's byte that names no valid partition maps it to none. -/
def applyNode (clk : Clock) (i : Image) (n : Node) : Node :=
  let s := i.node
  let total := min 63 s.totalVfs
  let vfs := min total s.numVfs
  let valid (p : Nat) : Bool := (s.map[p]?).any (·.valid)
  let entry (p : Nat) : PtnEntry := (s.map[p]?).getD {}
  let owner (l : Nat → Bool) : Nat := ((List.range 8).find? (fun p => valid p && l p)).getD 0xF
  let n := { n with
    ptns := n.ptns.mapIdx (fun p x => if valid p then { x with ent := entry p, st := .inService, share := (entry p).threads, epochAt := clk.node } else { x with ent := {}, st := .absent })
    fns := n.fns.mapIdx (fun f x => { x with enabled := decide (f ≤ vfs), map := match s.fnMap[f]? with
      | some p => if valid p then some p else none
      | none => none })
    totalVfs := total, numVfs := vfs, reserve := s.reserve, bankLvl := s.bankLevel }
  let n := modMem (fun m => { m with
    spareCtx := 4194304 - sumNat ((s.map.filter (·.valid)).map (·.threads))
    chans := m.chans.mapIdx (fun c x => { x with ptn := owner (fun p => (entry p).stks.getLsbD (c / 16)) })
    t2 := m.t2.mapIdx (fun c x => { x with ptn := owner (fun p => (entry p).t2.getLsbD c) }) }) n
  let n := foldNode (List.range (vfs + 1)) (qosImage s.qos) n
  modLnk (fun b => { b with svc := (List.range 64).foldl (fun m k => mset m k (s.qos.svc.getD k 0)) b.svc }) n
/-- `NODE_SECTION_APPLIED`: configuration space is complete and the Juolo links train. Without a good map the cores are bound after the test. -/
def nodeSectionApplied (clk : Clock) (n : Node) : Node := match n.boot.image with
  | none => n
  | some i =>
    if !n.boot.mapRead || 6 ≤ n.boot.step then n
    else
      let n := applyNode clk i n
      let n := toStep 6 (if n.boot.mapGood then bindCores n else n)
      foldNode (List.range 36) (fun l n => if (getL n l).enable then startTrain clk l n else n) n
def execNodeSectionApplied (e : Env) (s : State) : Host.Outcome State Fault Refusal := runBootUp e nodeSectionApplied s
def doneStep (k : Nat) (n : Node) : Node := toStep k (modBoot (fun b => { b with done := nubNat (k :: b.done) }) n)
/-- `TIER1_TRAINED`: without a good map the test of R29 begins. -/
def tier1Trained (clk : Clock) (n : Node) : Node :=
  if n.boot.step < 6 || n.boot.done.contains 7 then n
  else
    let n := doneStep 7 (modMem (fun m => { m with rsvT1 := 8704, heatAt := clk.node, patrolAt := clk.node, sramAt := clk.node }) n)
    if n.boot.mapGood then n else modBoot (fun b => { b with testing := true, mode := 3, testAt := clk.node }) n
def execTier1Trained (e : Env) (s : State) : Host.Outcome State Fault Refusal := run e (fun clk _ n => tier1Trained clk n) s
/-- `TIER2_TRAINED` (R180). -/
def tier2Trained (ds : List Dimm) (n : Node) : Node :=
  if n.boot.step < 6 || n.boot.done.contains 8 then n
  else identsDone (doneStep 8 (modMem (fun m => { m with t2 := m.t2.mapIdx (fun c x => match ds.getD c .empty with
    | .empty => { x with st := 0, gib := 0 }
    | .failed g => { x with st := 2, gib := g }
    | .active g => { x with st := 1, gib := g }) }) n))
def execTier2Trained (e : Env) (dimms : List Dimm) (s : State) : Host.Outcome State Fault Refusal := run e (pureBody (tier2Trained dimms)) s
/-- `REPAIR_TEST_END`: what the test found is bound, written as the new map, and reported. -/
def repairTestEnd (found : RepairMap) (clk : Clock) (n : Node) : Node :=
  if !n.boot.testing then n
  else
    let found := rebuiltMap found
    let n := { n with bflash := { n.bflash with map := found, mapAuth := true } }
    let n := modBoot (fun b => { b with
      testing := false, mapGood := true, rebuilt := true, running := found, mode := if b.isTrial then 2 else 0, testCyc := b.testCyc + (clk.node - b.testAt) }) n
    bindCores (bindLinks (bindMem (noteSet 0x1000 48 n)))
def execRepairTestEnd (e : Env) (found : RepairMap) (s : State) : Host.Outcome State Fault Refusal := run e (fun clk _ n => repairTestEnd found clk n) s
/-- A partition's section is in force: its Sapling pool, and the objects of the tables that flash brought back, where tiers have room. -/
def applyPtn (clk : Clock) (p : Nat) (n : Node) : Node :=
  foldNode (getP n p).tbls (fun t n => (makeTbl p t.1 t.2 n).getD n) (makePool clk p n)
/-- `READY`: the partition sections are applied. -/
def ready (clk : Clock) (n : Node) : Node := match n.boot.image with
  | none => n
  | some i =>
    let b := n.boot
    if b.ready || b.step < 6 || !b.done.contains 7 || !b.done.contains 8 || b.testing || !b.mapGood || n.flash.carts.toList.any (fun c => c.st == .identifying) then n
    else
      let n := { n with ptns := n.ptns.mapIdx (fun p x => if x.st == .absent then x else { x with sec := i.parts.find? (fun s => s.ptn == p), srcSlot := b.slot }) }
      let n := foldNode ((List.range 8).filter (fun p => (getP n p).st != .absent)) (applyPtn clk) (modBoot (fun b => { b with ready := true, step := 10 }) (identsDone n))
      if b.mode = 2 then raiseAt attnImage 0 n else n
def execReadyStep (e : Env) (s : State) : Host.Outcome State Fault Refusal := run e (fun clk _ n => ready clk n) s
/-- `TRIAL_TIMEOUT`: 20 s, the test's time apart. -/
def trialTimeout (clk : Clock) (n : Node) : Node :=
  let b := n.boot
  if !b.isTrial || b.ready || b.testing || decide (clk.node < b.bootAt + b.testCyc + 6000000000) then n
  else chooseSlot clk (recordFail b.trySlot 0x09 (nodeReset false n))
def execTrialTimeout (e : Env) (s : State) : Host.Outcome State Fault Refusal := runBootUp e trialTimeout s

/-! ### Image commands (R34 to R38) -/

def modSlot (k : Nat) (g : Slot → Slot) (n : Node) : Node :=
  { n with bflash := if k = 0 then { n.bflash with slotA := g n.bflash.slotA } else { n.bflash with slotB := g n.bflash.slotB } }
def slotChk (_ : Node) (_ : Nat) (e : Sqe) : Option Nat := if 2 ≤ e.arg0 then some 0x18 else none
/-- A slot is 56 MiB (Table 2-5); the running slot takes no write. -/
def imageWriteChk (n : Node) (_ : Nat) (e : Sqe) : Option Nat :=
  if 2 ≤ e.arg0 || (n.boot.image.isSome && n.boot.slot == e.arg0) then some 0x18
  else if 58720256 < e.arg1 then some 0x20
  else if 58720256 < e.arg1 + e.arg2 then some 0x28 else none
/-- `form`: what the slot's sections hold after the write where the spec prints no layout (log 5); the rest is read from the slot's bytes. -/
def imageWrite (form : ImageForm) : Job := fun clk host t e n =>
  let bs := Mem.readN host e.addr0 e.arg2
  post clk t stSuccess 0 (modSlot e.arg0 (fun s =>
    let b := Mem.writeN s.bytes e.arg1 bs
    { bytes := b, image := some (imageOf (Mem.readN b) form) }) n)
def execImageWrite (e : Env) (q : QRef) (form : ImageForm) (s : State) : Host.Outcome State Fault Refusal := run e (hostCmd Rows.imageWrite anyEntry imageWriteChk noPtn (imageWrite form) q) s
/-- `IMAGE_VERIFY`: the checks of a boot; a slot that passes is staged. -/
def imageVerify : Job := fun clk _ t e n =>
  let r := if n.bflash.ctrAuth then checkImage n.bflash.counter (imgSlot n e.arg0).image else 0x0A
  if r = 0 then post clk t stSuccess 0 (modSlot e.arg0 (fun s => { s with verified := true, staged := true }) n)
  else post clk t stImageRejected 0 (recordFail e.arg0 r (modSlot e.arg0 (fun s => { s with verified := false, staged := false }) n))
def execImageVerify (e : Env) (q : QRef) (s : State) : Host.Outcome State Fault Refusal := run e (hostCmd Rows.imageVerify anyEntry slotChk noPtn imageVerify q) s
def imageSelect : Job := fun clk _ t e n =>
  if (imgSlot n e.arg0).verified then post clk t stSuccess 0 { n with bflash := { n.bflash with trial := some e.arg0 } } else post clk t stImageRejected 0 n
def execImageSelect (e : Env) (q : QRef) (s : State) : Host.Outcome State Fault Refusal := run e (hostCmd Rows.imageSelect anyEntry slotChk noPtn imageSelect q) s
/-- `IMAGE_COMMIT` (R35): the directory first, then the counter, which never falls. -/
def imageCommit : Job := fun clk _ t _ n =>
  let n := { n with bflash := { n.bflash with active := n.boot.slot, counter := max n.bflash.counter ((n.boot.image.map (fun i => i.secVer.toNat)).getD 0) } }
  post clk t stSuccess 0 (modBoot (fun b => { b with mode := if b.mode = 2 then 0 else b.mode, isTrial := false }) n)
def execImageCommit (e : Env) (q : QRef) (s : State) : Host.Outcome State Fault Refusal := run e (hostCmd Rows.imageCommit anyEntry noChk noPtn imageCommit q) s
/-- R36: the offset of the field that refuses the load. A staged generation and a retired one that is still pinned count as mounted (DESIGN CHOICE, log 134). -/
def loadRefused (n : Node) (k : Nat) (ps : List Nat) : Option Nat := match (imgSlot n k).image with
  | none => some 0x18
  | some i =>
    let mounted (p : Nat) : List Nat := ((getP n p).colls.map (fun c => (c.2.cur.toList ++ c.2.staged.toList ++ c.2.retired).map (·.hdr.fmt))).flatten
    if (n.boot.image.map (·.node.digest)) != some i.node.digest then some 0x18
    else if ps.any (fun p => (secIn n k p).isNone || (getP n p).st == .absent) then some 0x20
    else if ps.any (fun p => (mounted p).any (fun f => decide (i.fmt < f))) then some 0x18 else none
/-- `PARTITION_IMAGE_LOAD`: loads run one after another, in fetch order, each with the sections that were staged when its command was fetched. -/
def partitionImageLoad : Job := fun clk _ t e n =>
  let k := e.arg0
  let ps := (List.range 8).filter (fun p => e.arg1.testBit p)
  if !(imgSlot n k).verified || !(imgSlot n k).staged then post clk t stImageRejected 0 n
  else match loadRefused n k ps with
    | some off => invalid clk t off 0 n
    | none =>
      let ss := ps.filterMap (secIn n k)
      if n.boot.liveTok.isSome then modBoot (fun b => { b with liveWait := b.liveWait ++ [(t, k, ss)] }) n
      else stepLive clk (modBoot (fun b => { b with liveTok := some t, liveSlot := k, liveQ := ss }) n)
def execPartitionImageLoad (e : Env) (q : QRef) (s : State) : Host.Outcome State Fault Refusal := run e (hostCmd Rows.partitionImageLoad anyEntry slotChk noPtn partitionImageLoad q) s
/-- No command fetched from the partition's I/O queues runs any more. -/
def liveDrained (n : Node) (p : Nat) : Bool :=
  let x := getP n p
  (ioPairs n p).all (fun q => q.2.2.cmds.isEmpty) && x.queries.isEmpty && x.insts.isEmpty && x.passes.isEmpty && x.gather.isEmpty && x.batches.isEmpty && x.adds.isEmpty &&
    x.colls.all (fun c => c.2.upds.isEmpty) && x.mdls.all (fun m => m.2.load.isNone)
/-- `LIVE_LOAD_DRAIN_END`: the section is installed and fetching resumes. -/
def liveLoadDrainEnd (p : Nat) (clk : Clock) (n : Node) : Node :=
  let x := getP n p
  match x.load with
  | none => n
  | some l =>
    if x.st != .loading || x.run.isSome || !liveDrained n p then n
    else stepLive clk (modP p (fun x => { x with st := .inService, idleFor := 0 }) (installSec clk p l.slot l.sec n))
def execLiveLoadDrainEnd (e : Env) (p : Nat) (s : State) : Host.Outcome State Fault Refusal := run e (fun clk _ n => liveLoadDrainEnd p clk n) s
/-- `DRAIN_LIMIT`: what still runs ends in a partition reset, which installs the section and does not count. -/
def drainLimit (p : Nat) (clk : Clock) (n : Node) : Node :=
  let x := getP n p
  match x.load with
  | none => n
  | some l =>
    if x.st != .loading || x.run.isSome || liveDrained n p || decide (pctr clk p < l.deadline) then n
    else
      let n := modP p (fun x => { x with load := some { l with install := true } }) n
      raiseAt attnImage 0 (startReset clk p { seq := 0, ctr := 0, kind := fkDrainLimit, d1 := (ioPairs n p).foldl (fun a q => a + q.2.2.cmds.length) 0 } none n)
def execDrainLimit (e : Env) (p : Nat) (s : State) : Host.Outcome State Fault Refusal := run e (fun clk _ n => drainLimit p clk n) s

/-! ### Attestation (R40, R41) -/

def getSpdm (n : Node) : Transport → Spdm
  | .i3c => n.spdmI3c
  | .vdm => n.spdmVdm
def modSpdm (tr : Transport) (g : Spdm → Spdm) (n : Node) : Node := match tr with
  | .i3c => { n with spdmI3c := g n.spdmI3c }
  | .vdm => { n with spdmVdm := g n.spdmVdm }
/-- The boot ROM runs, and over PCI Express the physical function is there. -/
def spdmUp (n : Node) (tr : Transport) : Bool := n.boot.step != 0 && (tr == .i3c || reach n)
/-- An answer of the given SPDM code; its layout is SPDM 1.2's (log 16). -/
def answer (tr : Transport) (code : Nat) (content : List Byte) (n : Node) : Node := emit (.spdm tr (Config.spdmBody code content)) n
/-- An answer signed with the algorithm the connection negotiated. -/
def signed (tr : Transport) (code : Nat) (content : List Byte) (n : Node) : Node := match (getSpdm n tr).alg with
  | none => answer tr 0x7F [4] n
  | some a =>
    let body := Config.spdmBody code content
    emit (.spdm tr (body ++ (match a with
      | .rsa => Config.rsaSign body
      | .slh => Config.slhSign body))) n
/-- Requests out of the order GET_VERSION, GET_CAPABILITIES, NEGOTIATE_ALGORITHMS are answered with the error code (PRESUMED: SPDM 1.2). -/
def spdmGetVersion (tr : Transport) (n : Node) : Node := if spdmUp n tr then answer tr 0x04 [] (modSpdm tr (fun _ => { version := true }) n) else n
def execSpdmGetVersion (e : Env) (tr : Transport) (s : State) : Host.Outcome State Fault Refusal := run e (pureBody (spdmGetVersion tr)) s
def spdmGetCapabilities (tr : Transport) (n : Node) : Node :=
  if !spdmUp n tr then n else if (getSpdm n tr).version then answer tr 0x61 [] (modSpdm tr (fun c => { c with caps := true }) n) else answer tr 0x7F [4] n
def execSpdmGetCapabilities (e : Env) (tr : Transport) (s : State) : Host.Outcome State Fault Refusal := run e (pureBody (spdmGetCapabilities tr)) s
/-- Of the algorithms offered the node takes RSASSA-PSS 3072 first (log 16). -/
def spdmNegotiate (tr : Transport) (algs : List SigAlg) (n : Node) : Node :=
  if !spdmUp n tr then n
  else if !(getSpdm n tr).caps then answer tr 0x7F [4] n
  else
    let a : Option SigAlg := if algs.contains .rsa then some .rsa else if algs.contains .slh then some .slh else none
    answer tr 0x63 (match a with
      | some .rsa => [1]
      | some .slh => [2]
      | none => [0]) (modSpdm tr (fun c => { c with alg := a }) n)
def execSpdmNegotiateAlgorithms (e : Env) (tr : Transport) (algs : List SigAlg) (s : State) : Host.Outcome State Fault Refusal := run e (pureBody (spdmNegotiate tr algs)) s
/-- The identity certificate chain. -/
def certChain : List Byte := Config.identityBytes 1
def spdmGetDigests (tr : Transport) (n : Node) : Node :=
  if !spdmUp n tr then n else if (getSpdm n tr).alg.isSome then answer tr 0x01 (sha384 certChain) n else answer tr 0x7F [4] n
def execSpdmGetDigests (e : Env) (tr : Transport) (s : State) : Host.Outcome State Fault Refusal := run e (pureBody (spdmGetDigests tr)) s
def spdmGetCertificate (tr : Transport) (off len : Nat) (n : Node) : Node :=
  if !spdmUp n tr then n else if (getSpdm n tr).alg.isSome then answer tr 0x02 (slice certChain off len) n else answer tr 0x7F [4] n
def execSpdmGetCertificate (e : Env) (tr : Transport) (off len : Nat) (s : State) : Host.Outcome State Fault Refusal := run e (pureBody (spdmGetCertificate tr off len)) s
def spdmChallenge (tr : Transport) (nonce : List Byte) (n : Node) : Node := if spdmUp n tr then signed tr 0x03 (sha384 certChain ++ nonce) n else n
def execSpdmChallenge (e : Env) (tr : Transport) (nonce : List Byte) (s : State) : Host.Outcome State Fault Refusal := run e (pureBody (spdmChallenge tr nonce)) s
/-- Entries of the repair map as numbers. -/
def mapEntries (m : RepairMap) : List (List Nat) :=
  m.cores.map (fun c => [0, c.1, c.2]) ++ m.lanes.map (fun l => [1, l.1, l.2.1, l.2.2]) ++ m.banks.map (fun b => [2, b.1, b.2]) ++ m.links.map (fun b => [3, b.1, b.2]) ++
    m.rows.map (fun r => [4, r.1, r.2.1, r.2.2]) ++ m.sram.map (fun r => [5, r.1, r.2])
/-- Table 2-14. -/
def measurement (n : Node) (i : Nat) : List Byte :=
  if i = 1 then Config.identityBytes 2
  else if i = 2 then toLe 48 ((n.boot.image.map (·.node.digest)).getD 0)
  else if i ≤ 10 then toLe 48 (if (getP n (i - 3)).st == .absent then 0 else (((getP n (i - 3)).sec).map (·.digest)).getD 0)
  else if i = 11 then sha384 (Config.repairBytes (mapEntries n.boot.running))
  else toLe 4 n.bflash.counter
/-- Index 0 asks for their number, 0xFF for all (PRESUMED: SPDM 1.2). -/
def spdmGetMeasurements (tr : Transport) (i : Nat) (nonce : List Byte) (n : Node) : Node :=
  if !spdmUp n tr then n
  else if i = 0 then signed tr 0x60 ([0, 12] ++ nonce) n
  else if i = 0xFF then signed tr 0x60 ([0xFF] ++ ((List.range 12).map (fun k => measurement n (k + 1))).flatten ++ nonce) n
  else if i ≤ 12 then signed tr 0x60 ([BitVec.ofNat 8 i] ++ measurement n i ++ nonce) n
  else answer tr 0x7F [1] n
def execSpdmGetMeasurements (e : Env) (tr : Transport) (index : Nat) (nonce : List Byte) (s : State) : Host.Outcome State Fault Refusal :=
  run e (pureBody (spdmGetMeasurements tr index nonce)) s

end Sys2Proof.Machine
end

