-- ==== Sys2Proof/Machine/Regs.lean ====
section
/-! DEFINITION. Writes to registers (R6, R7, R8, Table 0-4): halves, access codes, sessions, ranges and `CFG_ERR`, block by block over the map of Table 11-4. -/

namespace Sys2Proof.Machine

/-! ### Halves and access codes (R6, R7) -/

/-- Bits that a write of this width writes. -/
def wmask (w : Width) : W64 := match w with
  | .full => 0xFFFFFFFFFFFFFFFF
  | .lo => 0x00000000FFFFFFFF
  | .hi => 0xFFFFFFFF00000000
/-- The value written, in place; a half is in the low 32 bits of `v`. -/
def wval (w : Width) (v : W64) : W64 := match w with
  | .full => v
  | .lo => v &&& 0x00000000FFFFFFFF
  | .hi => v <<< 32
/-- The register after the write, access codes apart. -/
def merged (w : Width) (v cur : W64) : W64 := (cur &&& ~~~(wmask w)) ||| wval w v
/-- Clears the W1C bits of `mask` that the write holds as 1. -/
def w1c (w : Width) (v mask cur : W64) : W64 := cur &&& ~~~(wval w v &&& mask)
/-- A register with RWS fields `rw`, a W1C `CFG_ERR` at `err` and a range check on what the write would leave: without a session only the W1C bit is written; a field out of range changes
nothing and sets `CFG_ERR` (which wins over its clearing, R8). -/
def cfgWrite (ses : Bool) (w : Width) (v rw : W64) (err : Nat) (ok : W64 → Bool) (cur : W64) : W64 :=
  let keep := w1c w v (fmask err 1) cur
  if !ses then keep
  else
    let new := (keep &&& ~~~rw) ||| (merged w v cur &&& rw)
    if ok new then new else put cur err 1 1
/-- A write of the register at offset `off`, its value `cur` and `upd` its update: `cfgWrite`, and a `CFG_ERR` that it sets is noted (R8). -/
def cfgReg (off : Nat) (ses : Bool) (w : Width) (v rw : W64) (err : Nat) (ok : W64 → Bool) (cur : W64) (upd : W64 → Node → Node) (n : Node) : Node :=
  let bad := ses && !ok ((w1c w v (fmask err 1) cur &&& ~~~rw) ||| (merged w v cur &&& rw))
  let n := upd (cfgWrite ses w v rw err ok cur) n
  if bad then noteSet off err n else n
/-- A register of RWS fields without `CFG_ERR`. -/
def plainWrite (ses : Bool) (w : Width) (v rw cur : W64) : W64 := if ses then (cur &&& ~~~rw) ||| (merged w v cur &&& rw) else cur
/-- `lo ≤ v ≤ hi`. -/
def within (v lo hi : Nat) : Bool := decide (lo ≤ v ∧ v ≤ hi)

/-! ### Ranges -/

/-- The largest `NB_MAX` among the RINSE stages of a partition's section (R84). -/
def nbMaxOf (x : Ptn) : Nat := match x.sec with
  | some s => ((s.graphs.map (fun g => (g.2.stages.filter (fun t => t.kind == .rinse)).map (fun t => leAt t.par 2 1))).flatten).foldl max 0
  | none => 0
def qryOk (x : Ptn) (w : W64) : Bool :=
  let g := fld w 0 16
  let l := fld w 16 8
  (g == 0xFFFF || decide (g ≤ 1000)) && (l == 0 || (within l 16 128 && decide (nbMaxOf x ≤ l))) && within (fld w 24 8) 1 100
def coreCount (x : Ptn) : Nat := (bitsOf x.ent.cores 64).length
def embOk (x : Ptn) (w : W64) : Bool :=
  let c := fld w 16 8
  c % 4 == 0 && within c 4 (coreCount x) && decide (fld w 8 5 ≤ 16)
def wdOk (w : W64) : Bool := within (fld w 24 8) 1 255 && within (fld w 16 8) 1 255 && within (fld w 0 16) 10 10000
def escOk (w : W64) : Bool := within (fld w 16 4) 1 15 && within (fld w 0 16) 1 65535
def durOk (w : W64) : Bool := within (fld w 32 16) 10 10000 && within (fld w 16 16) 1 60000
def migOk (w : W64) : Bool :=
  decide (fld w 24 8 ≤ 50) && within (fld w 16 8) 1 255 && decide (fld w 8 8 ≤ 254) && decide (fld w 8 8 < fld w 16 8) && within (fld w 0 8) 1 255
def scrubOk (w : W64) : Bool := within (fld w 24 8) 1 50 && within (fld w 0 16) 1 720
def flsOk (w : W64) : Bool := within (fld w 24 8) 5 75 && within (fld w 16 8) 3 32 && within (fld w 8 8) 1 200 && within (fld w 0 8) 10 100
def arbOk (w : W64) : Bool := fld w 0 8 != 0 && fld w 8 8 != 0 && fld w 16 8 != 0
def shapeOk (w : W64) : Bool := fld w 62 2 != 3 && within (burstOf w) 72448 16777215
def polOk (w : W64) : Bool :=
  fld w 62 2 != 3 && fld w 58 2 != 3 && [56, 54, 52, 50].all (fun i => fld w i 2 != 3) && within (fld w 0 16) 1 65535 && decide (fld w 0 16 ≤ fld w 16 16)
def lnkOk (w : W64) : Bool := within (fld w 16 4) 1 15 && within (fld w 0 16) 100 10000
def tcOk (w : W64) : Bool := [0, 8, 16, 24, 32, 40].all (fun i => fld w i 8 != 0)
/-- R280: the values an entry of the route table may hold. -/
def routeOk (i : Nat) (w : W64) : Bool :=
  let bundle (b : Nat) : Bool := decide (b < 6) || b == 15
  bundle (fld w 8 4) && bundle (fld w 12 4) && within (fld w 20 4) 3 4 &&
    (!bit w 7 || (fld w 8 4 != 15 && fld w 32 32 != 0 && fld w 32 32 != 0xFFFFFFFF && fld w 32 12 == i))
def ctlOk (w : W64) : Bool := within (fld w 24 8) 1 255 && within (fld w 0 16) 1 1000
def limitOk (w : W64) : Bool := within (fld w 26 14) 100 10000 && within (fld w 0 10) 400 760
def avsOk (w : W64) : Bool := decide (fld w 16 4 ≤ 7) && within (fld w 0 16) 50 2000

/-! ### Blocks -/

/-- `HIF_AQ_CTL`: depths stay while `ENABLE` is 1; a change of `ENABLE` starts or resets the admin pair. -/
def writeAqCtl (f : Nat) (w : Width) (v : W64) (clk : Clock) (n : Node) : Node :=
  let cur := (getFn n f).aqCtl
  let on := bit cur 0
  let m := merged w v cur
  let sized := if on then cur else put (put cur 32 12 (fld m 32 12)) 16 12 (fld m 16 12)
  let n := modFn f (fun x => { x with aqCtl := w1c w v (fmask 2 1) sized }) n
  if bit m 0 && !on then aqEnable f clk n else if !bit m 0 && on then aqDisable f clk n else n
/-- `HIF_` (R235, R236, R256); every function sees `HIF_ARB_CFG`, and only the physical function writes it. -/
def writeHif (f : Nat) (ses : Bool) (off : Nat) (w : Width) (v : W64) (clk : Clock) (n : Node) : Node :=
  let on := aqEnabled (getFn n f)
  let base (cur : W64) : W64 := if on then cur else merged w v cur &&& ~~~(fmask 0 12)
  if off = 0x10000 then writeAqCtl f w v clk n
  else if off = 0x10008 then modFn f (fun x => { x with aqSq := base x.aqSq }) n
  else if off = 0x10010 then modFn f (fun x => { x with aqCq := base x.aqCq }) n
  else if 0x10100 ≤ off && off < 0x10140 then
    let p := (off - 0x10100) / 8
    if f ≠ 0 then n
    else cfgReg off ses w v (fmask 0 24) 32 arbOk (getP n p).arb.cfg (fun c => modP p (fun x => { x with arb := { x.arb with cfg := c } })) n
  else n
/-- `PTN_DUR_CFG` (R289, R320): clearing `MIRROR`, or `ON_LOSS` 1 after a loss, ends holds. -/
def writeDur (p : Nat) (ses : Bool) (w : Width) (v : W64) (clk : Clock) (n : Node) : Node :=
  let old := (getP n p).durCfg
  let n := cfgReg (0x50518 + 0x1000 * p) ses w v (fmask 32 32 ||| fmask 16 16 ||| fmask 8 3 ||| fmask 2 1 ||| fmask 0 1) 3 durOk old (fun c => modP p (fun x => { x with durCfg := c, unprot := x.unprot || (x.buddyLost && !allAcked x && !bit old 2 && bit c 2) })) n
  if bit old 0 && !bit (getP n p).durCfg 0 then mirrorOff clk p n else endHolds clk p n
/-- `PTN_` of one partition at offset `off` of its page (R84, R285, R289). -/
def writePtn (pf : Bool) (p : Nat) (ses : Bool) (off : Nat) (w : Width) (v : W64) (clk : Clock) (n : Node) : Node :=
  let x := getP n p
  let k := 0x50000 + 0x1000 * p + off
  if off = 0x038 then cfgReg k ses w v (fmask 0 32) 32 (qryOk x) x.qryCfg (fun c => modP p (fun y => { y with qryCfg := c })) n
  else if off = 0x040 then modP p (fun y => { y with qntCfg := plainWrite ses w v (fmask 0 17 ||| fmask 24 1) y.qntCfg }) n
  else if off = 0x0B8 then cfgReg k ses w v (fmask 0 8) 32 (fun c => within (fld c 0 8) 1 100) x.mdlCfg (fun c => modP p (fun y => { y with mdlCfg := c })) n
  else if off = 0x0E8 then
    cfgReg k ses w v (fmask 24 4 ||| fmask 16 8 ||| fmask 8 5 ||| fmask 0 1) 32 (embOk x) x.embCfg (fun c => modP p (fun y => { y with embCfg := c })) n
  else if off = 0x508 then cfgReg k ses w v (fmask 0 32) 32 wdOk x.wdCfg (fun c => modP p (fun y => { y with wdCfg := c })) n
  else if !pf then n
  else if off = 0x510 then cfgReg k ses w v (fmask 0 21) 32 escOk x.escCfg (fun c => modP p (fun y => { y with escCfg := c })) n
  else if off = 0x518 then writeDur p ses w v clk n
  else if off = 0x520 then (if ses && w != .hi then ptnBuddy p (merged w v x.buddy &&& fmask 0 32) clk n else n)
  else if off = 0x528 then modP p (fun y => { y with buddyLost := y.buddyLost && !bit (wval w v) 1 }) n
  else if 0x540 ≤ off && off < 0x590 then modP p (fun y => { y with snapMem := vmod y.snapMem ((off - 0x540) / 8) (plainWrite ses w v (fmask 0 35)) }) n
  else n
/-- `MEM_` (R201). -/
def writeMem (ses : Bool) (off : Nat) (w : Width) (v : W64) (n : Node) : Node :=
  if off = 0x60008 then cfgReg off ses w v (fmask 0 32) 32 migOk n.mem.migCfg (fun c => modMem (fun m => { m with migCfg := c })) n
  else if off = 0x60010 then cfgReg off ses w v (fmask 24 8 ||| fmask 0 16) 32 scrubOk n.mem.scrubCfg (fun c => modMem (fun m => { m with scrubCfg := c })) n
  else if off = 0x60018 then modMem (fun m => { m with tmapQ := merged w v m.tmapQ &&& fmask 0 36 }) n
  else n

/-- R276: a flow of a shaper whose burst falls keeps at most the new burst. -/
def clipFlow (clk : Clock) (old new : W64) (f : Flow) : Flow :=
  let b := 256 * burstOf new
  let s := slotOf clk.node
  match f.mode with
  | .wheel => if b < flowTokens old f s then { f with fullAt := 65536 * s + slotsFor old (256 * burstOf old - b) } else f
  | .bucket => { f with t := min b f.t }
/-- A shaper's value as a read returns it: the last one written. -/
def lastOf (cur pend : List (Nat × W64)) (k : Nat) : W64 := ((mget pend k).orElse (fun _ => mget cur k)).getD 0
/-- One shaper register, of an owner's class; its tables are `cur` and `pend`. Valid fields wait for the next refill instant; `CFG_ERR` changes at once. Answers the tables and
the value of a valid write. -/
def shapeWrite (ses : Bool) (w : Width) (v : W64) (k : Nat) (cur pend : List (Nat × W64)) : List (Nat × W64) × List (Nat × W64) × Option W64 :=
  let old := lastOf cur pend k
  let new := cfgWrite ses w v (fmask 62 2 ||| fmask 32 24 ||| fmask 0 32) 61 shapeOk old
  let err (x : W64) : W64 := put x 61 1 (fld new 61 1)
  let cur1 := mset cur k (err ((mget cur k).getD 0))
  let valid := ses && shapeOk ((old &&& ~~~(fmask 0 56 ||| fmask 62 2)) ||| (merged w v old &&& (fmask 62 2 ||| fmask 32 24 ||| fmask 0 32)))
  if valid then (cur1, mset pend k new, some new) else (cur1, mmod pend k err, none)
def writeShape (own : Nat) (c : Nat) (ses : Bool) (w : Width) (v : W64) (clk : Clock) (n : Node) : Node :=
  let b := n.lnk
  let k := if own < 64 then 8 * own + c else 8 * (own - 64) + c
  let old := shaperOf n own c
  let r := if own < 64 then shapeWrite ses w v k b.shape b.pendShape else shapeWrite ses w v k b.svc b.pendSvc
  let n := modLnk (fun b => if own < 64 then { b with shape := r.1, pendShape := r.2.1 } else { b with svc := r.1, pendSvc := r.2.1 }) n
  match r.2.2 with
  | none => if ses then noteSet (if own < 64 then 0x20000 + 64 * own + 8 * c else 0x21000 + 64 * (own - 64) + 8 * c) 61 n else n
  | some new => modLnk (fun b => { b with flows := b.flows.map (fun f => if f.owner = own && f.cls == c then clipFlow clk old new f else f) }) n
/-- `QOS_POL_RATE` is staged; one whose `PIR_INC` lies below its `CIR_INC` changes nothing and sets `QOS_POL_CFG.CFG_ERR`. -/
def writePolRate (ses : Bool) (w : Width) (v : W64) (x : Pol) : Pol :=
  let cur := (x.staged.orElse (fun _ => x.pending.map (·.1))).getD x.rate
  let new := merged w v cur
  if !ses then x
  else if fld new 32 32 < fld new 0 32 then { x with cfg := put x.cfg 61 1 1, pending := x.pending.map (fun p => (p.1, put p.2 61 1 1)) }
  else { x with staged := some new }
def writePolCfg (ses : Bool) (w : Width) (v : W64) (x : Pol) : Pol :=
  let cur := (x.pending.map (·.2)).getD x.cfg
  let rw : W64 := fmask 62 2 ||| fmask 50 11 ||| fmask 0 32
  let new := cfgWrite ses w v rw 61 polOk cur
  let err (c : W64) : W64 := put c 61 1 (fld new 61 1)
  let y := { x with cfg := err x.cfg, pending := x.pending.map (fun p => (p.1, err p.2)) }
  if ses && polOk ((cur &&& ~~~rw) ||| (merged w v cur &&& rw)) then
    { y with pending := some ((x.staged.orElse (fun _ => x.pending.map (·.1))).getD x.rate, new), staged := none
             tc := min x.tc (65536 * fld new 0 16), tp := min x.tp (65536 * fld new 16 16) }
  else y
/-- `QOS_` (R276, R280). -/
def writeQos (ses : Bool) (off : Nat) (w : Width) (v : W64) (clk : Clock) (n : Node) : Node :=
  let c := off / 8 % 8
  if 0x20000 ≤ off && off < 0x21000 then (if c < 2 then n else writeShape ((off - 0x20000) / 64) c ses w v clk n)
  else if 0x21000 ≤ off && off < 0x21200 then (if c < 2 then n else writeShape (64 + (off - 0x21000) / 64) c ses w v clk n)
  else if 0x22000 ≤ off && off < 0x22800 then
    let f := (off - 0x22000) / 32
    let x := vget n.lnk.pols f
    let cur := (x.pending.map (·.2)).getD x.cfg
    let rw : W64 := fmask 62 2 ||| fmask 50 11 ||| fmask 0 32
    if off % 32 = 0 then
      let new := merged w v ((x.staged.orElse (fun _ => x.pending.map (·.1))).getD x.rate)
      let n := modLnk (fun b => { b with pols := vmod b.pols f (writePolRate ses w v) }) n
      if ses && decide (fld new 32 32 < fld new 0 32) then noteSet (off + 8) 61 n else n
    else if off % 32 = 8 then
      let n := modLnk (fun b => { b with pols := vmod b.pols f (writePolCfg ses w v) }) n
      if ses && !polOk ((cur &&& ~~~rw) ||| (merged w v cur &&& rw)) then noteSet off 61 n else n
    else n
  else n
/-- The value of an entry never written (Table 12-19). -/
def route0 : W64 := 0x000000000030FF00
def writeRoute (i : Nat) (ses : Bool) (w : Width) (v : W64) (n : Node) : Node :=
  if !ses then n
  else
    let cur := (mget n.lnk.routes i).getD route0
    let new := plainWrite true w v (fmask 32 32 ||| fmask 20 4 ||| fmask 7 11) cur
    if routeOk i new then modLnk (fun b => { b with routes := mset b.routes i new }) n else noteSet 0x30008 32 (modLnk (fun b => { b with cfg := put b.cfg 32 1 1 }) n)
/-- `LNK_` (R261, R262, R280). -/
def writeLnk (ses : Bool) (off : Nat) (w : Width) (v : W64) (clk : Clock) (n : Node) : Node :=
  if off = 0x30000 then (if ses && w != .hi then lnkNodeId 0 (merged w v (n.lnk.nodeId.setWidth 64) &&& fmask 0 32) clk n else n)
  else if off = 0x30008 then cfgReg off ses w v (fmask 0 20) 32 lnkOk n.lnk.cfg (fun c => modLnk (fun b => { b with cfg := c })) n
  else if off = 0x30010 then cfgReg off ses w v (fmask 0 48) 48 tcOk n.lnk.tcCfg (fun c => modLnk (fun b => { b with tcCfg := c })) n
  else if off = 0x30018 then (if w == .hi then n else lnkPing 0 ((wval w v).setWidth 32) clk n)
  else if 0x30100 ≤ off && off < 0x30220 then
    let l := (off - 0x30100) / 8
    if ses then linkEnable 0 l (bit (merged w v (put 0 12 1 (b2n (getL n l).enable))) 12) clk n else n
  else if 0x31000 ≤ off && off < 0x39000 then writeRoute ((off - 0x31000) / 8) ses w v n
  else n
/-- `PWR_CTL`: `WAKE` takes effect without a session. -/
def writePwrCtl (ses : Bool) (w : Width) (v : W64) (clk : Clock) (n : Node) : Node :=
  let cur := n.pwr.ctl
  let bad := ses && !ctlOk (merged w v cur)
  let n := cfgReg 0x80000 ses w v (fmask 24 8 ||| fmask 0 18) 32 ctlOk cur (fun c => modPwr (fun p => { p with ctl := c })) n
  if bit (wval w v) 18 && !bad then wakeNode clk false n else n
/-- `PWR_` and `CLK_` (R336, R346). -/
def writePwr (ses : Bool) (off : Nat) (w : Width) (v : W64) (clk : Clock) (n : Node) : Node :=
  let one (i : Nat) : Bool := bit (wval w v) i
  if off = 0x80000 then writePwrCtl ses w v clk n
  else if off = 0x80010 then (if one 0 then releasePads clk n else n)
  else if off = 0x80018 then cfgReg off ses w v (fmask 26 14 ||| fmask 0 10) 56 limitOk n.pwr.limit (fun c => modPwr (fun p => { p with limit := c })) n
  else if off = 0x80020 then modPwr (fun p => { p with uncapp := p.uncapp && !one 12 }) n
  else if off = 0x80028 then modPwr (fun p => { p with tripped := p.tripped && !one 40 }) n
  else if off = 0x80030 then cfgReg off ses w v (fmask 0 20) 32 avsOk n.pwr.avsCfg (fun c => modPwr (fun p => { p with avsCfg := c })) n
  else if off = 0x80038 then modPwr (fun p => { p with fnDelayed := w1c w v 0xFFFFFFFFFFFFFFFF p.fnDelayed }) n
  else if 0x80040 ≤ off && off < 0x80070 then modRail ((off - 0x80040) / 8) (fun x => { x with fault := x.fault && !one 32 }) n
  else if off = 0x81000 then modPwr (fun p => { p with lockLost := p.lockLost && !one 2 }) n
  else n
/-- The MSI-X table (Table 11-3): the vector control of vector `off` / 16 is the upper half of its second word; a vector unmasked while pending is sent. -/
def writeMsix (f : Nat) (off : Nat) (w : Width) (v : W64) (n : Node) : Node :=
  let i := off / 8
  let vec := off / 16
  let x := getFn n f
  let cur : W64 := ((mget x.msixTab i).getD 0 &&& fmask 0 (if i % 2 = 0 then 64 else 32)) ||| (if i % 2 = 1 && !x.unmasked.contains vec then fmask 32 1 else 0)
  let new := merged w v cur
  if i % 2 = 0 then modFn f (fun x => { x with msixTab := mset x.msixTab i (new &&& ~~~(fmask 0 2)) }) n
  else
    let masked := bit new 32
    sendPend f (modFn f (fun x => { x with
      msixTab := mset x.msixTab i (new &&& fmask 0 32)
      unmasked := if masked then x.unmasked.filter (· != vec) else nubNat (x.unmasked ++ [vec]) }) n)
/-- Configuration space (R232, log 162): Device Control at 0x58, Device Control 2 at 0x78 (completion timeout, 10-bit Tag Requester Enable), MSI-X Message Control at 0x92 (enable and function
mask). A write of the power state or of a function-level reset is a row of its own. -/
def writeConfig (f off : Nat) (w : Width) (v : W64) (n : Node) : Node :=
  let x := getFn n f
  let new (cur : W16) (at_ : Nat) (mask : W16) : W16 := (merged w v (cur.setWidth 64 <<< at_) >>> at_).setWidth 16 &&& mask
  if off = 0x58 then modFn f (fun y => { y with devCtl := new x.devCtl 0 0x79FF }) n
  else if off = 0x78 then modFn f (fun y => { y with devCtl2 := new x.devCtl2 0 0x101F }) n
  else if off = 0x90 then sendPend f (modFn f (fun y => { y with msixCtl := new x.msixCtl 16 0xC000 }) n)
  else n

/-! ### The write -/

/-- A write at BAR2 offset `off` that the function may do. -/
def writeBar2 (f : Nat) (off : Nat) (w : Width) (v : W64) (clk : Clock) (n : Node) : Node :=
  let ses := (getFn n f).session.isSome
  let pf := f == 0
  if off = 0x1000 then modBoot (fun b => { b with rebuilt := b.rebuilt && !bit (wval w v) 48 }) n
  else if off = 0x1020 then (if pf then modBoot (fun b => { b with drain := plainWrite ses w v (fmask 0 32) b.drain }) n else n)
  else if 0x10000 ≤ off && off < 0x20000 then writeHif f ses off w v clk n
  else if 0x50000 ≤ off && off < 0x58000 then
    let p := (off - 0x50000) / 0x1000
    if (getP n p).st == .absent || !(pf || (getFn n f).map == some p) then n else writePtn pf p ses (off % 0x1000) w v clk n
  else if !pf then n
  else if 0x20000 ≤ off && off < 0x30000 then writeQos ses off w v clk n
  else if 0x30000 ≤ off && off < 0x40000 then writeLnk ses off w v clk n
  else if 0x60000 ≤ off && off < 0x70000 then writeMem ses off w v n
  else if off = 0x70000 then cfgReg off ses w v (fmask 0 32) 32 flsOk n.flash.cfg (fun c => modFls (fun x => { x with cfg := c })) n
  else if 0x80000 ≤ off && off < 0x90000 then writePwr ses off w v clk n
  else n
/-- W1C bits of a register of function `f` that the node has set in this CTL cycle. -/
def setNow (f off : Nat) (n : Node) : W64 :=
  n.pwr.w1cSets.foldl (fun m x => if x.1 = (if off = 0x10000 then aqKey f else off) then m ||| fmask x.2 1 else m) 0
/-- What is written once a set in the same CTL cycle has won over its clearing (R8). -/
def afterSets (m : W64) (w : Width) (v : W64) : W64 := match w with
  | .hi => v &&& ~~~(m >>> 32)
  | _ => v &&& ~~~m
/-- A register write of a function (a write of BAR0 is a doorbell, R240): it needs a function the host reaches, an aligned offset and, while only the always-on domain answers, `PWR_CTL` or `PWR_PAD_RELEASE` (R336). -/
def registerWrite (f : Nat) (bar : Bar) (off : Nat) (w : Width) (v : W64) (clk : Clock) (n : Node) : Node :=
  if !reach n || !(getFn n f).enabled || off % 8 != 0 || bar == .bar0 then n
  else if bar == .config then writeConfig f off w v n
  else if aonOnly n && !(bar == .bar2 && (off == 0x80000 || off == 0x80010)) then lostWrite n
  else match bar with
    | .bar2 => writeBar2 f off w (afterSets (setNow f off n) w v) clk n
    | .bar0 | .config => n
    | .bar4 => if off < 0x8000 then writeMsix f off w v n else n
def execRegisterWrite (e : Env) (fn : Nat) (bar : Bar) (off : Nat) (w : Width) (v : W64) (s : State) : Host.Outcome State Fault Refusal :=
  runAon e (fun clk _ n => registerWrite fn bar off w v clk n) s

/-! ### Registers with rows of their own -/

/-- `LNK_NODE_ID` (R261). -/
def execLnkNodeId (e : Env) (fn : Nat) (v : W64) (s : State) : Host.Outcome State Fault Refusal :=
  runAon e (fun clk _ n => registerWrite fn .bar2 0x30000 .full v clk n) s
/-- `LNK_PING` (R262). -/
def execLnkPing (e : Env) (fn : Nat) (dst : W32) (s : State) : Host.Outcome State Fault Refusal :=
  runAon e (fun clk _ n => registerWrite fn .bar2 0x30018 .full (dst.setWidth 64) clk n) s
/-- `LINK_ENABLE` (R259). -/
def execLinkEnable (e : Env) (fn link : Nat) (v : Bool) (s : State) : Host.Outcome State Fault Refusal :=
  runAon e (fun clk _ n => if link < 36 then registerWrite fn .bar2 (0x30100 + 8 * link) .full (put 0 12 1 (b2n v)) clk n else n) s
/-- `PTN_BUDDY` (R320). -/
def execPtnBuddy (e : Env) (fn p : Nat) (v : W64) (s : State) : Host.Outcome State Fault Refusal :=
  runAon e (fun clk _ n => if p < 8 then registerWrite fn .bar2 (0x50520 + 0x1000 * p) .full v clk n else n) s

end Sys2Proof.Machine
end

