-- ==== Sys2Proof/Machine/Dispatch.lean ====
section
/-! DEFINITION. One arm per constructor of `Instr`: the meaning of each command. -/

namespace Sys2Proof.Machine

def exec (i : Instr) (s : State) : Host.Outcome State Fault Refusal :=
  match i with
  | .perstNAssert e => Sys2Proof.Machine.execPerstNAssert e s
  | .perstNDeassert e straps => Sys2Proof.Machine.execPerstNDeassert e straps s
  | .vrPgRise e rail => Sys2Proof.Machine.execVrPgRise e rail s
  | .vrPgTimeout e rail => Sys2Proof.Machine.execVrPgTimeout e rail s
  | .vrPgFall e rail => Sys2Proof.Machine.execVrPgFall e rail s
  | .imageReadDone e => Sys2Proof.Machine.execImageReadDone e s
  | .imageVerified e => Sys2Proof.Machine.execImageVerified e s
  | .repairMapApplied e => Sys2Proof.Machine.execRepairMapApplied e s
  | .nodeSectionApplied e => Sys2Proof.Machine.execNodeSectionApplied e s
  | .tier1Trained e => Sys2Proof.Machine.execTier1Trained e s
  | .tier2Trained e dimms => Sys2Proof.Machine.execTier2Trained e dimms s
  | .repairTestEnd e found => Sys2Proof.Machine.execRepairTestEnd e found s
  | .readyStep e => Sys2Proof.Machine.execReadyStep e s
  | .trialTimeout e => Sys2Proof.Machine.execTrialTimeout e s
  | .collectionMount e p c readable => Sys2Proof.Machine.execCollectionMount e p c readable s
  | .queueCreate e q => Sys2Proof.Machine.execQueueCreate e q s
  | .queueDelete e q => Sys2Proof.Machine.execQueueDelete e q s
  | .queueReset e q => Sys2Proof.Machine.execQueueReset e q s
  | .queueResetDone e q => Sys2Proof.Machine.execQueueResetDone e q s
  | .sessionOpenPhase0 e q => Sys2Proof.Machine.execSessionOpenPhase0 e q s
  | .sessionOpenPhase1 e q => Sys2Proof.Machine.execSessionOpenPhase1 e q s
  | .sessionLockoutEnd e slot => Sys2Proof.Machine.execSessionLockoutEnd e slot s
  | .sessionClose e q => Sys2Proof.Machine.execSessionClose e q s
  | .sessionKeySet e q => Sys2Proof.Machine.execSessionKeySet e q s
  | .sessionKeyErase e q => Sys2Proof.Machine.execSessionKeyErase e q s
  | .attnAck e q => Sys2Proof.Machine.execAttnAck e q s
  | .imageWrite e q form => Sys2Proof.Machine.execImageWrite e q form s
  | .imageVerify e q => Sys2Proof.Machine.execImageVerify e q s
  | .imageSelect e q => Sys2Proof.Machine.execImageSelect e q s
  | .imageCommit e q => Sys2Proof.Machine.execImageCommit e q s
  | .partitionImageLoad e q => Sys2Proof.Machine.execPartitionImageLoad e q s
  | .liveLoadDrainEnd e p => Sys2Proof.Machine.execLiveLoadDrainEnd e p s
  | .drainLimit e p => Sys2Proof.Machine.execDrainLimit e p s
  | .spdmGetVersion e tr => Sys2Proof.Machine.execSpdmGetVersion e tr s
  | .spdmGetCapabilities e tr => Sys2Proof.Machine.execSpdmGetCapabilities e tr s
  | .spdmNegotiateAlgorithms e tr algs => Sys2Proof.Machine.execSpdmNegotiateAlgorithms e tr algs s
  | .spdmGetDigests e tr => Sys2Proof.Machine.execSpdmGetDigests e tr s
  | .spdmGetCertificate e tr off len => Sys2Proof.Machine.execSpdmGetCertificate e tr off len s
  | .spdmChallenge e tr nonce => Sys2Proof.Machine.execSpdmChallenge e tr nonce s
  | .spdmGetMeasurements e tr index nonce => Sys2Proof.Machine.execSpdmGetMeasurements e tr index nonce s
  | .collectionCreate e q => Sys2Proof.Machine.execCollectionCreate e q s
  | .collectionDrop e q => Sys2Proof.Machine.execCollectionDrop e q s
  | .generationLoad e q parts => Sys2Proof.Machine.execGenerationLoad e q parts s
  | .generationSwap e q => Sys2Proof.Machine.execGenerationSwap e q s
  | .swapFreeze e p c => Sys2Proof.Machine.execSwapFreeze e p c s
  | .swapCommit e p c => Sys2Proof.Machine.execSwapCommit e p c s
  | .swapLimit e p c => Sys2Proof.Machine.execSwapLimit e p c s
  | .generationDiscard e q => Sys2Proof.Machine.execGenerationDiscard e q s
  | .shardExport e q => Sys2Proof.Machine.execShardExport e q s
  | .insertCmd e q => Sys2Proof.Machine.execInsertCmd e q s
  | .deleteCmd e q => Sys2Proof.Machine.execDeleteCmd e q s
  | .upsertCmd e q => Sys2Proof.Machine.execUpsertCmd e q s
  | .commitPoint e p c seq => Sys2Proof.Machine.execCommitPoint e p c seq s
  | .recordRestore e p c r => Sys2Proof.Machine.execRecordRestore e p c r s
  | .search e q => Sys2Proof.Machine.execSearch e q s
  | .audit e q => Sys2Proof.Machine.execAudit e q s
  | .routeExpansion e p qy => Sys2Proof.Machine.execRouteExpansion e p qy s
  | .gatherDeadline e p => Sys2Proof.Machine.execGatherDeadline e p s
  | .passLaunch e p core => Sys2Proof.Machine.execPassLaunch e p core s
  | .passEnd e p pass => Sys2Proof.Machine.execPassEnd e p pass s
  | .pressUnit e p pass blk core => Sys2Proof.Machine.execPressUnit e p pass blk core s
  | .selectTop e p qy => Sys2Proof.Machine.execSelectTop e p qy s
  | .fanout e link m => Sys2Proof.Machine.execFanout e link m s
  | .partialResult e link m => Sys2Proof.Machine.execPartialResult e link m s
  | .mergeWaitExpiry e p inst => Sys2Proof.Machine.execMergeWaitExpiry e p inst s
  | .closure e link m => Sys2Proof.Machine.execClosure e link m s
  | .modelBatchLaunch e p model => Sys2Proof.Machine.execModelBatchLaunch e p model s
  | .modelLayerFetched e p model => Sys2Proof.Machine.execModelLayerFetched e p model s
  | .modelBatchEnd e p batch => Sys2Proof.Machine.execModelBatchEnd e p batch s
  | .modelLoad e ph => Sys2Proof.Machine.execModelLoad e ph s
  | .tableCreate e q => Sys2Proof.Machine.execTableCreate e q s
  | .tableDrop e q => Sys2Proof.Machine.execTableDrop e q s
  | .tableWrite e q => Sys2Proof.Machine.execTableWrite e q s
  | .tableRead e q => Sys2Proof.Machine.execTableRead e q s
  | .poolCmd e q => Sys2Proof.Machine.execPoolCmd e q s
  | .updateCmd e q => Sys2Proof.Machine.execUpdateCmd e q s
  | .addApplied e p add => Sys2Proof.Machine.execAddApplied e p add s
  | .migrationCopyWritten e p t row => Sys2Proof.Machine.execMigrationCopyWritten e p t row s
  | .migrationCutover e p t row => Sys2Proof.Machine.execMigrationCutover e p t row s
  | .hotRowBackoffMove e p t row => Sys2Proof.Machine.execHotRowBackoffMove e p t row s
  | .objectAlloc e q => Sys2Proof.Machine.execObjectAlloc e q s
  | .objectFree e q => Sys2Proof.Machine.execObjectFree e q s
  | .objectPolicy e q => Sys2Proof.Machine.execObjectPolicy e q s
  | .objectWrite e q => Sys2Proof.Machine.execObjectWrite e q s
  | .objectRead e q => Sys2Proof.Machine.execObjectRead e q s
  | .heatAge e => Sys2Proof.Machine.execHeatAge e s
  | .pageMigrationCutover e page => Sys2Proof.Machine.execPageMigrationCutover e page s
  | .patrolScrub e finds => Sys2Proof.Machine.execPatrolScrub e finds s
  | .heldAccess e p => Sys2Proof.Machine.execHeldAccess e p s
  | .stackBudgetWindow e stack temp => Sys2Proof.Machine.execStackBudgetWindow e stack temp s
  | .darnerBackoff e chan waited => Sys2Proof.Machine.execDarnerBackoff e chan waited s
  | .cartPresent e slot => Sys2Proof.Machine.execCartPresent e slot s
  | .cartIdentified e slot id => Sys2Proof.Machine.execCartIdentified e slot id s
  | .cartRemoved e slot => Sys2Proof.Machine.execCartRemoved e slot s
  | .lifeRecordWrite e slot => Sys2Proof.Machine.execLifeRecordWrite e slot s
  | .cartRelease e q => Sys2Proof.Machine.execCartRelease e q s
  | .cartAdopt e q => Sys2Proof.Machine.execCartAdopt e q s
  | .flashAlloc e q => Sys2Proof.Machine.execFlashAlloc e q s
  | .flashFree e q => Sys2Proof.Machine.execFlashFree e q s
  | .flashWrite e q => Sys2Proof.Machine.execFlashWrite e q s
  | .flashRead e q => Sys2Proof.Machine.execFlashRead e q s
  | .mapPageRead e slot page => Sys2Proof.Machine.execMapPageRead e slot page s
  | .mapPageWriteback e slot page => Sys2Proof.Machine.execMapPageWriteback e slot page s
  | .writeStageFlush e obj blk set => Sys2Proof.Machine.execWriteStageFlush e obj blk set s
  | .programDone e prog => Sys2Proof.Machine.execProgramDone e prog s
  | .programFailure e bad set => Sys2Proof.Machine.execProgramFailure e bad set s
  | .fold e slot set => Sys2Proof.Machine.execFold e slot set s
  | .foldRemap e slot set => Sys2Proof.Machine.execFoldRemap e slot set s
  | .wringer e slot die set => Sys2Proof.Machine.execWringer e slot die set s
  | .eraseFailure e slot bad passes => Sys2Proof.Machine.execEraseFailure e slot bad passes s
  | .discard e q => Sys2Proof.Machine.execDiscard e q s
  | .secureDiscard e q => Sys2Proof.Machine.execSecureDiscard e q s
  | .doorbell e q sq cq => Sys2Proof.Machine.execDoorbell e q sq cq s
  | .aqEnable e fn => Sys2Proof.Machine.execAqEnable e fn s
  | .aqDisable e fn => Sys2Proof.Machine.execAqDisable e fn s
  | .functionLevelReset e fn => Sys2Proof.Machine.execFunctionLevelReset e fn s
  | .vfEnable e num => Sys2Proof.Machine.execVfEnable e num s
  | .d3hotEntry e fn => Sys2Proof.Machine.execD3hotEntry e fn s
  | .d0Entry e fn => Sys2Proof.Machine.execD0Entry e fn s
  | .hostReadFailure e q what => Sys2Proof.Machine.execHostReadFailure e q what s
  | .cqVectorTimer e q => Sys2Proof.Machine.execCqVectorTimer e q s
  | .heartbeat e => Sys2Proof.Machine.execHeartbeat e s
  | .functionMap e q => Sys2Proof.Machine.execFunctionMap e q s
  | .threadWatchdog e p ctx => Sys2Proof.Machine.execThreadWatchdog e p ctx s
  | .coreWatchdog e p core ctx => Sys2Proof.Machine.execCoreWatchdog e p core ctx s
  | .queueWatchdog e p q => Sys2Proof.Machine.execQueueWatchdog e p q s
  | .coreFault e p core check context => Sys2Proof.Machine.execCoreFault e p core check context s
  | .laneFailure e core slice lane => Sys2Proof.Machine.execLaneFailure e core slice lane s
  | .partitionReset e q => Sys2Proof.Machine.execPartitionReset e q s
  | .partitionResetEnd e p => Sys2Proof.Machine.execPartitionResetEnd e p s
  | .partitionRestore e q => Sys2Proof.Machine.execPartitionRestore e q s
  | .restoreEnd e p => Sys2Proof.Machine.execRestoreEnd e p s
  | .faultLogRead e q => Sys2Proof.Machine.execFaultLogRead e q s
  | .spareEngage e q => Sys2Proof.Machine.execSpareEngage e q s
  | .coreSwap e c => Sys2Proof.Machine.execCoreSwap e c s
  | .coreSwapBlockRestart e pcore => Sys2Proof.Machine.execCoreSwapBlockRestart e pcore s
  | .coreSwapCutover e pcore => Sys2Proof.Machine.execCoreSwapCutover e pcore s
  | .bankSpare e chan pos => Sys2Proof.Machine.execBankSpare e chan pos s
  | .bankSpareCutover e chan => Sys2Proof.Machine.execBankSpareCutover e chan s
  | .ownershipRelease e q => Sys2Proof.Machine.execOwnershipRelease e q s
  | .ownershipClaim e q => Sys2Proof.Machine.execOwnershipClaim e q s
  | .claimTimeout e p k c => Sys2Proof.Machine.execClaimTimeout e p k c s
  | .ownershipResolve e q => Sys2Proof.Machine.execOwnershipResolve e q s
  | .ownRelease e link m => Sys2Proof.Machine.execOwnRelease e link m s
  | .ownClaim e link m => Sys2Proof.Machine.execOwnClaim e link m s
  | .ownState e link m => Sys2Proof.Machine.execOwnState e link m s
  | .epochBoundary e p => Sys2Proof.Machine.execEpochBoundary e p s
  | .mirrorSendTimer e p c => Sys2Proof.Machine.execMirrorSendTimer e p c s
  | .durabilityHold e p c => Sys2Proof.Machine.execDurabilityHold e p c s
  | .mirrorWrite e link m => Sys2Proof.Machine.execMirrorWrite e link m s
  | .snapshotTake e q => Sys2Proof.Machine.execSnapshotTake e q s
  | .snapshotTakeRestore e q => Sys2Proof.Machine.execSnapshotTakeRestore e q s
  | .snapChunk e link m => Sys2Proof.Machine.execSnapChunk e link m s
  | .recoverRead e link m => Sys2Proof.Machine.execRecoverRead e link m s
  | .recoverData e link m => Sys2Proof.Machine.execRecoverData e link m s
  | .ackMsg e link m => Sys2Proof.Machine.execAckMsg e link m s
  | .resendTimeout e seq => Sys2Proof.Machine.execResendTimeout e seq s
  | .levelReject e link m => Sys2Proof.Machine.execLevelReject e link m s
  | .ping e link m => Sys2Proof.Machine.execPing e link m s
  | .pingReply e link m => Sys2Proof.Machine.execPingReply e link m s
  | .lnkPing e fn dst => Sys2Proof.Machine.execLnkPing e fn dst s
  | .pingTimeout e => Sys2Proof.Machine.execPingTimeout e s
  | .messageForward e link m => Sys2Proof.Machine.execMessageForward e link m s
  | .flit e link f => Sys2Proof.Machine.execFlit e link f s
  | .replayTimeout e link => Sys2Proof.Machine.execReplayTimeout e link s
  | .retrainTimeout e link => Sys2Proof.Machine.execRetrainTimeout e link s
  | .creditStall e link cls pool => Sys2Proof.Machine.execCreditStall e link cls pool s
  | .laneFailed e link lane => Sys2Proof.Machine.execLaneFailed e link lane s
  | .capabilityRecord e link rec => Sys2Proof.Machine.execCapabilityRecord e link rec s
  | .trainTimeout e link => Sys2Proof.Machine.execTrainTimeout e link s
  | .linkDownRetry e link => Sys2Proof.Machine.execLinkDownRetry e link s
  | .lnkNodeId e fn v => Sys2Proof.Machine.execLnkNodeId e fn v s
  | .refillInstant e => Sys2Proof.Machine.execRefillInstant e s
  | .wheelSlotDue e link cls owner => Sys2Proof.Machine.execWheelSlotDue e link cls owner s
  | .powerSet e q => Sys2Proof.Machine.execPowerSet e q s
  | .partitionPower e q => Sys2Proof.Machine.execPartitionPower e q s
  | .entryDrainLimit e en => Sys2Proof.Machine.execEntryDrainLimit e en s
  | .entryCommit e en => Sys2Proof.Machine.execEntryCommit e en s
  | .partitionGate e p => Sys2Proof.Machine.execPartitionGate e p s
  | .wake e fn => Sys2Proof.Machine.execWake e fn s
  | .bmcWakeMessage e => Sys2Proof.Machine.execBmcWakeMessage e s
  | .wakeHold e => Sys2Proof.Machine.execWakeHold e s
  | .wakeFailure e => Sys2Proof.Machine.execWakeFailure e s
  | .pwrPadRelease e fn => Sys2Proof.Machine.execPwrPadRelease e fn s
  | .autoRelease e => Sys2Proof.Machine.execAutoRelease e s
  | .partitionWakeDone e p => Sys2Proof.Machine.execPartitionWakeDone e p s
  | .powerSample e watts => Sys2Proof.Machine.execPowerSample e watts s
  | .junctionSample e cmp0 cmp1 iod => Sys2Proof.Machine.execJunctionSample e cmp0 cmp1 iod s
  | .thermalTrip e temp => Sys2Proof.Machine.execThermalTrip e temp s
  | .avsAdjust e rail temp => Sys2Proof.Machine.execAvsAdjust e rail temp s
  | .avsResponse e rail r => Sys2Proof.Machine.execAvsResponse e rail r s
  | .avsSettleTimeout e rail => Sys2Proof.Machine.execAvsSettleTimeout e rail s
  | .lockLost e => Sys2Proof.Machine.execLockLost e s
  | .registerWrite e fn bar off w v => Sys2Proof.Machine.execRegisterWrite e fn bar off w v s
  | .collectiveDefine e q => Sys2Proof.Machine.execCollectiveDefine e q s
  | .hostLinkUp e => Sys2Proof.Machine.execHostLinkUp e s
  | .linkTrained e link => Sys2Proof.Machine.execLinkTrained e link s
  | .linkTrainingLost e link => Sys2Proof.Machine.execLinkTrainingLost e link s
  | .linkEnable e fn link v => Sys2Proof.Machine.execLinkEnable e fn link v s
  | .ptnBuddy e fn p v => Sys2Proof.Machine.execPtnBuddy e fn p v s
  | .vfDisable e num => Sys2Proof.Machine.execVfDisable e num s
  | .rootPllRelock e => Sys2Proof.Machine.execRootPllRelock e s
  | .wakeComplete e => Sys2Proof.Machine.execWakeComplete e s
  | .powerLoss e => Sys2Proof.Machine.execPowerLoss e s
  | .eraseDone e slot set => Sys2Proof.Machine.execEraseDone e slot set s

end Sys2Proof.Machine
end

