-- ==== Sys2Proof/Machine/Reads.lean ====
section
/-! DEFINITION. What a 64-bit read of a register returns (R6, R7, R235): the registers that State holds whole, and those that State determines. No command of the table is a read: a read
changes nothing (R7). -/

namespace Sys2Proof.Machine

/-! ### Codes -/

/-- Table 3-13. -/
def CollSt.code : CollSt → Nat
  | .mounting => 1
  | .serving => 2
  | .swapping => 3
  | .readOnly => 4
  | .failed => 5
  | .frozen => 6
  | .created => 7
/-- Table 8-8. -/
def TblSt.code : TblSt → Nat
  | .ready => 1
  | .draining => 2
  | .frozen => 3

/-! ### `NODE_`, `IMG_`, `SEC_` -/

def isDeep (n : Node) (c : PCore) : Bool := c.lcore != 0xFF && (deepCores.contains c.lcore || (c.ptn < 8 && deepOf (getP n c.ptn) == some c.lcore))
/-- Table 1-4. -/
def coreState (n : Node) (i : Nat) : W64 :=
  let c := vget n.cores i
  word [(17, 1, b2n (isDeep n c)), (16, 1, dieOfCore i), (12, 4, c.st.code), (8, 4, c.ptn), (0, 8, c.lcore)]
/-- Tables 1-8 to 1-12. -/
def caps0 : W64 := 0x0408021080044044
def caps1 : W64 := 0x000040143F2F1F0F
def t2Active (n : Node) : List T2 := n.mem.t2.toList.filter (fun t => t.st == 1)
def t2Gib (n : Node) : Nat := ((t2Active n).map (·.gib)).foldl (· + ·) 0
/-- `NODE_CAPS2`: the reset value until boot step 8 has found what is fitted; then it stays. -/
def caps2 (n : Node) : W64 :=
  let found := n.boot.done.contains 8
  word [(48, 16, if found then t2Gib n else 0x600), (32, 16, 0x200), (24, 8, if found then (n.mem.t2.toList.filter (fun t => t.st != 0)).length else 0x0C), (16, 8, 0x20), (8, 8, 0x10), (0, 8, 0x08)]
def caps3 : W64 := 0x0000340206240420
def caps4 : W64 := 0x0040160B3F101000
/-- Table 2-7: the highest step completed; steps 7 to 9 run in parallel. -/
def bootStep (n : Node) : Nat := max n.boot.step (n.boot.done.foldl max 0)
def imgStatus (n : Node) : W64 :=
  let b := n.boot
  word [(48, 1, b2n b.rebuilt), (40, 8, b.failB), (32, 8, b.failA), (24, 8, bootStep n), (4, 4, b.mode), (2, 1, b.slot), (1, 1, b2n b.liveTok.isSome), (0, 1, b2n b.ready)]
def imgLevels (n : Node) : W64 :=
  word [(32, 32, (n.boot.image.map (·.secVer.toNat)).getD 0), (24, 8, imgProto n), (16, 8, imgFmt n), (12, 4, 4), (8, 4, 3), (4, 4, 4), (0, 4, 2)]
def imgPtnSrc (n : Node) : W64 :=
  word (((List.range 8).map (fun p => [(4 * p + 3, 1, b2n ((getP n p).st != .absent)), (4 * p + 2, 1, (getP n p).srcSlot)])).flatten)
def readNode (clk : Clock) (n : Node) (off : Nat) : W64 :=
  if off = 0x000 then 0xBE5A0760B10A0000
  else if off = 0x040 then caps0
  else if off = 0x048 then caps1
  else if off = 0x050 then caps2 n
  else if off = 0x058 then caps3
  else if off = 0x060 then caps4
  else if off = 0x080 then BitVec.ofNat 64 clk.node
  else if 0x200 ≤ off && off < 0x420 then coreState n ((off - 0x200) / 8)
  else 0
def readImg (n : Node) (off : Nat) : W64 :=
  if off = 0x1000 then imgStatus n
  else if off = 0x1008 then (n.boot.image.map (·.imageVer)).getD 0
  else if off = 0x1010 then imgLevels n
  else if off = 0x1018 then imgPtnSrc n
  else if off = 0x1020 then n.boot.drain
  else 0
def readSec (clk : Clock) (n : Node) (f off : Nat) : W64 :=
  if off = 0x1100 then word [(0, 32, n.bflash.counter)]
  else if off = 0x1108 then (match (getFn n f).session with
    | some s => word [(1, 3, s), (0, 1, 1)]
    | none => 0)
  else if off = 0x1110 && f == 0 then
    word [(8, 8, ((List.range 8).map (fun s => b2n (lockedAt clk (getKey n s)) * 2 ^ s)).foldl (· + ·) 0), (0, 8, ((List.range 8).map (fun s => b2n (getKey n s).key.isSome * 2 ^ s)).foldl (· + ·) 0)]
  else 0

/-! ### `HIF_` -/

/-- Table 11-22; zero for a pair that does not exist. -/
def qState (n : Node) (f q : Nat) : W64 := match getQ n f q with
  | none => 0
  | some x => word [(48, 16, x.sqHead), (32, 16, sat 16 x.cmds.length), (24, 8, x.weight), (4, 2, x.cls), (0, 3, x.st.code)]
/-- Table 11-18. -/
def hifFunc (n : Node) (f : Nat) : W64 :=
  word [(32, 32, 4096 - ioCount n), (16, 16, ((getFn n f).queues.filter (fun q => q.1 != 0)).length), (8, 4, (getFn n f).map.getD 0xF), (0, 6, f)]
def readHif (n : Node) (f off : Nat) : W64 :=
  let x := getFn n f
  if off = 0x10000 then x.aqCtl
  else if off = 0x10008 then x.aqSq
  else if off = 0x10010 then x.aqCq
  else if off = 0x10018 then word [(16, 32, x.attnSeq.toNat), (0, 16, x.attn.toNat)]
  else if off = 0x10020 then hifFunc n f
  else if off = 0x10028 then x.hbMissed
  else if off = 0x10030 then x.dbErr
  else if 0x10100 ≤ off && off < 0x10140 then (getP n ((off - 0x10100) / 8)).arb.cfg
  else if 0x10800 ≤ off && off ≤ 0x18800 then qState n f ((off - 0x10800) / 8)
  else 0

/-! ### `PTN_` -/

/-- Table 3-12; slot 256p + s is slot s of partition p. A virtual function reads its own partition's slots (R65). `GEN_LO` and `FMT` of a collection that is MOUNTING or FAILED read 0, though its
root record names a generation (DESIGN CHOICE, log 164). -/
def collState (n : Node) (f c : Nat) : W64 :=
  let p := c / 256
  let x := getP n p
  let mine := f == 0 || (getFn n f).map == some p
  match if mine then mget x.colls (c % 256) else none with
  | none => if mine then word [(8, 4, 0xF)] else 0
  | some y =>
    let g := y.cur
    word [(32, 32, (g.map (·.hdr.gen.toNat)).getD 0), (24, 8, in256 (usedChunks x).length (poolSize x)), (20, 4, (g.map (·.hdr.fmt)).getD 0), (16, 4, y.desc.metric),
      (12, 4, y.desc.skw), (8, 4, p), (0, 4, y.st.code)]
/-- Table 7-6. -/
def mdlState (x : Ptn) (m : Nat) : W64 :=
  let y := (mget x.mdls m).getD {}
  let st := match modelOf x m with
    | none => 4
    | some _ => if y.cur.isSome then (if y.load.isSome then 3 else 2) else if y.load.isSome then 1 else 0
  word [(48, 16, y.version), (8, 1, b2n ((modelOf x m).any (fun d => d.flags.testBit 1))), (0, 4, st)]
/-- Table 8-7. -/
def tblState (x : Ptn) (t : Nat) : W64 := match mget x.tbls t with
  | none => 0
  | some y => word [(32, 32, y.rows), (24, 8, in256 y.dir.length y.hotRows), (20, 4, min 15 y.migs.length), (8, 8, y.width / 16), (4, 1, b2n y.train), (0, 4, y.st.code)]
/-- A counter of the partition by its offset; `PTN_T2_SECTORS_SAVED` is what the compressed pages save now (Table 9-21). -/
def t2Saved (n : Node) (p : Nat) : Nat := ((pagesOf n p).map (fun g => if g.2.tier = 1 && g.2.mode == 2 then 15 - g.2.sectors else 0)).foldl (· + ·) 0
def ptnCounter (n : Node) (p off : Nat) : W64 :=
  if off = 0x440 then BitVec.ofNat 64 (t2Saved n p)
  else match ptnCtrOffs.findIdx? (· == off) with
    | some i => vget (getP n p).ctrs i
    | none => 0
def readPtn (clk : Clock) (n : Node) (p off : Nat) : W64 :=
  let x := getP n p
  if off = 0x000 then BitVec.ofNat 64 (pctr clk p)
  else if off = 0x008 then word [(32, 32, liveCtx x), (0, 32, x.share)]
  else if off = 0x038 then x.qryCfg
  else if off = 0x040 then put x.qntCfg 32 16 (effThr x)
  else if off = 0x0B8 then x.mdlCfg
  else if off = 0x0E8 then x.embCfg
  else if 0x100 ≤ off && off < 0x180 then mdlState x ((off - 0x100) / 8)
  else if 0x200 ≤ off && off < 0x400 then tblState x ((off - 0x200) / 8)
  else if off = 0x400 then word [(32, 32, usedT2 n p), (0, 32, usedT1 n p)]
  else if off = 0x500 then word [(48, 16, sat 16 x.resets), (40, 8, x.inWindow), (24, 8, x.lastKind), (0, 4, x.st.code)]
  else if off = 0x508 then x.wdCfg
  else if off = 0x510 then x.escCfg
  else if off = 0x518 then x.durCfg
  else if off = 0x520 then x.buddy
  else if off = 0x528 then word [(32, 32, x.epoch), (2, 1, b2n x.unprot), (1, 1, b2n x.buddyLost), (0, 1, b2n (durHeldP x))]
  else if 0x540 ≤ off && off < 0x590 then vget x.snapMem ((off - 0x540) / 8)
  else ptnCounter n p off

/-! ### `MEM_`, `FLS_`, `CORE_` -/

/-- Table 9-2. -/
def tmapEntry (g : Page) : W64 :=
  word [(48, 16, g.obj), (44, 4, g.ptn), (38, 2, g.mode), (34, 4, g.sectors), (33, 1, b2n g.mig.isSome), (32, 1, b2n g.pin), (31, 1, g.tier), (30, 1, 1), (0, 30, g.frame)]
def chState (c : Chan) : W64 :=
  word [(40, 8, (c.rowsUsed.map (·.2)).foldl min 64), (33, 1, b2n c.spare), (32, 1, b2n (c.thermal || c.satur)), (30, 2, b2n c.thermal + 2 * b2n c.satur), (8, 4, c.ptn), (0, 8, 0x20)]
def readMem (n : Node) (off : Nat) : W64 :=
  let m := n.mem
  if off = 0x60000 then word [(32, 32, m.rsvT2), (0, 32, m.rsvT1)]
  else if off = 0x60008 then m.migCfg
  else if off = 0x60010 then m.scrubCfg
  else if off = 0x60018 then m.tmapQ
  else if off = 0x60020 then (if m.tmapQ.toNat < (0x200 + t2Gib n) * 16384 then ((mget m.pages m.tmapQ.toNat).map tmapEntry).getD 0 else 0)
  else if 0x60040 ≤ off && off < 0x60080 then
    let s := vget m.stks ((off - 0x60040) / 8)
    word [(8, 8, s.budget / 16), (0, 8, s.temp)]
  else if 0x60080 ≤ off && off < 0x600E0 then
    let t := vget m.t2 ((off - 0x60080) / 8)
    word [(48, 16, t.gib), (32, 16, if t.st = 1 then 0x2260 else 0), (8, 4, t.ptn), (0, 4, t.st)]
  else if 0x60400 ≤ off && off < 0x60800 then chState (vget m.chans ((off - 0x60400) / 8))
  else 0
/-- Table 10-10. -/
def cartState (n : Node) (s : Nat) : W64 :=
  let c := getCart n s
  word [(48, 16, lifeUsed c.life.wear), (40, 8, in256 (onebitFill n s) (onebitLimit n)), (32, 8, if c.serves then in256 (cartBlocks - reservedOn n c.serial) cartBlocks else 0),
    (11, 1, b2n c.life.unsanit), (10, 1, b2n c.safe), (9, 1, b2n c.present), (4, 4, c.why), (0, 4, c.st.code)]
def readFls (n : Node) (off : Nat) : W64 :=
  if off = 0x70000 then n.flash.cfg
  else if 0x70040 ≤ off && off < 0x70060 then cartState n ((off - 0x70040) / 8)
  else if 0x70100 ≤ off && off < 0x70200 then
    let c := getCart n ((off - 0x70100) / 64)
    let i := off % 64 / 8
    BitVec.ofNat 64 (if i = 7 then c.throttle else c.counts.getD i 0)
  else 0
/-- Table 13-13. -/
def coreHealth (clk : Clock) (n : Node) (c : PCore) : W64 := word [(32, 32, sat 32 c.ce), (24, 8, sat 8 (ceInWindow n clk c)), (16, 8, sat 8 c.hangs)]

/-! ### `QOS_`, `LNK_` -/

/-- A virtual function reads its own function's registers (R280). -/
def readQos (n : Node) (f off : Nat) : W64 :=
  let b := n.lnk
  let c := off / 8 % 8
  let sees (g : Nat) : Bool := f == 0 || f == g
  if off < 0x21000 then
    let g := (off - 0x20000) / 64
    if sees g && decide (2 ≤ c) then lastOf b.shape b.pendShape (8 * g + c) else 0
  else if off < 0x21200 then (if f = 0 && decide (2 ≤ c) then lastOf b.svc b.pendSvc (8 * ((off - 0x21000) / 64) + c) else 0)
  else if 0x22000 ≤ off && off < 0x22800 then
    let g := (off - 0x22000) / 32
    let x := vget b.pols g
    if !sees g then 0
    else match off % 32 / 8 with
      | 0 => (x.staged.orElse (fun _ => x.pending.map (·.1))).getD x.rate
      | 1 => (x.pending.map (·.2)).getD x.cfg
      | 2 => word [(32, 32, x.tp), (0, 32, x.tc)]
      | _ => x.held
  else if 0x23000 ≤ off && off < 0x23400 then
    let g := (off - 0x23000) / 16
    if !sees g then 0 else if off % 16 = 0 then (vget b.pols g).green else (vget b.pols g).yellow
  else 0
/-- Table 12-18. -/
def linkState (x : Link) : W64 :=
  let peer := x.peer.getD { nodeId := 0, link := 0, proto := 0, protoMin := 0, fmt := 0, fmtMin := 0, imageVer := 0 }
  let lanes := match x.st with
    | .active => 2
    | .degraded => 1
    | _ => 0
  word [(32, 32, peer.nodeId.toNat), (28, 4, x.level), (24, 4, peer.proto), (20, 4, peer.fmt), (14, 6, peer.link), (13, 1, b2n x.spare), (12, 1, b2n x.enable), (8, 4, x.why), (4, 4, lanes),
    (0, 4, x.st.code)]
def readLnk (n : Node) (off : Nat) : W64 :=
  let b := n.lnk
  if off = 0x30000 then b.nodeId.setWidth 64
  else if off = 0x30008 then b.cfg
  else if off = 0x30010 then b.tcCfg
  else if off = 0x30020 then b.pingRes
  else if 0x30040 ≤ off && off < 0x30070 then BitVec.ofNat 64 (b.counts.getD ((off - 0x30040) / 8) 0)
  else if 0x30100 ≤ off && off < 0x30220 then linkState (getL n ((off - 0x30100) / 8))
  else if 0x30400 ≤ off && off < 0x30D00 then BitVec.ofNat 64 ((getL n ((off - 0x30400) / 64)).counts.getD (off % 64 / 8) 0)
  else if 0x31000 ≤ off && off < 0x39000 then (mget b.routes ((off - 0x31000) / 8)).getD route0
  else 0

/-! ### `PWR_`, `CLK_` -/

def ptnBits (n : Node) (st : PPow) : Nat := ((List.range 8).map (fun p => b2n (present (getP n p) && (getP n p).pow == st) * 2 ^ p)).foldl (· + ·) 0
/-- Table 14-15. -/
def limiter (clk : Clock) (n : Node) : W64 :=
  let w := n.pwr
  let l := windowMs w.samples clk.node (300000 * fld w.limit 26 14)
  word [(48, 16, if l.isEmpty then 0 else sumW l / l.length), (32, 16, (w.samples.head?.map (·.2)).getD 0), (16, 16, excCount w clk.node), (12, 1, b2n w.uncapp),
    (8, 4, b2n (decide (w.capSust < 16)) + 2 * b2n (decide (w.capPeak < 16)) + 4 * b2n (decide (w.capExc < 16)) + 8 * b2n (decide (w.capTherm < 16) || decide (w.capAvs < 16))), (0, 5, capOf w)]
def readPwr (clk : Clock) (n : Node) (off : Nat) : W64 :=
  let w := n.pwr
  if off = 0x80000 then w.ctl
  else if off = 0x80008 then
    word [(24, 8, ptnBits n .gated), (16, 8, ptnBits n .off), (10, 1, b2n w.wakeFail), (9, 1, b2n w.padHeld), (4, 4, if w.st = .entering then w.target else 0), (0, 4, w.st.code)]
  else if off = 0x80018 then w.limit
  else if off = 0x80020 then limiter clk n
  else if off = 0x80028 then
    word [(40, 1, b2n w.tripped), (32, 8, w.tripLast), (24, 8, (n.mem.stks.toList.map (·.temp)).foldl max 0), (16, 8, w.iod), (8, 8, w.cmp1), (0, 8, w.cmp0)]
  else if off = 0x80030 then w.avsCfg
  else if off = 0x80038 then w.fnDelayed
  else if 0x80040 ≤ off && off < 0x80070 then
    let r := getRail n ((off - 0x80040) / 8)
    word [(36, 4, r.why), (32, 1, b2n r.fault), (16, 16, r.target), (0, 16, r.mv)]
  else if 0x80080 ≤ off && off < 0x800C0 then
    let x := getP n ((off - 0x80080) / 8)
    word [(4, 1, b2n x.enPend), (0, 4, x.pow.code)]
  else if 0x80100 ≤ off && off < 0x80130 then [w.wakes, w.abandons, w.capCyc, w.gateCyc, w.avsFault, w.lostWr].getD ((off - 0x80100) / 8) 0
  else if off = 0x81000 then word [(2, 1, b2n w.lockLost), (1, 1, b2n w.refOk), (0, 1, b2n w.rootLock)]
  else if off = 0x81008 then 0x0012C00410060408
  else 0

/-! ### BAR2 and BAR4 -/

def readBar2 (clk : Clock) (n : Node) (f off : Nat) : W64 :=
  let pf := f == 0
  if off < 0x1000 then readNode clk n off
  else if off < 0x1100 then readImg n off
  else if 0x80000 ≤ off && off < 0x90000 then (if pf then readPwr clk n off else 0)
  else if aonOnly n then 0
  else if off < 0x1200 then readSec clk n f off
  else if 0x10000 ≤ off && off < 0x20000 then readHif n f off
  else if 0x20000 ≤ off && off < 0x30000 then readQos n f off
  else if 0x30000 ≤ off && off < 0x40000 then (if pf then readLnk n off else 0)
  else if off = 0x40000 then 0x1008
  else if 0x40100 ≤ off && off < 0x44100 then collState n f ((off - 0x40100) / 8)
  else if 0x50000 ≤ off && off < 0x58000 then
    let p := (off - 0x50000) / 0x1000
    if (getP n p).st != .absent && (pf || (getFn n f).map == some p) then readPtn clk n p (off % 0x1000) else 0
  else if 0x60000 ≤ off && off < 0x70000 then (if pf then readMem n off else 0)
  else if 0x70000 ≤ off && off < 0x80000 then (if pf then readFls n off else 0)
  else if 0x90000 ≤ off && off < 0x90220 then coreHealth clk n (vget n.cores ((off - 0x90000) / 8))
  else 0
/-- The pending bit array: 64 vectors a word. -/
def pendBits (x : Fn) (i : Nat) : W64 := ((List.range 64).filter (fun b => x.pend.contains (64 * i + b))).foldl (fun w b => w ||| fmask b 1) 0
def readBar4 (x : Fn) (off : Nat) : W64 :=
  if off < 0x8000 then
    let i := off / 8
    let w := (mget x.msixTab i).getD 0
    if i % 2 = 0 then w else w ||| (if x.unmasked.contains (off / 16) then 0 else fmask 32 1)
  else if off < 0x8100 then pendBits x ((off - 0x8000) / 8)
  else 0
/-! ### Configuration space (R232, Tables 11-1 and 11-2): the header and the capabilities at their offsets. Their bits are those of PCI Express, which the spec does not lay out. -/

/-- A capability of a function's configuration space. -/
inductive PciCap where
  | powerManagement | pciExpress | msix | errorReporting | serialNumber | ari | secondary | dataLink | phy16 | margining | phy32 | srIov
deriving DecidableEq, Repr
/-- Vendor, device, revision, class, subsystem vendor and subsystem of the physical function. -/
def pciHeader : Nat × Nat × Nat × Nat × Nat × Nat := (0xBE5A, 0x0760, 0xB1, 0x120000, 0xBE5A, 0x0760)
/-- SR-IOV: TotalVFs and InitialVFs, First VF Offset, VF Stride and VF Device ID. -/
def pciSrIov (n : Node) : Nat × Nat × Nat × Nat × Nat := (n.totalVfs, n.totalVfs, 1, 1, 0x0761)
/-- Capability numbers and versions of PCI Express 5.0 (log 162). -/
def PciCap.head : PciCap → Nat × Nat
  | .powerManagement => (0x01, 3)
  | .pciExpress => (0x10, 2)
  | .msix => (0x11, 0)
  | .errorReporting => (0x0001, 2)
  | .serialNumber => (0x0003, 1)
  | .ari => (0x000E, 1)
  | .secondary => (0x0019, 1)
  | .dataLink => (0x0025, 1)
  | .phy16 => (0x0026, 1)
  | .margining => (0x0027, 1)
  | .phy32 => (0x002A, 1)
  | .srIov => (0x0010, 1)
/-- Offsets of the capabilities of the physical function and of a virtual one. -/
def pciCaps (vf : Bool) : List (Nat × PciCap) :=
  if vf then [(0x50, .pciExpress), (0x90, .msix), (0x100, .errorReporting), (0x148, .ari)]
  else [(0x40, .powerManagement), (0x50, .pciExpress), (0x90, .msix), (0x100, .errorReporting), (0x148, .serialNumber), (0x158, .ari), (0x160, .secondary),
    (0x190, .dataLink), (0x1A0, .phy16), (0x1D0, .margining), (0x220, .phy32), (0x260, .srIov)]
/-- MSI-X vectors of a function, and where its table and its pending bits lie in BAR4. -/
def pciMsix : Nat × Nat × Nat := (2048, 0x0000, 0x8000)
/-- Non-posted requests that a function has out at most (R233): with and without 10-bit Tag Requester Enable. -/
def maxNonPosted (x : Fn) : Nat := if x.devCtl2.getLsbD 12 then 768 else 256
/-- Link Status (R231): the trained rate in [3:0], the width in [9:4]. -/
def linkStatus (n : Node) : Nat := n.boot.linkRate + 16 * n.boot.linkWidth
/-- `PowerState` of the power management capability. -/
def powerState (x : Fn) : Nat := if x.dst == .d3hot then 3 else 0
/-- The head of a capability: its number, its version and the offset of the next. -/
def capHead (l : List (Nat × PciCap)) (off : Nat) : Nat := match l.find? (fun c => c.1 == off) with
  | none => 0
  | some c =>
    let next := ((l.find? (fun d => decide (off < d.1 ∧ (d.1 < 0x100) = (off < 0x100)))).map (·.1)).getD 0
    if off < 0x100 then c.2.head.1 + 0x100 * next else c.2.head.1 + 0x10000 * c.2.head.2 + 0x100000 * next
/-- A 32-bit word of a function's configuration space: Tables 11-1 and 11-2 in the layouts of PCI Express 5.0 (log 162); what they do not name reads 0, Interrupt Pin with it. -/
def configWord (n : Node) (f off : Nat) : Nat :=
  let x := getFn n f
  let vf := f != 0
  let caps := pciCaps vf
  let h := capHead caps off
  if off = 0x00 then (if vf then 0xFFFFFFFF else pciHeader.1 + 0x10000 * pciHeader.2.1)
  else if off = 0x08 then pciHeader.2.2.1 + 0x100 * pciHeader.2.2.2.1
  else if off = 0x2C then pciHeader.2.2.2.2.1 + 0x10000 * pciHeader.2.2.2.2.2
  else if off = 0x34 then (if vf then 0x50 else 0x40)
  else if off = 0x40 then (if vf then 0 else h + 0x10000 * 3)
  else if off = 0x44 then (if vf then 0 else powerState x)
  else if off = 0x50 then h + 0x10000 * 2
  else if off = 0x54 then 2 + 2 ^ 5 + 2 ^ 15 + 2 ^ 28
  else if off = 0x58 then x.devCtl.toNat
  else if off = 0x5C then 5 + 16 * 16
  else if off = 0x60 then 0x10000 * linkStatus n
  else if off = 0x74 then 0xE + 2 ^ 4 + 2 ^ 16 + 2 ^ 17
  else if off = 0x78 then x.devCtl2.toNat
  else if off = 0x7C then 0x3E
  else if off = 0x90 then h + 0x10000 * ((pciMsix.1 - 1) + x.msixCtl.toNat)
  else if off = 0x94 then pciMsix.2.1 + 4
  else if off = 0x98 then pciMsix.2.2 + 4
  else if !vf && off = 0x14C then leAt (Config.identityBytes 0) 0 4
  else if !vf && off = 0x150 then leAt (Config.identityBytes 0) 4 4
  else if !vf && off = 0x26C then (pciSrIov n).2.1 + 0x10000 * (pciSrIov n).1
  else if !vf && off = 0x270 then n.numVfs
  else if !vf && off = 0x274 then (pciSrIov n).2.2.1 + 0x10000 * (pciSrIov n).2.2.2.1
  else if !vf && off = 0x278 then 0x10000 * (pciSrIov n).2.2.2.2
  else h

/-! ### A read -/

/-- A 64-bit read by function `f` at an aligned offset; the doorbells of BAR0 are write-only and read zero (R7, Table 11-6); zero where the function may not reach the register (R235) or, while only the always-on domain answers, outside its blocks (R336). -/
def readReg (f : Nat) (bar : Bar) (off : Nat) (s : State) : W64 :=
  let n := s.node
  if !reach n || !(getFn n f).enabled then 0
  else match bar with
    | .bar0 => 0
    | .config => BitVec.ofNat 64 (configWord n f off + 2 ^ 32 * configWord n f (off + 4))
    | .bar2 => readBar2 s.clk n f off
    | .bar4 => if aonOnly n then 0 else readBar4 (getFn n f) off
/-- A read of the whole register at an aligned offset, or of one 32-bit half of it (R6): the low half at that offset, the high half four bytes above. -/
def readWidth (f : Nat) (bar : Bar) (off : Nat) (w : Width) (s : State) : W64 :=
  let v := readReg f bar off s
  match w with
  | .full => v
  | .lo => v &&& fmask 0 32
  | .hi => v >>> 32

end Sys2Proof.Machine
end

