-- ==== Sys2Proof/WellFormed.lean ====
section
/-! DEFINITION. Operand ranges that the spec gives: functions and queues (R235, R236), partitions (R21), links (Table 1-11), slots, cores and lanes (Table 1-3), channels and stacks
(Table 1-10), message fields (Table 12-5), host addresses of 64 bits. The meanings themselves are total: outside these ranges nothing exists and nothing happens. -/

namespace Sys2Proof

def Env.wf (e : Env) : Bool := e.host.all (fun x => decide (x.1 + x.2.length ≤ 2 ^ 64)) && e.errs.all (fun x => decide (x.chan < 128) && decide (x.pos < 32))
def QRef.wf (q : QRef) : Bool := decide (q.fn < 64) && decide (q.qid ≤ 4096)
def Msg.wf (m : Msg) : Bool :=
  decide (m.kind < 256) && decide (m.level < 256) && decide (m.hops < 64) && decide (m.srcPtn < 8) && decide (m.dstPtn < 8) && decide (m.segment < 2 ^ 24) &&
    decide (m.seq < 2 ^ 64) && decide (m.body.length < 2 ^ 32)
/-- A flit has 256 bytes; what follows its CRC is parity. -/
def RxFlit.wf (f : RxFlit) : Bool := f.bytes.all (fun b => decide (b.length ≤ 256))
def LoadPhase.wf (ph : LoadPhase) : Bool := match ph with
  | .whole q => q.wf
  | .start q => q.wf
  | .finish p m => decide (p < 8) && decide (m < 16)
def EntryRef.wf (en : EntryRef) : Bool := match en with
  | .node => true
  | .ptn p => decide (p < 8)
/-- An aligned offset of the BAR (Table 11-3). -/
def offOk (bar : Bar) (off : Nat) : Bool := off % 8 == 0 && (match bar with
  | .bar0 => decide (off < 0x10000)
  | .bar2 => decide (off < 0x1000000)
  | .bar4 => decide (off < 0x10000)
  | .config => decide (off < 0x1000))

/-- The operands of a command are within the spec's ranges. -/
def wellFormed (i : Instr) : Bool :=
  match i with
  | .perstNAssert e => e.wf
  | .perstNDeassert e _ => e.wf
  | .vrPgRise e rail => e.wf && decide (rail < 5)
  | .vrPgTimeout e rail => e.wf && decide (rail < 5)
  | .vrPgFall e rail => e.wf && decide (rail < 5)
  | .imageReadDone e => e.wf
  | .imageVerified e => e.wf
  | .repairMapApplied e => e.wf
  | .nodeSectionApplied e => e.wf
  | .tier1Trained e => e.wf
  | .tier2Trained e dimms => e.wf && decide (dimms.length ≤ 12)
  | .repairTestEnd e _ => e.wf
  | .readyStep e => e.wf
  | .trialTimeout e => e.wf
  | .collectionMount e p c _ => e.wf && decide (p < 8) && decide (c < 256)
  | .queueCreate e q => e.wf && q.wf
  | .queueDelete e q => e.wf && q.wf
  | .queueReset e q => e.wf && q.wf
  | .queueResetDone e q => e.wf && q.wf
  | .sessionOpenPhase0 e q => e.wf && q.wf
  | .sessionOpenPhase1 e q => e.wf && q.wf
  | .sessionLockoutEnd e slot => e.wf && decide (slot < 8)
  | .sessionClose e q => e.wf && q.wf
  | .sessionKeySet e q => e.wf && q.wf
  | .sessionKeyErase e q => e.wf && q.wf
  | .attnAck e q => e.wf && q.wf
  | .imageWrite e q _ => e.wf && q.wf
  | .imageVerify e q => e.wf && q.wf
  | .imageSelect e q => e.wf && q.wf
  | .imageCommit e q => e.wf && q.wf
  | .partitionImageLoad e q => e.wf && q.wf
  | .liveLoadDrainEnd e p => e.wf && decide (p < 8)
  | .drainLimit e p => e.wf && decide (p < 8)
  | .spdmGetVersion e _ => e.wf
  | .spdmGetCapabilities e _ => e.wf
  | .spdmNegotiateAlgorithms e _ _ => e.wf
  | .spdmGetDigests e _ => e.wf
  | .spdmGetCertificate e _ _ _ => e.wf
  | .spdmChallenge e _ _ => e.wf
  | .spdmGetMeasurements e _ _ _ => e.wf
  | .collectionCreate e q => e.wf && q.wf
  | .collectionDrop e q => e.wf && q.wf
  | .generationLoad e q _ => e.wf && q.wf
  | .generationSwap e q => e.wf && q.wf
  | .swapFreeze e p c => e.wf && decide (p < 8) && decide (c < 256)
  | .swapCommit e p c => e.wf && decide (p < 8) && decide (c < 256)
  | .swapLimit e p c => e.wf && decide (p < 8) && decide (c < 256)
  | .generationDiscard e q => e.wf && q.wf
  | .shardExport e q => e.wf && q.wf
  | .insertCmd e q => e.wf && q.wf
  | .deleteCmd e q => e.wf && q.wf
  | .upsertCmd e q => e.wf && q.wf
  | .commitPoint e p c _ => e.wf && decide (p < 8) && decide (c < 256)
  | .recordRestore e p c _ => e.wf && decide (p < 8) && decide (c < 256)
  | .search e q => e.wf && q.wf
  | .audit e q => e.wf && q.wf
  | .routeExpansion e p _ => e.wf && decide (p < 8)
  | .gatherDeadline e p => e.wf && decide (p < 8)
  | .passLaunch e p core => e.wf && decide (p < 8) && decide (core < 64)
  | .passEnd e p _ => e.wf && decide (p < 8)
  | .pressUnit e p _ _ core => e.wf && decide (p < 8) && decide (core < 64)
  | .selectTop e p _ => e.wf && decide (p < 8)
  | .fanout e link m => e.wf && decide (link ≤ 36) && m.wf
  | .partialResult e link m => e.wf && decide (link ≤ 36) && m.wf
  | .mergeWaitExpiry e p _ => e.wf && decide (p < 8)
  | .closure e link m => e.wf && decide (link ≤ 36) && m.wf
  | .modelBatchLaunch e p model => e.wf && decide (p < 8) && decide (model < 16)
  | .modelLayerFetched e p model => e.wf && decide (p < 8) && decide (model < 16)
  | .modelBatchEnd e p _ => e.wf && decide (p < 8)
  | .modelLoad e ph => e.wf && ph.wf
  | .tableCreate e q => e.wf && q.wf
  | .tableDrop e q => e.wf && q.wf
  | .tableWrite e q => e.wf && q.wf
  | .tableRead e q => e.wf && q.wf
  | .poolCmd e q => e.wf && q.wf
  | .updateCmd e q => e.wf && q.wf
  | .addApplied e p _ => e.wf && decide (p < 8)
  | .migrationCopyWritten e p t _ => e.wf && decide (p < 8) && decide (t < 64)
  | .migrationCutover e p t _ => e.wf && decide (p < 8) && decide (t < 64)
  | .hotRowBackoffMove e p t _ => e.wf && decide (p < 8) && decide (t < 64)
  | .objectAlloc e q => e.wf && q.wf
  | .objectFree e q => e.wf && q.wf
  | .objectPolicy e q => e.wf && q.wf
  | .objectWrite e q => e.wf && q.wf
  | .objectRead e q => e.wf && q.wf
  | .heatAge e => e.wf
  | .pageMigrationCutover e _ => e.wf
  | .patrolScrub e _ => e.wf
  | .heldAccess e p => e.wf && decide (p < 8)
  | .stackBudgetWindow e stack _ => e.wf && decide (stack < 8)
  | .darnerBackoff e chan _ => e.wf && decide (chan < 128)
  | .cartPresent e slot => e.wf && decide (slot < 4)
  | .cartIdentified e slot _ => e.wf && decide (slot < 4)
  | .cartRemoved e slot => e.wf && decide (slot < 4)
  | .lifeRecordWrite e slot => e.wf && decide (slot < 4)
  | .cartRelease e q => e.wf && q.wf
  | .cartAdopt e q => e.wf && q.wf
  | .flashAlloc e q => e.wf && q.wf
  | .flashFree e q => e.wf && q.wf
  | .flashWrite e q => e.wf && q.wf
  | .flashRead e q => e.wf && q.wf
  | .mapPageRead e slot _ => e.wf && decide (slot < 4)
  | .mapPageWriteback e slot _ => e.wf && decide (slot < 4)
  | .writeStageFlush e _ _ set => e.wf && decide (set < 635776)
  | .programDone e _ => e.wf
  | .programFailure e bad set => e.wf && decide (bad.plane < 4) && decide (set < 635776)
  | .fold e slot set => e.wf && decide (slot < 4) && decide (set < 635776)
  | .foldRemap e slot set => e.wf && decide (slot < 4) && decide (set < 635776)
  | .wringer e slot die set => e.wf && decide (slot < 4) && decide (die < 128) && decide (set < 635776)
  | .eraseFailure e slot bad _ => e.wf && decide (slot < 4) && decide (bad.num < 2 ^ 32) && decide (bad.plane < 4)
  | .discard e q => e.wf && q.wf
  | .secureDiscard e q => e.wf && q.wf
  | .doorbell e q _ _ => e.wf && q.wf
  | .aqEnable e fn => e.wf && decide (fn < 64)
  | .aqDisable e fn => e.wf && decide (fn < 64)
  | .functionLevelReset e fn => e.wf && decide (fn < 64)
  | .vfEnable e num => e.wf && decide (num < 64)
  | .d3hotEntry e fn => e.wf && decide (fn < 64)
  | .d0Entry e fn => e.wf && decide (fn < 64)
  | .hostReadFailure e q _ => e.wf && q.wf
  | .cqVectorTimer e q => e.wf && q.wf
  | .heartbeat e => e.wf
  | .functionMap e q => e.wf && q.wf
  | .threadWatchdog e p _ => e.wf && decide (p < 8)
  | .coreWatchdog e p core _ => e.wf && decide (p < 8) && decide (core < 64)
  | .queueWatchdog e p q => e.wf && decide (p < 8) && q.wf
  | .coreFault e p core _ _ => e.wf && decide (p < 8) && decide (core < 64)
  | .laneFailure e core slice lane => e.wf && decide (core < 68) && decide (slice < 8) && decide (lane < 17)
  | .partitionReset e q => e.wf && q.wf
  | .partitionResetEnd e p => e.wf && decide (p < 8)
  | .partitionRestore e q => e.wf && q.wf
  | .restoreEnd e p => e.wf && decide (p < 8)
  | .faultLogRead e q => e.wf && q.wf
  | .spareEngage e q => e.wf && q.wf
  | .coreSwap e c => e.wf && decide (c.core < 68)
  | .coreSwapBlockRestart e pcore => e.wf && decide (pcore < 68)
  | .coreSwapCutover e pcore => e.wf && decide (pcore < 68)
  | .bankSpare e chan pos => e.wf && decide (chan < 128) && decide (pos < 32)
  | .bankSpareCutover e chan => e.wf && decide (chan < 128)
  | .ownershipRelease e q => e.wf && q.wf
  | .ownershipClaim e q => e.wf && q.wf
  | .claimTimeout e p _ c => e.wf && decide (p < 8) && decide (c < 256)
  | .ownershipResolve e q => e.wf && q.wf
  | .ownRelease e link m => e.wf && decide (link ≤ 36) && m.wf
  | .ownClaim e link m => e.wf && decide (link ≤ 36) && m.wf
  | .ownState e link m => e.wf && decide (link ≤ 36) && m.wf
  | .epochBoundary e p => e.wf && decide (p < 8)
  | .mirrorSendTimer e p c => e.wf && decide (p < 8) && decide (c < 256)
  | .durabilityHold e p c => e.wf && decide (p < 8) && decide (c < 256)
  | .mirrorWrite e link m => e.wf && decide (link ≤ 36) && m.wf
  | .snapshotTake e q => e.wf && q.wf
  | .snapshotTakeRestore e q => e.wf && q.wf
  | .snapChunk e link m => e.wf && decide (link ≤ 36) && m.wf
  | .recoverRead e link m => e.wf && decide (link ≤ 36) && m.wf
  | .recoverData e link m => e.wf && decide (link ≤ 36) && m.wf
  | .ackMsg e link m => e.wf && decide (link ≤ 36) && m.wf
  | .resendTimeout e _ => e.wf
  | .levelReject e link m => e.wf && decide (link ≤ 36) && m.wf
  | .ping e link m => e.wf && decide (link ≤ 36) && m.wf
  | .pingReply e link m => e.wf && decide (link ≤ 36) && m.wf
  | .lnkPing e fn _ => e.wf && decide (fn < 64)
  | .pingTimeout e => e.wf
  | .messageForward e link m => e.wf && decide (link ≤ 36) && m.wf
  | .flit e link f => e.wf && decide (link < 36) && f.wf
  | .replayTimeout e link => e.wf && decide (link < 36)
  | .retrainTimeout e link => e.wf && decide (link < 36)
  | .creditStall e link cls pool => e.wf && decide (link < 36) && decide (cls < 8) && decide (pool < 2)
  | .laneFailed e link lane => e.wf && decide (link < 36) && decide (lane < 2)
  | .capabilityRecord e link _ => e.wf && decide (link < 36)
  | .trainTimeout e link => e.wf && decide (link < 36)
  | .linkDownRetry e link => e.wf && decide (link < 36)
  | .lnkNodeId e fn _ => e.wf && decide (fn < 64)
  | .refillInstant e => e.wf
  | .wheelSlotDue e link cls _ => e.wf && decide (link < 36) && decide (cls < 8)
  | .powerSet e q => e.wf && q.wf
  | .partitionPower e q => e.wf && q.wf
  | .entryDrainLimit e en => e.wf && en.wf
  | .entryCommit e en => e.wf && en.wf
  | .partitionGate e p => e.wf && decide (p < 8)
  | .wake e fn => e.wf && decide (fn < 64)
  | .bmcWakeMessage e => e.wf
  | .wakeHold e => e.wf
  | .wakeFailure e => e.wf
  | .pwrPadRelease e fn => e.wf && decide (fn < 64)
  | .autoRelease e => e.wf
  | .partitionWakeDone e p => e.wf && decide (p < 8)
  | .powerSample e _ => e.wf
  | .junctionSample e _ _ _ => e.wf
  | .thermalTrip e _ => e.wf
  | .avsAdjust e rail _ => e.wf && decide (rail < 6)
  | .avsResponse e rail _ => e.wf && decide (rail < 6)
  | .avsSettleTimeout e rail => e.wf && decide (rail < 6)
  | .lockLost e => e.wf
  | .registerWrite e fn bar off _ _ => e.wf && decide (fn < 64) && offOk bar off
  | .collectiveDefine e q => e.wf && q.wf
  | .hostLinkUp e => e.toEnv.wf && decide (1 ≤ e.rate) && decide (e.rate ≤ 5) && [1, 2, 4, 8, 16].contains e.width
  | .linkTrained e link => e.wf && decide (link < 36)
  | .linkTrainingLost e link => e.wf && decide (link < 36)
  | .linkEnable e fn link _ => e.wf && decide (fn < 64) && decide (link < 36)
  | .ptnBuddy e fn p _ => e.wf && decide (fn < 64) && decide (p < 8)
  | .vfDisable e num => e.wf && decide (num < 64)
  | .rootPllRelock e => e.wf
  | .wakeComplete e => e.wf
  | .powerLoss e => e.wf
  | .eraseDone e slot set => e.wf && decide (slot < 4) && decide (set < 2 ^ 32)

end Sys2Proof
end

