-- ==== Sys2Proof/Safety.lean ====
section
/-! DEFINITION. The terms that statements use: what a command's body sees, how a step ends, the fetch and the checks that a host command passes (R371), the invariants of a run. -/

namespace Sys2Proof.Machine

/-! ### What a body sees, and how a step ends -/

/-- The counters, after the time that the command says has passed (R18, R19). -/
def clkOf (e : Env) (s : State) : Clock := s.clk.advance s.node e.dt
/-- The host's memory, after its own stores. -/
def hostOf (e : Env) (s : State) : Mem := storeAll s.host e.host
/-- The node, its cycle counters brought up to date. -/
def nodeOf (e : Env) (s : State) : Node := tick (clkOf e s) ((clkOf e s).node - s.clk.node) (takeEnv e s.node)
/-- The state in which a step ends whose body ends with node `n`: the node's writes have reached the host's memory (R233). -/
def endsWith (e : Env) (s : State) (n : Node) : State := { s with clk := clkOf e s, host := deliver (hostOf e s) n.out, node := n }
/-- The same where partitions may come into being or end (R18). -/
def endsBoot (e : Env) (s : State) (n : Node) : State := { s with clk := bootFix (clkOf e s) n, host := deliver (hostOf e s) n.out, node := n }
/-- Every part of the node stays as the body found it. -/
def idles (e : Env) (s : State) : State := endsWith e s (nodeOf e s)

/-! ### Host commands -/

/-- The fetch of pair `q` by the arbiter (R243): the command's name, its entry and the node after it. `ptn` names the partition of an admin command. -/
def fetch (ptn : Node → Nat → Sqe → Option Nat) (q : QRef) (e : Env) (s : State) : Option (Tok × Sqe × Node) :=
  let n := nodeOf e s
  match getQ n q.fn q.qid, grant (clkOf e s) q n with
  | some qu, some n1 =>
    let x := nextEntry (hostOf e s) qu
    let r := takeEntry (clkOf e s) (hostOf e s) q qu n1
    let at_ : Option Nat := if q.qid = 0 then ptn n q.fn x else (getFn n q.fn).map
    some (r.1, x, match at_ with
      | some p => ungate p r.2
      | none => r.2)
  | _, _ => none
/-- The fetched entry passes the checks of R371 as row `r`: opcode, session, fields, partition. -/
def accepts (r : Row) (mine : Sqe → Bool) (chk : Node → Nat → Sqe → Option Nat) (ptn : Node → Nat → Sqe → Option Nat) (q : QRef) (e : Env) (s : State) : Bool :=
  let n := nodeOf e s
  alive n &&
  match fetch ptn q e s with
  | none => false
  | some (_, x, _) =>
    let at_ : Option Nat := if q.qid = 0 then ptn n q.fn x else (getFn n q.fn).map
    let on (p : Nat) : Bool := !(q.qid == 0 && ptnAsleep n p)
    x.opc == r.opc && mine x && opcodeOk q.fn q.qid x.opc && (!recovery n || recoveryOpc x.opc) && (!r.s || (getFn n q.fn).session.isSome) &&
      (entryBad r x).isNone && (chk n q.fn x).isNone && (match at_ with
        | some p => on p && (getP n p).st != .withdrawn
        | none => true)

/-- Row `r` takes the entry: it is fetched as command `t` with entry `x`, leaving node `n`, and passes every check. -/
def Taken (r : Row) (mine : Sqe → Bool) (chk : Node → Nat → Sqe → Option Nat) (ptn : Node → Nat → Sqe → Option Nat) (q : QRef) (e : Env) (s : State) (t : Tok) (x : Sqe) (n : Node) : Prop :=
  accepts r mine chk ptn q e s = true ∧ fetch ptn q e s = some (t, x, n)

/-- A message arrives for this node and its kind's rule applies now, on node `n` (R262, R270, Table 12-9): `arrive` has checked its destination, its link, its level and its partition. -/
def Delivered (kind l : Nat) (m : Msg) (e : Env) (s : State) (n : Node) : Prop := alive (nodeOf e s) = true ∧ arrive (clkOf e s) kind l m (nodeOf e s) = (n, true)
/-- A function that the host reaches while the whole node answers, in a CTL cycle in which the node has set no W1C bit (R8). -/
def onBus (fn : Nat) (n : Node) : Bool := reach n && !aonOnly n && (getFn n fn).enabled && n.pwr.w1cSets.isEmpty
/-- An open session of a function. -/
def inSession (fn : Nat) (n : Node) : Bool := (getFn n fn).session.isSome

/-! ### Invariants -/

/-- The host's memory is in its canonical form. -/
def State.memWf (s : State) : Bool := Mem.wf s.host
/-- The counters do not run while `PERST_N` is asserted (R18, R352). -/
def State.heldAtZero (s : State) : Bool := s.node.pins.perst || (s.clk.node == 0 && s.clk.rem == 0 && s.clk.ptn.toList.all (fun c => c.isNone))

end Sys2Proof.Machine
end

