-- ==== Sys2Proof/Certificates/Slice0/Obligations.lean ====
section
/-! DEFINITION. The statements for the provers. Where a clause says `exec c s = .next (endsWith e s n)`, the whole next state is said: the counters and the host's stores of `e`, the node `n`
with its writes delivered, and nothing else changed. -/

open Sys2Proof Sys2Proof.Machine

/-! ### Steps -/

/-- The command at the front of the queue runs on the queue's rest (R371 and 95_what_each_step_holds: each command is one step). -/
def Obligations.StepRunsTheFrontCommand : Prop :=
  ∀ (c : Instr) (s : State), step { s with pending := c :: s.pending } = exec c s
/-- On an empty queue the block idles (the model's choice, log 2). -/
def Obligations.EmptyQueueIdles : Prop := ∀ s : State, s.pending = [] → step s = .next s
/-- No command stops the block: every step ends in a next state. -/
def Obligations.NoCommandStops : Prop := ∀ s : State, ∃ t, step s = .next t
/-- A command leaves the commands that wait behind it as they are. -/
def Obligations.CommandsLeaveTheQueue : Prop := ∀ (c : Instr) (s t : State), exec c s = .next t → t.pending = s.pending
/-- Every step keeps the host's memory in its canonical form, whatever the host and the node wrote. -/
def Obligations.HostMemoryStaysCanonical : Prop := ∀ s t : State, s.memWf = true → step s = .next t → t.memWf = true
/-- After reset the memory is in its canonical form, the counters stand at zero and nothing waits. -/
def Obligations.ResetMeetsTheInvariants : Prop := State.reset.memWf = true ∧ State.reset.heldAtZero = true ∧ State.reset.pending = []
/-- Commands after which partitions may come into being or end, or the counters start again. -/
def startsOver (c : Instr) : Bool := match c with
  | .perstNAssert _ => true
  | .perstNDeassert _ _ => true
  | .powerLoss _ => true
  | .nodeSectionApplied _ => true
  | .trialTimeout _ => true
  | .rootPllRelock _ => true
  | _ => false
/-- R18, R19: no other command sets a counter back, and each partition's counter advances with the node's. -/
def Obligations.CountersAreMonotonic : Prop :=
  ∀ (c : Instr) (s t : State), startsOver c = false → exec c s = .next t →
    ∃ d, t.clk.node = s.clk.node + d ∧ t.clk.ptn = s.clk.ptn.map (fun o => o.map (· + d))

/-! ### Host link, queues and commands (chapter 11) -/

/-- The pair that an entry of `QUEUE_CREATE` describes (Table 11-5): heads and tails at 0, the phase tag at 1. -/
def pairOf (x : Sqe) : Queue :=
  { sqBase := x.addr0, cqBase := x.addr1, sqSize := x.arg0 % 65536, cqSize := x.arg0 / 2 ^ 16 % 65536, cls := x.arg0 / 2 ^ 32 % 4, weight := x.arg0 / 2 ^ 40 % 256, vector := x.arg0 / 2 ^ 48 % 2048,
    ien := x.arg0.testBit 59, aggCount := x.arg1 % 256, aggUs := x.arg1 / 2 ^ 16 % 65536, sqHead := 0, sqTail := 0, cqHead := 0, cqTail := 0, phase := true, st := .active, cmds := [],
    credit := x.arg0 / 2 ^ 40 % 256 }
/-- The admin pair that a function's registers describe (R236). -/
def adminPairOf (f : Fn) : Queue :=
  { sqBase := f.aqSq.toNat, cqBase := f.aqCq.toNat, sqSize := fld f.aqCtl 16 12, cqSize := fld f.aqCtl 32 12, ien := true }
/-- R237, R240: `QUEUE_CREATE` makes a pair with the fields of Table 11-5, heads and tails at 0 and the phase tag at 1; `QUEUE_DELETE` removes an idle pair; `QUEUE_RESET` puts the pair in RESETTING
up to its tail and ends its commands (R244), and its end makes the pair ACTIVE and completes the command. Nothing else changes. -/
def Obligations.QueueCommandsComplete : Prop :=
  (∀ (e : Env) (q : QRef) (s : State) (t : Tok) (x : Sqe) (n : Node), Taken Rows.queueCreate anyEntry queueCreateChk noPtn q e s t x n → (getFn n t.fn).map.isSome = true → ioCount n < 4096 →
    exec (.queueCreate e q) s = .next (endsWith e s (post (clkOf e s) t stSuccess 0 (modFn t.fn (fun f => { f with queues := mset f.queues x.target (pairOf x) }) n)))) ∧
  (∀ (e : Env) (q : QRef) (s : State) (t : Tok) (x : Sqe) (n : Node) (y : Queue), Taken Rows.queueDelete anyEntry ioChk noPtn q e s t x n → getQ n t.fn x.target = some y → y.cmds = [] → y.st ≠ .resetting →
    exec (.queueDelete e q) s = .next (endsWith e s (post (clkOf e s) t stSuccess 0 (modFn t.fn (fun f => { f with queues := mdel f.queues x.target }) n)))) ∧
  (∀ (e : Env) (q : QRef) (s : State) (t : Tok) (x : Sqe) (n : Node) (y : Queue), Taken Rows.queueReset anyEntry ioChk noPtn q e s t x n → getQ n t.fn x.target = some y → y.st ≠ .resetting →
    exec (.queueReset e q) s = .next (endsWith e s (
      settleFn (clkOf e s) t.fn (foldNode (pairToks (modQ t.fn x.target (fun y => { y with st := .resetting, resetTo := y.sqTail, resetTok := some t }) n) t.fn x.target)
        (fun c n => post (clkOf e s) c.1 stAborted (abortResult ((cmdOf n c.1).getD c.2)) (abortTok (clkOf e s) c.1 n))
        (modQ t.fn x.target (fun y => { y with st := .resetting, resetTo := y.sqTail, resetTok := some t }) n))))) ∧
  (∀ (e : Env) (q : QRef) (s : State) (m : Node) (y : Queue), alive (nodeOf e s) = true → abortEntries (clkOf e s) (hostOf e s) q.fn q.qid (nodeOf e s) = m → getQ m q.fn q.qid = some y →
    y.st = .resetting → y.sqHead = y.resetTo → y.cmds = [] →
    exec (.queueResetDone e q) s = .next (endsWith e s (postO (clkOf e s) y.resetTok stSuccess 0 (modQ q.fn q.qid (fun y => { y with st := .active, resetTok := none }) m))))

/-- R251, R252: phase 0 writes a fresh nonce (its value is free, log 12) and keeps it; phase 1 with a good proof opens the session, clears the failures and writes the node's own MAC; the close ends the
session; the lockout ends with its time. A session key is set with its mask, and an erased slot ends the sessions opened on it. -/
def Obligations.SessionCommandsComplete : Prop :=
  (∀ (e : Env) (q : QRef) (s : State) (t : Tok) (x : Sqe) (n : Node), Taken Rows.sessionOpen (fun x => !x.arg0.testBit 8) noChk noPtn q e s t x n →
    lockedAt (clkOf e s) (getKey n (x.arg0 % 8)) = false → (getKey n (x.arg0 % 8)).key.isSome = true →
    exec (.sessionOpenPhase0 e q) s = .next (endsWith e s (post (clkOf e s) t stSuccess 0 (emit (.data x.addr0 (toLe 32 (Config.nonce n.free).toNat))
      (modFn t.fn (fun f => { f with nonce := some { value := Config.nonce n.free, slot := x.arg0 % 8, at_ := (clkOf e s).node } }) { n with free := n.free + 1 }))))) ∧
  (∀ (e : Env) (q : QRef) (s : State) (t : Tok) (x : Sqe) (n : Node) (mac : List Byte), Taken Rows.sessionOpen (fun x => x.arg0.testBit 8) noChk noPtn q e s t x n →
    lockedAt (clkOf e s) (getKey n (x.arg0 % 8)) = false → proofOk (clkOf e s) n t.fn (x.arg0 % 8) (Mem.readN (hostOf e s) x.addr0 80) = some mac →
    exec (.sessionOpenPhase1 e q) s = .next (endsWith e s (post (clkOf e s) t stSuccess 0 (emit (.data x.addr1 mac) (modKey (x.arg0 % 8) (fun k => { k with fails := 0 })
      (modFn t.fn (fun f => { f with session := some (x.arg0 % 8) }) (modFn t.fn (fun f => { f with nonce := none }) n))))))) ∧
  (∀ (e : Env) (q : QRef) (s : State) (t : Tok) (x : Sqe) (n : Node), Taken Rows.sessionClose anyEntry noChk noPtn q e s t x n →
    exec (.sessionClose e q) s = .next (endsWith e s (post (clkOf e s) t stSuccess 0 (modFn t.fn (fun f => { f with session := none }) n)))) ∧
  (∀ (e : Env) (slot : Nat) (s : State) (k : Nat), alive (nodeOf e s) = true → (getKey (nodeOf e s) slot).locked = some k → k ≤ (clkOf e s).node →
    exec (.sessionLockoutEnd e slot) s = .next (endsWith e s (modKey slot (fun k => { k with locked := none, fails := 0 }) (nodeOf e s)))) ∧
  (∀ (e : Env) (q : QRef) (s : State) (t : Tok) (x : Sqe) (n : Node), Taken (keyRow (hostOf e s) q (nodeOf e s)) (fun x => !x.arg0.testBit 8) noChk noPtn q e s t x n →
    exec (.sessionKeySet e q) s = .next (endsWith e s (post (clkOf e s) t stSuccess 0 (modKey (x.arg0 % 8)
      (fun k => { k with key := some (Mem.readN (hostOf e s) x.addr0 40 |>.take 32), mask := BitVec.ofNat 64 (leAt (Mem.readN (hostOf e s) x.addr0 40) 32 8) }) n)))) ∧
  (∀ (e : Env) (q : QRef) (s : State) (t : Tok) (x : Sqe) (n : Node), Taken Rows.sessionKeySet (fun x => x.arg0.testBit 8) noChk noPtn q e s t x n →
    exec (.sessionKeyErase e q) s = .next (endsWith e s (post (clkOf e s) t stSuccess 0
      { modKey (x.arg0 % 8) (fun k => { k with key := none, mask := 0 }) n with fns := n.fns.map (fun f => if f.session = some (x.arg0 % 8) then { f with session := none } else f) })))

/-- R236, R245: setting `ENABLE` with valid depths and bases starts the admin pair empty and `ACTIVE`; with invalid ones it sets `CFG_ERR` and leaves `ACTIVE` at 0; clearing it removes the pair, ends its
commands without completions and ends the session. -/
def Obligations.AdminPairStartsAndStops : Prop :=
  (∀ (e : Env) (fn : Nat) (s : State) (f : Fn), getFn (nodeOf e s) fn = f → reach (nodeOf e s) = true → aonOnly (nodeOf e s) = false → f.enabled = true → aqEnabled f = false →
    1 ≤ fld f.aqCtl 16 12 → fld f.aqCtl 16 12 ≤ fld f.aqCtl 32 12 → fld f.aqSq 12 52 ≠ 0 → fld f.aqCq 12 52 ≠ 0 →
    exec (.aqEnable e fn) s = .next (endsWith e s (modFn fn (fun x => { x with aqCtl := put x.aqCtl 0 2 3, queues := mset x.queues 0 (adminPairOf f) }) (nodeOf e s)))) ∧
  (∀ (e : Env) (fn : Nat) (s : State) (f : Fn), getFn (nodeOf e s) fn = f → reach (nodeOf e s) = true → aonOnly (nodeOf e s) = false → f.enabled = true → aqEnabled f = false →
    (fld f.aqCtl 16 12 = 0 ∨ fld f.aqCtl 32 12 < fld f.aqCtl 16 12 ∨ fld f.aqSq 12 52 = 0 ∨ fld f.aqCq 12 52 = 0) →
    exec (.aqEnable e fn) s = .next (endsWith e s (noteSet (aqKey fn) 2 (modFn fn (fun x => { x with aqCtl := put x.aqCtl 0 3 5 }) (nodeOf e s))))) ∧
  (∀ (e : Env) (fn : Nat) (s : State), reach (nodeOf e s) = true → aonOnly (nodeOf e s) = false → aqEnabled (getFn (nodeOf e s) fn) = true →
    exec (.aqDisable e fn) s = .next (endsWith e s (settleD fn (foldNode (pairToks (nodeOf e s) fn 0) (fun t n => abortTok (clkOf e s) t.1 n)
      (modFn fn (fun x => { x with aqCtl := put x.aqCtl 0 2 0, queues := mdel x.queues 0, session := none }) (nodeOf e s))))))

/-- R240: a doorbell to a pair of a function that the host reaches moves the tail or the head it names when the value is in range, and otherwise counts in `HIF_DB_ERR` with its reason and changes nothing
else of the pair. Here no power state is being entered or left (R247 covers that case). -/
def Obligations.DoorbellsRing : Prop :=
  ∀ (e : Env) (q : QRef) (s : State) (y : Queue) (p : Nat), reach (nodeOf e s) = true → (getFn (nodeOf e s) q.fn).enabled = true → getQ (nodeOf e s) q.fn q.qid = some y →
    (getFn (nodeOf e s) q.fn).map = some p → (getP (nodeOf e s) p).pow = .on → (nodeOf e s).pwr.st = .run →
    (∀ v, v ≤ y.sqSize → exec (.doorbell e q (some v) none) s = .next (endsWith e s (modQ q.fn q.qid (fun x => { x with sqTail := v }) (nodeOf e s)))) ∧
    (∀ v, y.sqSize < v → exec (.doorbell e q (some v) none) s = .next (endsWith e s (dbErr q.fn q.qid 2 (nodeOf e s)))) ∧
    (∀ v, v ≤ y.cqSize → (v + (y.cqSize + 1) - y.cqHead) % (y.cqSize + 1) ≤ y.unreleased →
      exec (.doorbell e q none (some v)) s = .next (endsWith e s (modQ q.fn q.qid (fun x => { x with cqHead := v }) (nodeOf e s)))) ∧
    (∀ v, (y.cqSize < v ∨ y.unreleased < (v + (y.cqSize + 1) - y.cqHead) % (y.cqSize + 1)) → exec (.doorbell e q none (some v)) s = .next (endsWith e s (dbErr q.fn q.qid 3 (nodeOf e s))))

/-- R245, R277, R284, R333: a function-level reset resets the function alone (that of the physical function does the same to it and then clears VF Enable, as `VF_DISABLE` to 0); NumVFs raised enables functions with their image values, lowered
removes them and keeps their mappings; a function goes to D3hot once its commands have ended, and back to D0, when the MSI-X messages that it could not post go out. -/
def Obligations.FunctionEventsComplete : Prop :=
  (∀ (e : Env) (fn : Nat) (s : State), reach (nodeOf e s) = true → (getFn (nodeOf e s) fn).enabled = true → fn ≠ 0 →
    exec (.functionLevelReset e fn) s = .next (endsWith e s (settleFn (clkOf e s) fn (zeroTokens (clkOf e s) fn
      (foldNode (((getFn (nodeOf e s) fn).queues.map (fun q => (pairToks (nodeOf e s) fn q.1).map (·.1))).flatten) (fun t n => abortTok (clkOf e s) t n)
        (modFn fn (fun x => { x with queues := [], aqCtl := put x.aqCtl 0 2 0, attn := 0, session := none, unmasked := [], pend := [], heldV := [], msixTab := [], msixCtl := 0, devCtl := 0x2810, devCtl2 := 0, dst := .d0 }) (nodeOf e s))))))) ∧
  (∀ (e : Env) (s : State), reach (nodeOf e s) = true → (getFn (nodeOf e s) 0).enabled = true →
    exec (.functionLevelReset e 0) s = .next (endsWith e s (vfDisable 0 (clkOf e s) (resetFn (clkOf e s) 0 (nodeOf e s))))) ∧
  (∀ (e : Env) (k : Nat) (s : State) (i : Image), reach (nodeOf e s) = true → (nodeOf e s).boot.mode ≠ 1 → k ≤ (nodeOf e s).totalVfs → (nodeOf e s).numVfs < k → (nodeOf e s).boot.image = some i →
    exec (.vfEnable e k) s = .next (endsWith e s { foldNode ((List.range (k - (nodeOf e s).numVfs)).map (fun i => (nodeOf e s).numVfs + 1 + i))
      (fun f n => qosImage i.node.qos f (modFn f (fun x => { x with enabled := true }) n)) (nodeOf e s) with numVfs := k })) ∧
  (∀ (e : Env) (k : Nat) (s : State), reach (nodeOf e s) = true → k < (nodeOf e s).numVfs →
    exec (.vfDisable e k) s = .next (endsWith e s { foldNode ((List.range ((nodeOf e s).numVfs - k)).map (fun i => k + 1 + i))
      (fun f n => modFn f (fun x => { ({} : Fn) with map := x.map, attnSeq := x.attnSeq }) (resetFn (clkOf e s) f n)) (nodeOf e s) with numVfs := k })) ∧
  (∀ (e : Env) (fn : Nat) (s : State), reach (nodeOf e s) = true → (getFn (nodeOf e s) fn).enabled = true → (getFn (nodeOf e s) fn).dst ≠ .d3hot →
    exec (.d3hotEntry e fn) s = .next (endsWith e s (settleD fn (modFn fn (fun x => { x with dst := .draining false }) (nodeOf e s))))) ∧
  (∀ (e : Env) (fn : Nat) (s : State), reach (nodeOf e s) = true → (getFn (nodeOf e s) fn).enabled = true → (getFn (nodeOf e s) fn).dst = .d3hot →
    exec (.d0Entry e fn) s = .next (endsWith e s (sendPend fn (modFn fn (fun x => { x with dst := .d0 }) (nodeOf e s)))))

/-- R234, R239, R249, R250: an unreadable entry puts its pair in ERROR, raises `ATTN_HOST` and is reported; the vector of an I/O completion queue is raised when its oldest unsignalled completion is `AGG_US`
old; every 10 ms each function gets a heartbeat or counts a missed one; `ATTN_ACK` clears the attentions it names exactly when it holds the current sequence, and answers the sequence otherwise. -/
def Obligations.HostNotificationsComplete : Prop :=
  (∀ (e : Env) (q : QRef) (s : State) (y : Queue) (n : Node), alive (nodeOf e s) = true → getQ (nodeOf e s) q.fn q.qid = some y → y.st ≠ .resetting → grant (clkOf e s) q (nodeOf e s) = some n →
    exec (.hostReadFailure e q .fetch) s = .next (endsWith e s (emit (.aer q.fn) (raiseAt attnHost q.fn (modQ q.fn q.qid (fun x => { x with st := .error }) n))))) ∧
  (∀ (e : Env) (q : QRef) (s : State) (y : Queue) (t0 : Nat), alive (nodeOf e s) = true → getQ (nodeOf e s) q.fn q.qid = some y → q.qid ≠ 0 → y.ien = true → y.unsig ≠ 0 → y.unsigAt = some t0 →
    t0 + 300 * y.aggUs ≤ (clkOf e s).node →
    exec (.cqVectorTimer e q) s = .next (endsWith e s (raiseVec q.fn y.vector (msixHeld (nodeOf e s) q.fn q.qid) (modQ q.fn q.qid (fun x => { x with unsig := 0, unsigAt := none }) (nodeOf e s))))) ∧
  (∀ (e : Env) (s : State), alive (nodeOf e s) = true → (nodeOf e s).boot.ready = true → (nodeOf e s).boot.mode ≠ 1 → reach (nodeOf e s) = true → awake (nodeOf e s) = true →
    (clkOf e s).node % 3000000 = 0 → (nodeOf e s).hbAt ≠ some (clkOf e s).node →
    exec (.heartbeat e) s = .next (endsWith e s (foldNode (List.range 64) (beat (clkOf e s)) { nodeOf e s with hbAt := some (clkOf e s).node }))) ∧
  (∀ (e : Env) (q : QRef) (s : State) (t : Tok) (x : Sqe) (n : Node), Taken Rows.attnAck anyEntry noChk noPtn q e s t x n → x.arg0 / 65536 % 2 ^ 32 = (getFn n t.fn).attnSeq.toNat →
    exec (.attnAck e q) s = .next (endsWith e s (post (clkOf e s) t stSuccess 0 (modFn t.fn (fun f => { f with attn := f.attn &&& ~~~(BitVec.ofNat 16 x.arg0) }) n)))) ∧
  (∀ (e : Env) (q : QRef) (s : State) (t : Tok) (x : Sqe) (n : Node), Taken Rows.attnAck anyEntry noChk noPtn q e s t x n → x.arg0 / 65536 % 2 ^ 32 ≠ (getFn n t.fn).attnSeq.toNat →
    exec (.attnAck e q) s = .next (endsWith e s (post (clkOf e s) t stSuccess (getFn n t.fn).attnSeq.toNat n)))

/-! ### Power and clocks (chapter 14) -/

/-- R330 to R333: `POWER_SET` from Run or Idle starts an entry to REST, SLEEP or OFF that stops every partition; `PARTITION_POWER` Off starts the shut-down of a partition that is on; the drain limit
abandons an entry; the commit turns the partition off and completes its command; an idle partition is gated after `GATE_US`. -/
def Obligations.PowerEntriesComplete : Prop :=
  (∀ (e : Env) (q : QRef) (s : State) (t : Tok) (x : Sqe) (n : Node), Taken Rows.powerSet anyEntry powerSetChk noPtn q e s t x n → (n.pwr.st = .run ∨ n.pwr.st = .idle) → x.arg0 ≠ 0 →
    exec (.powerSet e q) s = .next (endsWith e s { n with
      ptns := n.ptns.map (fun y => if y.st ≠ .absent ∧ (y.pow = .on ∨ y.pow = .gated) then { y with pow := .entering } else y)
      pwr := { n.pwr with st := .entering, target := x.arg0, entryTok := some t, entryAt := (clkOf e s).node, saved := n.ptns.toList.map (·.pow), fromRest := false } })) ∧
  (∀ (e : Env) (q : QRef) (s : State) (t : Tok) (x : Sqe) (n : Node), Taken Rows.partitionPower anyEntry partitionPowerChk noPtn q e s t x n → x.arg0 = 2 → n.pwr.st ≠ .entering →
    ((getP n x.target).st = .inService ∨ (getP n x.target).st = .restoring) → ((getP n x.target).pow = .on ∨ (getP n x.target).pow = .gated) →
    exec (.partitionPower e q) s = .next (endsWith e s (settleIdle (modP x.target (fun y => { y with pow := .entering, shutTok := some t, shutAt := pctr (clkOf e s) x.target }) n)))) ∧
  (∀ (e : Env) (s : State), alive (nodeOf e s) = true → (nodeOf e s).pwr.st = .entering → allDrained (nodeOf e s) = false →
    (nodeOf e s).pwr.entryAt + (300 + 300000 * fld (nodeOf e s).pwr.ctl 24 8) ≤ (clkOf e s).node →
    exec (.entryDrainLimit e .node) s = .next (endsWith e s (abandonNode (clkOf e s) (nodeOf e s)))) ∧
  (∀ (e : Env) (p : Nat) (s : State), alive (nodeOf e s) = true → (getP (nodeOf e s) p).pow = .entering → (nodeOf e s).pwr.st ≠ .entering → drained (nodeOf e s) p = true →
    (getP (nodeOf e s) p).shutAt + 61800 ≤ pctr (clkOf e s) p → (getP (nodeOf e s) p).enPend = false →
    exec (.entryCommit e (.ptn p)) s = .next (endsWith e s (settleIdle (postO (clkOf e s) (getP (nodeOf e s) p).shutTok stSuccess 0
      (retain (clkOf e s) (dropCanopy p (modP p (fun y => { y with pow := .off, shutTok := none }) (nodeOf e s)))))))) ∧
  (∀ (e : Env) (p : Nat) (s : State) (x : Ptn), alive (nodeOf e s) = true → getP (nodeOf e s) p = x → x.st = .inService → x.pow = .on → cmdsLeft (nodeOf e s) p = false → workLeft (nodeOf e s) p = false →
    x.ctxs = [] → ((nodeOf e s).pwr.st = .run ∨ (nodeOf e s).pwr.st = .idle) → 300 * fld (nodeOf e s).pwr.ctl 0 16 ≤ x.idleFor →
    exec (.partitionGate e p) s = .next (endsWith e s (settleIdle (modP p (fun x => { x with pow := .gated }) (nodeOf e s)))))

/-- R334 to R337: a write of `WAKE`, or a message of the board management controller, starts the wake of REST, raising the rails, or of SLEEP, enabling the first regulator; the confirmed rails lead to WAKE_HOLD;
a second failure returns the node to where it was and sets `WAKE_FAIL`; the pads are released by `PWR_PAD_RELEASE`, or 10 ms after WAKE_HOLD where `AUTO_RELEASE` is set; then the partitions return, links train after
SLEEP, and `POWER_SET` Run completes. A partition's wake makes it On and completes the commands that wait for it. -/
def Obligations.WakesComplete : Prop :=
  (∀ (e : Env) (s : State), reach (nodeOf e s) = true → (nodeOf e s).pwr.st = .rest → (nodeOf e s).pwr.wakeFail = false →
    exec (.wake e 0) s = .next (endsWith e s (raiseRails (clkOf e s) [0, 1, 2, 4, 5] (modPwr (fun w => { w with
      st := .waking, target := 2, entryAt := (clkOf e s).node, wakeTry := 0, wakeDb := false, wakes := w.wakes + 1 }) (nodeOf e s))))) ∧
  (∀ (e : Env) (s : State), (nodeOf e s).pins.perst = true → (nodeOf e s).boot.stopped = false → (nodeOf e s).pwr.st = .sleep → (nodeOf e s).pwr.wakeFail = false →
    exec (.bmcWakeMessage e) s = .next (endsWith e s { nodeOf e s with
      pins := { (nodeOf e s).pins with vrEn := 8, vrPg := 0, vrAt := max (clkOf e s).node ((nodeOf e s).pwr.commitAt + 300000), vrRetry := false }
      pwr := { (nodeOf e s).pwr with st := .waking, target := 3, entryAt := (clkOf e s).node, wakeTry := 0, wakeDb := false, wakes := (nodeOf e s).pwr.wakes + 1 } })) ∧
  (∀ (e : Env) (s : State) (n : Node), (nodeOf e s).pwr.st = .waking → (nodeOf e s).pwr.padHeld = true → (nodeOf e s).boot.stopped = false → railsBack (nodeOf e s) = true →
    modPwr (fun w => { w with st := .wakeHold, holdAt := (clkOf e s).node, rootLock := true }) (nodeOf e s) = n →
    ((nodeOf e s).pwr.target = 2 → exec (.wakeHold e) s = .next (endsWith e s n)) ∧
    ((nodeOf e s).pwr.target = 3 → exec (.wakeHold e) s = .next (endsWith e s (missedRefills (clkOf e s) (max n.lnk.refillAt n.pwr.commitAt) n)))) ∧
  (∀ (e : Env) (s : State), (nodeOf e s).pwr.st = .waking → (nodeOf e s).pwr.padHeld = true → (nodeOf e s).boot.stopped = false → (nodeOf e s).pwr.target = 2 → (nodeOf e s).pwr.wakeTry ≠ 0 →
    exec (.wakeFailure e) s = .next (endsWith e s (modPwr (fun w => { w with st := .rest, target := 0, wakeFail := true }) (nodeOf e s)))) ∧
  (∀ (e : Env) (s : State), reach (nodeOf e s) = true → (nodeOf e s).pwr.st = .wakeHold → (nodeOf e s).pwr.padHeld = true →
    exec (.pwrPadRelease e 0) s = .next (endsWith e s (modPwr (fun w => { w with padHeld := false, st := .waking, holdAt := (clkOf e s).node }) (nodeOf e s)))) ∧
  (∀ (e : Env) (s : State), alive (nodeOf e s) = true → bit (nodeOf e s).pwr.ctl 16 = true → (nodeOf e s).pwr.st = .wakeHold → (nodeOf e s).pwr.padHeld = true →
    (nodeOf e s).pwr.holdAt + 3000000 ≤ (clkOf e s).node →
    exec (.autoRelease e) s = .next (endsWith e s (modPwr (fun w => { w with padHeld := false, st := .waking, holdAt := (clkOf e s).node }) (nodeOf e s)))) ∧
  (∀ (e : Env) (s : State), alive (nodeOf e s) = true → (nodeOf e s).pwr.st = .waking → (nodeOf e s).pwr.padHeld = false → (nodeOf e s).pwr.target = 2 →
    exec (.wakeComplete e) s = .next (endsWith e s (settleIdle (postO (clkOf e s) (nodeOf e s).pwr.wakeTok stSuccess 0 (foldNode (List.range 8) (wakeBack (clkOf e s) (nodeOf e s).pwr.saved)
      (modPwr (fun w => { w with st := .run, target := 0, saved := [], wakeTok := none, wakeDb := false }) (nodeOf e s))))))) ∧
  (∀ (e : Env) (p : Nat) (s : State), alive (nodeOf e s) = true → (getP (nodeOf e s) p).pow = .waking → (getP (nodeOf e s) p).shutAt + 195000 ≤ pctr (clkOf e s) p →
    (railsOf (getP (nodeOf e s) p)).all (railUp (nodeOf e s)) = true → (nodeOf e s).pwr.st ≠ .entering →
    exec (.partitionWakeDone e p) s = .next (endsWith e s (foldNode (getP (nodeOf e s) p).wakeTok (fun t n => post (clkOf e s) t stSuccess 0 n)
      (modP p (fun x => { x with wakeTok := [] }) (settleIdle (ptnBack (clkOf e s) p (nodeOf e s)))))))

/-- R339 to R344: rails move 5 mV a step towards the setpoint of their temperature; a voltage done confirms the voltage; a voltage that does not settle in `SETTLE_US` is a fault; power and junction samples set
the caps; at 110 °C the node trips. -/
def Obligations.LimitEventsComplete : Prop :=
  (∀ (e : Env) (r temp : Nat) (s : State) (x : Rail), alive (nodeOf e s) = true → getRail (nodeOf e s) r = x → r < 6 → railLow r ≤ x.target → retained (nodeOf e s) r = false → ((nodeOf e s).pwr.st = .run ∨ (nodeOf e s).pwr.st = .idle) →
    x.adjAt + 30000000 ≤ (clkOf e s).node →
    exec (.avsAdjust e r temp) s = .next (endsWith e s (requestMv (clkOf e s) r (if x.target + 5 ≤ runMv r temp then x.target + 5 else if runMv r temp + 5 ≤ x.target then x.target - 5 else x.target)
      (modRail r (fun x => { x with need := runMv r temp, adjAt := (clkOf e s).node }) (nodeOf e s))))) ∧
  (∀ (e : Env) (r mv : Nat) (s : State) (x : Rail), getRail (nodeOf e s) r = x → r < 6 → x.busy.isSome = true → x.acked = true → x.want = 0 → (nodeOf e s).boot.stopped = false →
    exec (.avsResponse e r (.done mv)) s = .next (endsWith e s (avsCap (clkOf e s)
      (modRail r (fun x => { x with mv := mv, busy := none, acked := false, tries := 0, want := 0, lowCap := false }) (nodeOf e s))))) ∧
  (∀ (e : Env) (r t0 : Nat) (s : State) (x : Rail), getRail (nodeOf e s) r = x → r < 6 → x.busy = some t0 → x.acked = true → (nodeOf e s).boot.stopped = false →
    t0 + 300 * fld (nodeOf e s).pwr.avsCfg 0 16 ≤ (clkOf e s).node →
    exec (.avsSettleTimeout e r) s = .next (endsWith e s (avsFault (clkOf e s) r 3 (nodeOf e s)))) ∧
  (∀ (e : Env) (w : Nat) (s : State), alive (nodeOf e s) = true → exec (.powerSample e w) s = .next (endsWith e s (powerSample w (clkOf e s) (nodeOf e s))) ∧
    (980 < w → (powerSample w (clkOf e s) (nodeOf e s)).pwr.capPeak = capTo760 w (capOf (nodeOf e s).pwr))) ∧
  (∀ (e : Env) (c0 c1 io : Nat) (s : State), alive (nodeOf e s) = true → max c0 (max c1 io) < 110 →
    ∃ t, exec (.junctionSample e c0 c1 io) s = .next t ∧ t.node.pwr.cmp0 = sat 8 c0 ∧ t.node.pwr.cmp1 = sat 8 c1 ∧ t.node.pwr.iod = sat 8 io ∧ t.node.boot = (nodeOf e s).boot) ∧
  (∀ (e : Env) (temp : Nat) (s : State), 110 ≤ temp → (nodeOf e s).pins.perst = true → (nodeOf e s).boot.stopped = false →
    exec (.thermalTrip e temp) s = .next (endsWith e s { nodeOf e s with
      pins := { (nodeOf e s).pins with thermtrip := false }, boot := { (nodeOf e s).boot with stopped := true }
      pwr := { (nodeOf e s).pwr with tripped := true, tripLast := sat 8 temp, rootLock := false } }))

/-! ### Registers (chapters 00 and 11) -/

/-- R2, Table 0-2: every function that the host reaches reads the node's identity at BAR2 + 0, field by field, and a write there changes nothing: the register is read-only. -/
def Obligations.NodeIdReadsAsTheTableGives : Prop :=
  (∀ (f : Nat) (s : State), reach s.node = true → (getFn s.node f).enabled = true →
    fld (readReg f .bar2 0 s) 48 16 = 0xBE5A ∧ fld (readReg f .bar2 0 s) 32 16 = 0x0760 ∧ fld (readReg f .bar2 0 s) 24 8 = 0xB1 ∧ fld (readReg f .bar2 0 s) 16 8 = 0x0A ∧ fld (readReg f .bar2 0 s) 0 16 = 0) ∧
  (∀ (e : Env) (f : Nat) (w : Width) (v : W64) (s : State), aonOnly (nodeOf e s) = false → exec (.registerWrite e f .bar2 0 w v) s = .next (endsWith e s (nodeOf e s)))
/-- R368: a share in 256ths is the rounded-down quotient, saturating at 255: it reads 255 from 255/256 on, and 0 only below 1/256. So read `SAP_FILL`, `HOT_FILL`, `BUF_FILL` and `FREE`, the four
register fields that the spec gives in 256ths, each with its part and its whole. -/
def Obligations.SharesReadIn256ths : Prop :=
  (∀ part whole : Nat, 0 < whole →
    in256 part whole = min 255 (256 * part / whole) ∧ (255 * whole ≤ 256 * part → in256 part whole = 255) ∧ (in256 part whole = 0 ↔ 256 * part < whole)) ∧
  (∀ (p c : Nat) (s : State) (y : Coll), reach s.node = true → (getFn s.node 0).enabled = true → aonOnly s.node = false → p < 8 → c < 256 → mget (getP s.node p).colls c = some y →
    fld (readReg 0 .bar2 (0x40100 + 8 * (256 * p + c)) s) 24 8 = in256 (usedChunks (getP s.node p)).length (poolSize (getP s.node p))) ∧
  (∀ (p t : Nat) (s : State) (y : Tbl), reach s.node = true → (getFn s.node 0).enabled = true → aonOnly s.node = false → p < 8 → t < 64 → (getP s.node p).st ≠ .absent → mget (getP s.node p).tbls t = some y →
    fld (readReg 0 .bar2 (0x50200 + 0x1000 * p + 8 * t) s) 24 8 = in256 y.dir.length y.hotRows) ∧
  (∀ (i : Nat) (s : State), reach s.node = true → (getFn s.node 0).enabled = true → aonOnly s.node = false → i < 4 →
    fld (readReg 0 .bar2 (0x70040 + 8 * i) s) 40 8 = in256 (onebitFill s.node i) (onebitLimit s.node) ∧
    ((getCart s.node i).serves = true → fld (readReg 0 .bar2 (0x70040 + 8 * i) s) 32 8 = in256 (cartBlocks - reservedOn s.node (getCart s.node i).serial) cartBlocks))
/-- Table 0-4, R6: what a write does to a register with RWS fields `rw` and a W1C `CFG_ERR` at bit `err` outside them, bit by bit. Without a session only `CFG_ERR` can change, and only to 0; with one, a
word out of range sets `CFG_ERR` and changes nothing else; otherwise each RWS bit that the write covers takes the written value, and every other bit but `CFG_ERR` stays. A half changes only its bits. -/
def Obligations.RegisterWritesFollowTheirAccessCodes : Prop :=
  ∀ (w : Width) (v rw cur : W64) (err : Nat) (ok : W64 → Bool), err < 64 → rw.getLsbD err = false →
    (∀ i, i ≠ err → (cfgWrite false w v rw err ok cur).getLsbD i = cur.getLsbD i) ∧
    (cfgWrite false w v rw err ok cur).getLsbD err = (cur.getLsbD err && !(wval w v).getLsbD err) ∧
    ∃ new : W64, (∀ i, i ≠ err → new.getLsbD i = if rw.getLsbD i && (wmask w).getLsbD i then (wval w v).getLsbD i else cur.getLsbD i) ∧
      (ok new = true → cfgWrite true w v rw err ok cur = new) ∧ (ok new = false → cfgWrite true w v rw err ok cur = put cur err 1 1) ∧ (put cur err 1 1).getLsbD err = true ∧
      (∀ i, i ≠ err → (put cur err 1 1).getLsbD i = cur.getLsbD i)
/-- R8: a write out of range notes that it has set `CFG_ERR`; a write in the same CTL cycle that would clear it leaves it at 1, at each half and with or without a session; with the next cycle the note is gone.
The same holds of `UNCAPPABLE`. -/
def Obligations.SetsWinOverClearing : Prop :=
  (∀ (e : Env) (p : Nat) (w : Width) (v : W64) (s : State), onBus 0 (nodeOf e s) = true → inSession 0 (nodeOf e s) = true → p < 8 → (getP (nodeOf e s) p).st ≠ .absent →
    wdOk (merged w v (getP (nodeOf e s) p).wdCfg) = false →
    ∃ t, exec (.registerWrite e 0 .bar2 (0x50508 + 0x1000 * p) w v) s = .next t ∧ (0x50508 + 0x1000 * p, 32) ∈ t.node.pwr.w1cSets ∧ (getP t.node p).wdCfg.getLsbD 32 = true) ∧
  (∀ (e : Env) (p : Nat) (w : Width) (v : W64) (s : State), reach (nodeOf e s) = true → aonOnly (nodeOf e s) = false → (getFn (nodeOf e s) 0).enabled = true → p < 8 → (getP (nodeOf e s) p).st ≠ .absent →
    (0x50508 + 0x1000 * p, 32) ∈ (nodeOf e s).pwr.w1cSets → (getP (nodeOf e s) p).wdCfg.getLsbD 32 = true →
    ∃ t, exec (.registerWrite e 0 .bar2 (0x50508 + 0x1000 * p) w v) s = .next t ∧ (getP t.node p).wdCfg.getLsbD 32 = true) ∧
  (∀ (e : Env) (w : Width) (v : W64) (s : State), reach (nodeOf e s) = true → aonOnly (nodeOf e s) = false → (getFn (nodeOf e s) 0).enabled = true →
    (0x80020, 12) ∈ (nodeOf e s).pwr.w1cSets → (nodeOf e s).pwr.uncapp = true →
    ∃ t, exec (.registerWrite e 0 .bar2 0x80020 w v) s = .next t ∧ t.node.pwr.uncapp = true) ∧
  (∀ (e : Env) (s : State), s.clk.node < (clkOf e s).node → (nodeOf e s).pwr.w1cSets = [])
/-- R84, R155, R176, R289, R201, R229, R256, R346: a write of the register takes effect on it alone, through its access codes and its range; a `CFG_ERR` that it
sets is noted for R8. -/
def Obligations.ConfigurationWritesReachTheirRegister : Prop :=
  ∀ (e : Env) (fn p : Nat) (w : Width) (v : W64) (s : State), onBus fn (nodeOf e s) = true → p < 8 → (getP (nodeOf e s) p).st ≠ .absent →
    ((fn = 0 ∨ (getFn (nodeOf e s) fn).map = some p) →
      exec (.registerWrite e fn .bar2 (0x50038 + 0x1000 * p) w v) s = .next (endsWith e s (cfgReg (0x50038 + 0x1000 * p) (inSession fn (nodeOf e s)) w v (fmask 0 32) 32 (qryOk (getP (nodeOf e s) p)) (getP (nodeOf e s) p).qryCfg
        (fun c => modP p (fun y => { y with qryCfg := c })) (nodeOf e s))) ∧
      exec (.registerWrite e fn .bar2 (0x50508 + 0x1000 * p) w v) s = .next (endsWith e s (cfgReg (0x50508 + 0x1000 * p) (inSession fn (nodeOf e s)) w v (fmask 0 32) 32 wdOk (getP (nodeOf e s) p).wdCfg
        (fun c => modP p (fun y => { y with wdCfg := c })) (nodeOf e s)))) ∧
    ((fn ≠ 0 ∧ (getFn (nodeOf e s) fn).map ≠ some p) → ∀ off, off < 0x1000 → off % 8 = 0 → exec (.registerWrite e fn .bar2 (0x50000 + 0x1000 * p + off) w v) s = .next (idles e s)) ∧
    (fn ≠ 0 → exec (.registerWrite e fn .bar2 (0x50510 + 0x1000 * p) w v) s = .next (idles e s) ∧ exec (.registerWrite e fn .bar2 0x60008 w v) s = .next (idles e s) ∧
      exec (.registerWrite e fn .bar2 0x70000 w v) s = .next (idles e s) ∧ exec (.registerWrite e fn .bar2 0x80018 w v) s = .next (idles e s)) ∧
    (fn = 0 →
      exec (.registerWrite e fn .bar2 0x60008 w v) s = .next (endsWith e s (cfgReg 0x60008 (inSession fn (nodeOf e s)) w v (fmask 0 32) 32 migOk (nodeOf e s).mem.migCfg (fun c => modMem (fun m => { m with migCfg := c })) (nodeOf e s))) ∧
      exec (.registerWrite e fn .bar2 0x70000 w v) s = .next (endsWith e s (cfgReg 0x70000 (inSession fn (nodeOf e s)) w v (fmask 0 32) 32 flsOk (nodeOf e s).flash.cfg (fun c => modFls (fun x => { x with cfg := c })) (nodeOf e s))) ∧
      exec (.registerWrite e fn .bar2 0x80018 w v) s = .next (endsWith e s (cfgReg 0x80018 (inSession fn (nodeOf e s)) w v (fmask 26 14 ||| fmask 0 10) 56 limitOk (nodeOf e s).pwr.limit (fun c => modPwr (fun x => { x with limit := c })) (nodeOf e s))))
/-- R336: while the always-on domain alone answers, a register write other than of `PWR_CTL` and `PWR_PAD_RELEASE` is ignored and counted. -/
def Obligations.WritesAreLostWhileTheNodeSleeps : Prop :=
  ∀ (e : Env) (fn off : Nat) (w : Width) (v : W64) (s : State), reach (nodeOf e s) = true → aonOnly (nodeOf e s) = true → (getFn (nodeOf e s) fn).enabled = true → off % 8 = 0 → off ≠ 0x80000 → off ≠ 0x80010 →
    exec (.registerWrite e fn .bar2 off w v) s = .next (endsWith e s (modPwr (fun x => { x with lostWr := x.lostWr + 1 }) (nodeOf e s)))
/-- R259, R261, R262, R320: `LNK_NODE_ID` takes an identifier and makes every link that is past training negotiate again, and refuses 0xFFFF_FFFF with `LNK_CFG.CFG_ERR`; `LNK_PING` sends a PING, without a session;
`ENABLE` powers a link down or starts its training; `PTN_BUDDY` names the new buddy. -/
def Obligations.RegistersWithRowsOfTheirOwnComplete : Prop :=
  (∀ (e : Env) (v : W64) (s : State), onBus 0 (nodeOf e s) = true → inSession 0 (nodeOf e s) = true → fld v 0 32 ≠ 0xFFFFFFFF →
    exec (.lnkNodeId e 0 v) s = .next (endsWith e s (foldNode (List.range 36) (fun l n =>
      if (getL n l).carries ∨ (getL n l).st = .mismatch ∨ (getL n l).st = .negotiate then negotiate (clkOf e s) l n else n) (modLnk (fun b => { b with nodeId := v.setWidth 32 }) (nodeOf e s))))) ∧
  (∀ (e : Env) (v : W64) (s : State), onBus 0 (nodeOf e s) = true → inSession 0 (nodeOf e s) = true → fld v 0 32 = 0xFFFFFFFF →
    exec (.lnkNodeId e 0 v) s = .next (endsWith e s (noteSet 0x30008 32 (modLnk (fun b => { b with cfg := put b.cfg 32 1 1 }) (nodeOf e s))))) ∧
  (∀ (e : Env) (dst : W32) (s : State), onBus 0 (nodeOf e s) = true →
    exec (.lnkPing e 0 dst) s = .next (endsWith e s (send (clkOf e s) 0 dst mkPing 3 0 0 (toLe 8 (clkOf e s).node) (modLnk (fun b => { b with ping := some (dst, (clkOf e s).node), pingRes := 0 }) (nodeOf e s))))) ∧
  (∀ (e : Env) (l : Nat) (s : State), onBus 0 (nodeOf e s) = true → inSession 0 (nodeOf e s) = true → l < 36 → (getL (nodeOf e s) l).enable = true →
    exec (.linkEnable e 0 l false) s = .next (endsWith e s (emptyLink (clkOf e s) l (setLink (clkOf e s) l .off 0 (modL l (fun x => { x with peer := none }) (modL l (fun x => { x with enable := false }) (nodeOf e s))))))) ∧
  (∀ (e : Env) (l : Nat) (s : State), onBus 0 (nodeOf e s) = true → inSession 0 (nodeOf e s) = true → l < 36 → (getL (nodeOf e s) l).enable = false →
    exec (.linkEnable e 0 l true) s = .next (endsWith e s (setLink (clkOf e s) l .train 0 (modL l (fun x => { x with peer := none }) (modL l (fun x => { x with enable := true }) (nodeOf e s)))))) ∧
  (∀ (e : Env) (p : Nat) (v : W64) (s : State), onBus 0 (nodeOf e s) = true → inSession 0 (nodeOf e s) = true → p < 8 → (getP (nodeOf e s) p).st ≠ .absent → mirrorOn (getP (nodeOf e s) p) = false →
    bit (getP (nodeOf e s) p).durCfg 0 = false →
    ∃ n, exec (.ptnBuddy e 0 p v) s = .next (endsWith e s (endHolds (clkOf e s) p n)) ∧ (getP n p).buddy = v &&& 0xFFFFFFFF ∧ (getP n p).buddyAt = pctr (clkOf e s) p)

/-! ### Juolo links and traffic (chapter 12) -/

/-- R258 to R260, Table 12-2: a trained link sends its capability record and negotiates; the records' identifiers and levels lead to MISMATCH with the reason, or to a link that carries messages at the lower of the
two levels; the time limits of TRAIN and RETRAIN lead to DOWN, a DOWN link tries again after a second, and lost training starts again. The bundle's spare lane takes the first failure. -/
def Obligations.LinksTrain : Prop :=
  (∀ (e : Env) (l : Nat) (s : State), alive (nodeOf e s) = true → l < 36 → (getL (nodeOf e s) l).st = .train → (getL (nodeOf e s) l).bad.length < 2 →
    exec (.linkTrained e l) s = .next (endsWith e s (emit (.cap l (capOfLink (nodeOf e s) l)) (setLink (clkOf e s) l .negotiate 0 (nodeOf e s))))) ∧
  (∀ (e : Env) (l : Nat) (s : State), alive (nodeOf e s) = true → l < 36 → (getL (nodeOf e s) l).carries = true →
    exec (.linkTrainingLost e l) s = .next (endsWith e s (emptyLink (clkOf e s) l (setLink (clkOf e s) l .train 0 (modL l (fun x => { x with peer := none }) (nodeOf e s)))))) ∧
  (∀ (e : Env) (l : Nat) (r : CapRec) (s : State) (n : Node), alive (nodeOf e s) = true → l < 36 → (getL (nodeOf e s) l).st = .negotiate → modL l (fun x => { x with peer := some r }) (nodeOf e s) = n →
    (((nodeOf e s).lnk.nodeId = 0 ∨ r.nodeId = 0) → exec (.capabilityRecord e l r) s = .next (endsWith e s (setLink (clkOf e s) l .mismatch 1 n))) ∧
    ((nodeOf e s).lnk.nodeId ≠ 0 → (nodeOf e s).lnk.nodeId = r.nodeId → exec (.capabilityRecord e l r) s = .next (endsWith e s (setLink (clkOf e s) l .mismatch 2 n))) ∧
    ((nodeOf e s).lnk.nodeId ≠ 0 → r.nodeId ≠ 0 → (nodeOf e s).lnk.nodeId ≠ r.nodeId → min (imgProto (nodeOf e s)) r.proto < max 3 r.protoMin →
      exec (.capabilityRecord e l r) s = .next (endsWith e s (setLink (clkOf e s) l .mismatch 3 n))) ∧
    ((nodeOf e s).lnk.nodeId ≠ 0 → r.nodeId ≠ 0 → (nodeOf e s).lnk.nodeId ≠ r.nodeId → max 3 r.protoMin ≤ min (imgProto (nodeOf e s)) r.proto →
      ∃ t, exec (.capabilityRecord e l r) s = .next t ∧ (getL t.node l).st = carrySt (getL (nodeOf e s) l) ∧ (getL t.node l).level = min (imgProto (nodeOf e s)) r.proto ∧
        (getL t.node l).why = 0 ∧ (getL t.node l).peer = some r ∧ t.clk = clkOf e s ∧ t.node.ptns = (nodeOf e s).ptns)) ∧
  (∀ (e : Env) (l : Nat) (s : State), alive (nodeOf e s) = true → l < 36 → (getL (nodeOf e s) l).st = .train → (getL (nodeOf e s) l).since + 45000000 ≤ (clkOf e s).node →
    exec (.trainTimeout e l) s = .next (endsWith e s (emptyLink (clkOf e s) l (setLink (clkOf e s) l .down (if 2 ≤ (getL (nodeOf e s) l).bad.length then 4 else 6) (nodeOf e s))))) ∧
  (∀ (e : Env) (l : Nat) (s : State), alive (nodeOf e s) = true → l < 36 → (getL (nodeOf e s) l).st = .retrain → (getL (nodeOf e s) l).since + 6000000 ≤ (clkOf e s).node →
    exec (.retrainTimeout e l) s = .next (endsWith e s (emptyLink (clkOf e s) l (setLink (clkOf e s) l .down 5 (nodeOf e s))))) ∧
  (∀ (e : Env) (l : Nat) (s : State), alive (nodeOf e s) = true → l < 36 → (getL (nodeOf e s) l).st = .down → (getL (nodeOf e s) l).since + 300000000 ≤ (clkOf e s).node → (getL (nodeOf e s) l).bad.length < 2 →
    exec (.linkDownRetry e l) s = .next (endsWith e s (setLink (clkOf e s) l .train 0 (modL l (fun x => { x with peer := none }) (nodeOf e s))))) ∧
  (∀ (e : Env) (l lane : Nat) (s : State), alive (nodeOf e s) = true → l < 36 → lane < 2 → (getL (nodeOf e s) l).bad = [] → (getL (nodeOf e s) l).st = .active →
    (∀ i, i < 6 → (getL (nodeOf e s) (6 * (l / 6) + i)).spare = false) →
    exec (.laneFailed e l lane) s = .next (endsWith e s (retrain (clkOf e s) l (raiseAt attnWear 0 (spareRecord (clkOf e s) 0 spLink (13 * (l / 6) + 2 * (l % 6) + lane)
      (recordRepair (fun m => { m with links := m.links ++ [(l / 6, 13 * (l / 6) + 2 * (l % 6) + lane)] }) (modL l (fun x => { x with spare := true }) (nodeOf e s)))))))) ∧
  (∀ (e : Env) (l lane i : Nat) (s : State), alive (nodeOf e s) = true → l < 36 → lane < 2 → (getL (nodeOf e s) l).bad = [] → (getL (nodeOf e s) l).st = .active →
    i < 6 → (getL (nodeOf e s) (6 * (l / 6) + i)).spare = true →
    exec (.laneFailed e l lane) s = .next (endsWith e s (retrain (clkOf e s) l (modL l (fun x => { x with bad := [lane] }) (nodeOf e s)))))

/-- R262 to R266, Table 12-3: a flit that cannot be corrected is NAKed; a good message flit in sequence moves the receive sequence on and adds its payload; flits 8 µs without acknowledgement are sent again; 100 ms without a credit count
a stall and raise attention; a message for another node leaves with one more hop, and is discarded and counted where it has no link or is at hop 63. -/
def Obligations.FlitsMove : Prop :=
  (∀ (e : Env) (l k : Nat) (s : State), alive (nodeOf e s) = true → l < 36 → (getL (nodeOf e s) l).carries = true →
    exec (.flit e l { bytes := none, corrected := k }) s = .next (endsWith e s (emit (.nak l (getL (nodeOf e s) l).rxSeq) (countL l 4 1 (nodeOf e s))))) ∧
  (∀ (e : Env) (l : Nat) (bs : List Byte) (s : State) (x : Link), alive (nodeOf e s) = true → l < 36 → getL (nodeOf e s) l = x → x.carries = true → bs.length = 244 →
    crc32c (bs.take 240) = BitVec.ofNat 32 (leAt bs 240 4) → (leAt bs 5 1 % 4 = 1 ∨ leAt bs 5 1 % 4 = 2) → leAt bs 5 1 / 4 % 2 = 0 → leAt bs 0 2 % 4096 = x.rxSeq →
    ∃ t, exec (.flit e l { bytes := some bs }) s = .next t ∧ (getL t.node l).rxSeq = (x.rxSeq + 1) % 4096 ∧
      (getL t.node l).asm_ = mset x.asm_ (2 * (leAt bs 5 1 / 8 % 8) + leAt bs 5 1 / 64 % 2)
        ((if leAt bs 5 1 % 4 = 1 then [] else (mget x.asm_ (2 * (leAt bs 5 1 / 8 % 8) + leAt bs 5 1 / 64 % 2)).getD []) ++ slice bs 8 232) ∧
      t.clk = clkOf e s ∧ t.node.lnk.inbox = (nodeOf e s).lnk.inbox ∧ t.node.ptns = (nodeOf e s).ptns) ∧
  (∀ (e : Env) (l : Nat) (s : State) (f : TxFlit) (r : List TxFlit), alive (nodeOf e s) = true → l < 36 → (getL (nodeOf e s) l).carries = true → (getL (nodeOf e s) l).replay = f :: r → f.at_ + 2400 ≤ (clkOf e s).node →
    f.tries < 15 →
    exec (.replayTimeout e l) s = .next (endsWith e s (countL l 2 (r.length + 1) (modL l (fun x => { x with
      replay := { f with at_ := (clkOf e s).node, tries := f.tries + 1 } :: r.map (fun g => { g with at_ := (clkOf e s).node }) })
        (foldNode (f :: r) (fun g => emit (.flit l (flitBytes g.fseq (fackOf (getL (nodeOf e s) l)) 0 g.ftype g.data))) (nodeOf e s))))) ) ∧
  (∀ (e : Env) (l c pool : Nat) (s : State) (x : Link), alive (nodeOf e s) = true → l < 36 → c < 8 → pool < 2 → getL (nodeOf e s) l = x → x.carries = true →
    x.waiting.any (fun g => msgClass g.m.kind == c && g.pool == pool) = true → x.credits.getD (2 * c + pool) 0 = 0 → x.stallAt.getD (2 * c + pool) 0 + 30000000 ≤ (clkOf e s).node →
    exec (.creditStall e l c pool) s = .next (endsWith e s (raiseAt attnLink 0 (countL l 7 1 (modL l (fun x => { x with
      stallAt := lmod x.stallAt (2 * c + pool) (fun _ => (clkOf e s).node) }) (nodeOf e s)))))) ∧
  (∀ (e : Env) (l : Nat) (m : Msg) (s : State) (k pool : Nat), alive (nodeOf e s) = true → l < 36 → m.dst ≠ (nodeOf e s).lnk.nodeId → delivers (nodeOf e s) l = true → m.hops < 63 → pickLink (nodeOf e s) m = some (k, pool) →
    exec (.messageForward e l m) s = .next (endsWith e s (foldNode (segments (m.body.length / 65536) 0 { m with hops := m.hops + 1 }) (enqueue (clkOf e s) 255 pool k)
      (modLnk (fun b => { b with inbox := b.inbox.erase (l, m) }) (nodeOf e s))))) ∧
  (∀ (e : Env) (l : Nat) (m : Msg) (s : State), alive (nodeOf e s) = true → l < 36 → m.dst ≠ (nodeOf e s).lnk.nodeId → delivers (nodeOf e s) l = true →
    (m.hops = 63 → (pickLink (nodeOf e s) m).isSome = true → exec (.messageForward e l m) s = .next (endsWith e s (countLnk 1 1 (modLnk (fun b => { b with inbox := b.inbox.erase (l, m) }) (nodeOf e s))))) ∧
    (pickLink (nodeOf e s) m = none → exec (.messageForward e l m) s = .next (endsWith e s (countLnk 0 1 (modLnk (fun b => { b with inbox := b.inbox.erase (l, m) }) (nodeOf e s))))))

/-- R262, R269, R270: a PING is answered with its own body at the highest priority; the reply, or 10 ms without it, sets `LNK_PING_RES`; an ACK ends the wait for its message; after `RESEND_US` the message goes again, and after `SENDS`
sends it is undeliverable; a LEVEL_REJECT lowers the route's level and sends the message again at once. -/
def Obligations.MessagesAreAcknowledged : Prop :=
  (∀ (e : Env) (l : Nat) (m : Msg) (s : State) (n : Node), Delivered mkPing l m e s n → exec (.ping e l m) s = .next (endsWith e s (send (clkOf e s) 64 m.src mkPingReply 3 0 0 m.body n))) ∧
  (∀ (e : Env) (l : Nat) (m : Msg) (s : State) (n : Node) (t : Nat), Delivered mkPingReply l m e s n → n.lnk.ping = some (m.src, t) → leAt m.body 0 8 = t →
    exec (.pingReply e l m) s = .next (endsWith e s (modLnk (fun b => { b with ping := none, pingRes := word [(63, 1, 1), (0, 62, (clkOf e s).node - t)] }) n))) ∧
  (∀ (e : Env) (s : State) (d : W32) (t : Nat), alive (nodeOf e s) = true → (nodeOf e s).lnk.ping = some (d, t) → t + 3000000 ≤ (clkOf e s).node →
    exec (.pingTimeout e) s = .next (endsWith e s (modLnk (fun b => { b with ping := none, pingRes := word [(63, 1, 1), (62, 1, 1)] }) (nodeOf e s)))) ∧
  (∀ (e : Env) (l : Nat) (m : Msg) (s : State) (n : Node) (a : AckWait), Delivered mkAck l m e s n → findAck n (leAt m.body 0 8) (some m.src) = some a →
    exec (.ackMsg e l m) s = .next (endsWith e s (ackedFor (clkOf e s) a (modLnk (fun b => { b with acks := b.acks.filter (fun x => x.m.seq != a.m.seq) }) n)))) ∧
  (∀ (e : Env) (q : Nat) (s : State) (a : AckWait), alive (nodeOf e s) = true → findAck (nodeOf e s) q none = some a → a.at_ + 300 * fld (nodeOf e s).lnk.cfg 0 16 ≤ (clkOf e s).node →
    (getP (nodeOf e s) a.m.srcPtn).st ≠ .resetting → a.sends < fld (nodeOf e s).lnk.cfg 16 4 →
    exec (.resendTimeout e q) s = .next (endsWith e s (dispatch (clkOf e s) (64 + a.m.srcPtn) { a.m with resend := true, hops := 0 } (countLnk 4 1 (modLnk (fun b => { b with
      acks := modFirst (fun x => x.m.seq == a.m.seq) (fun x => { x with m := { a.m with resend := true, hops := 0 }, sends := x.sends + 1, at_ := (clkOf e s).node }) b.acks }) (nodeOf e s)))))) ∧
  (∀ (e : Env) (q : Nat) (s : State) (a : AckWait), alive (nodeOf e s) = true → findAck (nodeOf e s) q none = some a → a.at_ + 300 * fld (nodeOf e s).lnk.cfg 0 16 ≤ (clkOf e s).node →
    (getP (nodeOf e s) a.m.srcPtn).st ≠ .resetting → fld (nodeOf e s).lnk.cfg 16 4 ≤ a.sends →
    exec (.resendTimeout e q) s = .next (endsWith e s (lostFor (clkOf e s) a (countLnk 3 1 (modLnk (fun b => { b with acks := b.acks.filter (fun x => x.m.seq != a.m.seq) }) (nodeOf e s)))))) ∧
  (∀ (e : Env) (l : Nat) (m : Msg) (s : State) (n : Node) (a : AckWait), Delivered mkReject l m e s n → findAck n (leAt m.body 0 8) (some m.src) = some a → (∀ p k c, a.for_ ≠ .mirror p k c) →
    a.sends < fld n.lnk.cfg 16 4 →
    exec (.levelReject e l m) s = .next (endsWith e s (resend (clkOf e s) { a with m := { a.m with level := min (leAt m.body 9 1) a.m.level } }
      (modLnk (fun b => { b with routes := mmod b.routes (m.src.toNat % 4096) (fun w => if fld w 32 32 == m.src.toNat then put w 20 4 (min (leAt m.body 9 1) (fld w 20 4)) else w) }) (countLnk 2 1 n)))))

/-- R273 to R277: at a refill instant every pending shaper and policer write takes effect and every policer is refilled, once; a flow runs in the slot of its wheel entry. -/
def Obligations.TrafficIsShaped : Prop :=
  (∀ (e : Env) (s : State), alive (nodeOf e s) = true → refillInstant (clkOf e s).node = true → (nodeOf e s).lnk.refillAt < (clkOf e s).node →
    ∃ t, exec (.refillInstant e) s = .next t ∧ t.node.lnk.refillAt = (clkOf e s).node ∧ t.node.lnk.pendShape = [] ∧ t.node.lnk.pendSvc = [] ∧
      t.node.lnk.shape = (nodeOf e s).lnk.pendShape.foldl (fun m x => mset m x.1 x.2) (nodeOf e s).lnk.shape ∧ t.node.lnk.svc = (nodeOf e s).lnk.pendSvc.foldl (fun m x => mset m x.1 x.2) (nodeOf e s).lnk.svc ∧
      t.node.lnk.pols = (nodeOf e s).lnk.pols.mapIdx (fun f x => refillPol (frozenOwner (nodeOf e s) f) 1 x) ∧ t.node.ptns = (nodeOf e s).ptns ∧ t.node.lnk.routes = (nodeOf e s).lnk.routes) ∧
  (∀ (e : Env) (l c own k : Nat) (s : State) (f : Flow), alive (nodeOf e s) = true → (nodeOf e s).lnk.flows.find? (sameFlow own c l) = some f → f.slot = some k → k ≤ slotOf (clkOf e s).node →
    exec (.wheelSlotDue e l c own) s = .next (endsWith e s (runFlow (clkOf e s) f (nodeOf e s))))

/-! ### Pins, power-up and boot (chapters 02 and 15) -/

/-- R18, R352, R354 to R358: while `PERST_N` is asserted the counters stand at zero, no regulator is enabled and nothing volatile is kept, while the boot flash's slots, directory and repair map and the records of the always-on domain stay; at
its rise the straps are sampled, the boot begins at step 0x01 with the slot that the directory names (a trial's flag is cleared first) and rail 3 is enabled. -/
def Obligations.ResetPinsComplete : Prop :=
  (∀ (e : Env) (s : State), ∃ t, exec (.perstNAssert e) s = .next t ∧ t.clk = {} ∧ t.node.pins.perst = false ∧ t.node.pins.vrEn = 0 ∧ t.node.pins.vrPg = 0 ∧ t.node.boot.step = 0 ∧ t.node.boot.image = none ∧
    t.node.fns = Vector.replicate 64 {} ∧ t.node.lnk = {} ∧ t.node.mem = {} ∧ t.node.bflash.active = s.node.bflash.active ∧ t.node.bflash.counter = s.node.bflash.counter ∧ t.node.bflash.map = s.node.bflash.map ∧
    t.node.bflash.slotA.image = s.node.bflash.slotA.image ∧ t.node.bflash.slotB.image = s.node.bflash.slotB.image ∧ t.node.pwr.tripped = s.node.pwr.tripped ∧ t.node.pwr.lockLost = s.node.pwr.lockLost ∧ t.host = hostOf e s) ∧
  (∀ (e : Env) (straps : BitVec 4) (s : State), (nodeOf e s).pins.perst = false → straps.getLsbD 3 = false → straps.getLsbD 2 = false → (nodeOf e s).bflash.suitable = true → (nodeOf e s).bflash.trial = none →
    ∃ t, exec (.perstNDeassert e straps) s = .next t ∧ t.node.pins.perst = true ∧ t.node.pins.straps = straps ∧ t.node.pins.vrEn = 8 ∧ t.node.boot.step = 1 ∧ t.node.boot.trySlot = (nodeOf e s).bflash.active ∧
      t.node.boot.isTrial = (nodeOf e s).boot.isTrial ∧ t.node.bflash = (nodeOf e s).bflash ∧ t.node.ptns = (nodeOf e s).ptns ∧ t.node.fns = (nodeOf e s).fns) ∧
  (∀ (e : Env) (straps : BitVec 4) (k : Nat) (s : State), (nodeOf e s).pins.perst = false → straps.getLsbD 3 = false → straps.getLsbD 2 = false → (nodeOf e s).bflash.suitable = true → (nodeOf e s).bflash.trial = some k →
    ∃ t, exec (.perstNDeassert e straps) s = .next t ∧ t.node.boot.step = 1 ∧ t.node.boot.trySlot = k ∧ t.node.boot.isTrial = true ∧ t.node.bflash = { (nodeOf e s).bflash with trial := none }) ∧
  (∀ (e : Env) (straps : BitVec 4) (s : State), (nodeOf e s).pins.perst = false → straps.getLsbD 3 = false → straps.getLsbD 2 = true →
    ∃ t, exec (.perstNDeassert e straps) s = .next t ∧ t.node.boot.mode = 1 ∧ (getFn t.node 0).enabled = true ∧ t.node.bflash = (nodeOf e s).bflash) ∧
  (∀ (e : Env) (s : State), ∃ t, exec (.powerLoss e) s = .next t ∧ t.clk = {} ∧ t.node.pins = {} ∧ t.node.boot.failA = 0 ∧ t.node.boot.failB = 0 ∧ t.node.pwr.tripped = false ∧ t.node.pwr.lockLost = false ∧
    t.node.bflash.active = s.node.bflash.active ∧ t.node.bflash.counter = s.node.bflash.counter) ∧
  (∀ (e : Env) (s : State), (nodeOf e s).pins.perst = true → (nodeOf e s).boot.stopped = true → (nodeOf e s).pwr.rootLock = false → (nodeOf e s).pins.thermtrip = true → (nodeOf e s).pins.vrEn ≠ 0 →
    (nodeOf e s).pins.straps.getLsbD 2 = false → (nodeOf e s).bflash.suitable = true → (nodeOf e s).bflash.trial = none →
    ∃ t, exec (.rootPllRelock e) s = .next t ∧ t.clk.node = (clkOf e s).node ∧ t.node.pwr.rootLock = true ∧ t.node.pwr.lockLost = (nodeOf e s).pwr.lockLost ∧ t.node.boot.stopped = false ∧ t.node.boot.step = 1 ∧
      t.node.pins = (nodeOf e s).pins ∧ t.node.boot.trySlot = (nodeOf e s).bflash.active)

/-- R345, R353 to R356, Table 15-5: a rail's power-good enables the next rails, and the last one starts the AVSBus requests; 5 ms without it drops every enable, once for a retry 10 ms later, then for good; a power-good that falls, or a lost lock,
stops every other domain. -/
def Obligations.RailsSequence : Prop :=
  (∀ (e : Env) (r : Nat) (s : State) (k : Pins), (nodeOf e s).pins = k → r < 5 → k.perst = true → (nodeOf e s).boot.stopped = false → k.vrEn.getLsbD r = true → k.vrPg.getLsbD r = false → k.vrAt ≤ (clkOf e s).node →
    k.vrPg ||| railBit r ≠ 31 →
    exec (.vrPgRise e r) s = .next (endsWith e s { nodeOf e s with pins := { k with vrPg := k.vrPg ||| railBit r, vrEn := k.vrEn ||| nextEn r, vrAt := (clkOf e s).node } })) ∧
  (∀ (e : Env) (r : Nat) (s : State) (k : Pins), (nodeOf e s).pins = k → r < 5 → k.perst = true → (nodeOf e s).boot.stopped = false → k.vrEn.getLsbD r = true → k.vrPg.getLsbD r = false → k.vrAt ≤ (clkOf e s).node →
    k.vrPg ||| railBit r = 31 → (nodeOf e s).boot.hostUp = false →
    exec (.vrPgRise e r) s = .next (endsWith e s (foldNode (List.range 6) (askRun (clkOf e s))
      { nodeOf e s with pins := { k with vrPg := 31, vrEn := k.vrEn ||| nextEn r, vrAt := (clkOf e s).node } }))) ∧
  (∀ (e : Env) (r : Nat) (s : State) (k : Pins), (nodeOf e s).pins = k → r < 5 → k.perst = true → (nodeOf e s).boot.stopped = false → k.vrEn.getLsbD r = true → k.vrPg.getLsbD r = false → k.vrAt + 1500000 ≤ (clkOf e s).node →
    (nodeOf e s).pwr.st ≠ .waking →
    (k.vrRetry = false → exec (.vrPgTimeout e r) s = .next (endsWith e s { nodeOf e s with pins := { k with vrEn := 0, vrPg := 0, vrRetry := true, vrAt := (clkOf e s).node + 3000000 } })) ∧
    (k.vrRetry = true → exec (.vrPgTimeout e r) s = .next (endsWith e s { nodeOf e s with pins := { k with vrEn := 0, vrPg := 0, vrRetry := false, vrAt := (clkOf e s).node + 3000000 } }))) ∧
  (∀ (e : Env) (r : Nat) (s : State), r < 5 → (nodeOf e s).pins.perst = true → (nodeOf e s).boot.stopped = false → (nodeOf e s).pins.vrEn.getLsbD r = true → (nodeOf e s).pins.vrPg.getLsbD r = true →
    exec (.vrPgFall e r) s = .next (endsWith e s { nodeOf e s with pins := { (nodeOf e s).pins with vrEn := 0, vrPg := 0 }, boot := { (nodeOf e s).boot with stopped := true } })) ∧
  (∀ (e : Env) (s : State), (nodeOf e s).pins.perst = true → (nodeOf e s).boot.stopped = false → (nodeOf e s).pwr.rootLock = true →
    exec (.lockLost e) s = .next (endsWith e s { nodeOf e s with pwr := { (nodeOf e s).pwr with lockLost := true, rootLock := false }, boot := { (nodeOf e s).boot with stopped := true } }))

/-- R24 to R31, R33, R39, Tables 2-6 and 2-8: the boot's steps. A slot whose image passes every check is taken; otherwise its first failing check is recorded and the other slot is tried, and after both the node enters recovery mode. The node
section makes the partitions and functions; the steps 0x07 and 0x08 end; the test of a node without a good map ends with the map that it found; READY applies the sections; a trial that is not ready after 20 s falls back. -/
def Obligations.BootProceeds : Prop :=
  (∀ (e : Env) (rate width : Nat) (s : State), alive (nodeOf e s) = true → 1 ≤ rate → rate ≤ 5 → width ∈ [1, 2, 4, 8, 16] →
    ((nodeOf e s).boot.step ≠ 0 → (nodeOf e s).pins.vrPg = 31 →
      exec (.hostLinkUp ⟨e, rate, width⟩) s = .next (endsWith e s (modBoot (fun b => { b with hostUp := true, linkRate := rate, linkWidth := width, step := max b.step 2 }) (nodeOf e s)))) ∧
    (((nodeOf e s).boot.step = 0 ∨ (nodeOf e s).pins.vrPg ≠ 31) →
      exec (.hostLinkUp ⟨e, rate, width⟩) s = .next (endsWith e s (modBoot (fun b => { b with hostUp := true, linkRate := rate, linkWidth := width }) (nodeOf e s))))) ∧
  (∀ (e : Env) (s : State), alive (nodeOf e s) = true → booting (nodeOf e s) = true → (nodeOf e s).pins.vrPg = 31 → (nodeOf e s).boot.imgRead = false →
    exec (.imageReadDone e) s = .next (endsWith e s (modBoot (fun b => { b with imgRead := true, step := max b.step 3 }) (nodeOf e s)))) ∧
  (∀ (e : Env) (s : State) (i : Image), alive (nodeOf e s) = true → booting (nodeOf e s) = true → (nodeOf e s).boot.imgRead = true → (nodeOf e s).bflash.ctrAuth = true →
    (imgSlot (nodeOf e s) (nodeOf e s).boot.trySlot).image = some i →
    (checkImage (nodeOf e s).bflash.counter (some i) = 0 →
      exec (.imageVerified e) s = .next (endsWith e s (modBoot (fun b => { b with image := some i, slot := b.trySlot, mode := if b.isTrial then 2 else 0, step := max b.step 4 }) (nodeOf e s)))) ∧
    (checkImage (nodeOf e s).bflash.counter (some i) ≠ 0 → 1 - (nodeOf e s).boot.trySlot ∉ (nodeOf e s).boot.tried →
      exec (.imageVerified e) s = .next (endsWith e s (modBoot (fun b => { b with tried := b.tried ++ [b.trySlot], isTrial := false, imgRead := false, trySlot := 1 - b.trySlot })
        (recordFail (nodeOf e s).boot.trySlot (checkImage (nodeOf e s).bflash.counter (some i)) (nodeOf e s))))) ∧
    (checkImage (nodeOf e s).bflash.counter (some i) ≠ 0 → 1 - (nodeOf e s).boot.trySlot ∈ (nodeOf e s).boot.tried →
      ∃ t, exec (.imageVerified e) s = .next t ∧ t.node.boot.mode = 1 ∧ (getFn t.node 0).enabled = true ∧ t.node.boot.image = none)) ∧
  (∀ (e : Env) (s : State), alive (nodeOf e s) = true → (nodeOf e s).boot.image.isSome = true → (nodeOf e s).boot.mapRead = false →
    exec (.repairMapApplied e) s = .next (endsWith e s (modBoot (fun b => { b with step := max b.step 5 }) (bindLinks (bindMem (modBoot (fun b => { b with mapRead := true, mapGood := (nodeOf e s).bflash.mapAuth, running := if (nodeOf e s).bflash.mapAuth then (nodeOf e s).bflash.map else {} }) (nodeOf e s))))))) ∧
  (∀ (e : Env) (s : State) (i : Image), alive (nodeOf e s) = true → (nodeOf e s).boot.image = some i → (nodeOf e s).boot.mapRead = true → (nodeOf e s).boot.step < 6 →
    ∃ t, exec (.nodeSectionApplied e) s = .next t ∧ t.node.boot.step = 6 ∧
      (∀ p x, p < 8 → i.node.map[p]? = some x → x.valid = true →
        (getP t.node p).st = .inService ∧ (getP t.node p).ent = x ∧ (getP t.node p).share = x.threads ∧ vget t.clk.ptn p = some ((vget (clkOf e s).ptn p).getD (clkOf e s).node)) ∧
      (∀ p, p < 8 → (∀ x, i.node.map[p]? = some x → x.valid = false) → (getP t.node p).st = .absent ∧ vget t.clk.ptn p = none) ∧
      (∀ f, f < 64 → (getFn t.node f).enabled = decide (f ≤ min (min 63 i.node.totalVfs) i.node.numVfs))) ∧
  (∀ (e : Env) (s : State), alive (nodeOf e s) = true → 6 ≤ (nodeOf e s).boot.step → 7 ∉ (nodeOf e s).boot.done →
    ∃ t, exec (.tier1Trained e) s = .next t ∧ 7 ∈ t.node.boot.done ∧ t.node.boot.testing = (if (nodeOf e s).boot.mapGood then (nodeOf e s).boot.testing else true) ∧ t.node.ptns = (nodeOf e s).ptns) ∧
  (∀ (e : Env) (ds : List Dimm) (s : State), alive (nodeOf e s) = true → 6 ≤ (nodeOf e s).boot.step → 8 ∉ (nodeOf e s).boot.done →
    ∃ t, exec (.tier2Trained e ds) s = .next t ∧ 8 ∈ t.node.boot.done ∧ (∀ c g, c < 12 → ds[c]? = some (.active g) → (vget t.node.mem.t2 c).st = 1 ∧ (vget t.node.mem.t2 c).gib = g) ∧
      (∀ c, c < 12 → ds.length ≤ c → (vget t.node.mem.t2 c).st = 0) ∧ ((∀ c ∈ (nodeOf e s).flash.carts.toList, c.st ≠ .identifying) → 9 ∈ t.node.boot.done)) ∧
  (∀ (e : Env) (m : RepairMap) (s : State), alive (nodeOf e s) = true → (nodeOf e s).boot.testing = true →
    ∃ t, exec (.repairTestEnd e m) s = .next t ∧ t.node.bflash.map = rebuiltMap m ∧ t.node.bflash.mapAuth = true ∧ t.node.boot.rebuilt = true ∧ t.node.boot.testing = false ∧ t.node.boot.running = rebuiltMap m ∧
      t.node.boot.mapGood = true) ∧
  (∀ (e : Env) (s : State) (i : Image), alive (nodeOf e s) = true → (nodeOf e s).boot.image = some i → (nodeOf e s).boot.ready = false → 6 ≤ (nodeOf e s).boot.step → 7 ∈ (nodeOf e s).boot.done → 8 ∈ (nodeOf e s).boot.done →
    (nodeOf e s).boot.testing = false → (nodeOf e s).boot.mapGood = true → (∀ c ∈ (nodeOf e s).flash.carts.toList, c.st ≠ .identifying) →
    ∃ t, exec (.readyStep e) s = .next t ∧ t.node.boot.ready = true ∧ t.node.boot.step = 10 ∧
      (∀ p, p < 8 → (getP (nodeOf e s) p).st ≠ .absent → (getP t.node p).sec = i.parts.find? (fun x => x.ptn == p) ∧ (getP t.node p).srcSlot = (nodeOf e s).boot.slot)) ∧
  (∀ (e : Env) (s : State), alive (nodeOf e s) = true → (nodeOf e s).boot.isTrial = true → (nodeOf e s).boot.ready = false → (nodeOf e s).boot.testing = false → (nodeOf e s).boot.trySlot = 1 →
    (nodeOf e s).boot.bootAt + (nodeOf e s).boot.testCyc + 6000000000 ≤ (clkOf e s).node → (nodeOf e s).pins.straps.getLsbD 2 = false → (nodeOf e s).bflash.suitable = true → (nodeOf e s).bflash.trial = none →
    ∃ t, exec (.trialTimeout e) s = .next t ∧ t.node.boot.failB = 9 ∧ t.node.boot.trySlot = (nodeOf e s).bflash.active ∧ t.node.boot.isTrial = false ∧ t.node.boot.step = 1)

/-- R34 to R38: `IMAGE_WRITE` stores the bytes in the slot, which is no longer verified; `IMAGE_VERIFY` records the verdict; `IMAGE_SELECT` marks a verified slot for trial; `IMAGE_COMMIT` makes the running slot active and raises the counter, which never
falls; a live load runs at once over partitions that nothing uses, and otherwise waits for its drain, or for the limit's partition reset. -/
def Obligations.ImageCommandsComplete : Prop :=
  (∀ (e : Env) (q : QRef) (form : ImageForm) (s : State) (t : Tok) (x : Sqe) (n : Node), Taken Rows.imageWrite anyEntry imageWriteChk noPtn q e s t x n →
    exec (.imageWrite e q form) s = .next (endsWith e s (post (clkOf e s) t stSuccess 0 (modSlot x.arg0 (fun k =>
      { bytes := Mem.writeN k.bytes x.arg1 (Mem.readN (hostOf e s) x.addr0 x.arg2), image := some (imageOf (Mem.readN (Mem.writeN k.bytes x.arg1 (Mem.readN (hostOf e s) x.addr0 x.arg2))) form) }) n)))) ∧
  (∀ (e : Env) (q : QRef) (s : State) (t : Tok) (x : Sqe) (n : Node), Taken Rows.imageVerify anyEntry slotChk noPtn q e s t x n → n.bflash.ctrAuth = true →
    (checkImage n.bflash.counter (imgSlot n x.arg0).image = 0 →
      exec (.imageVerify e q) s = .next (endsWith e s (post (clkOf e s) t stSuccess 0 (modSlot x.arg0 (fun k => { k with verified := true, staged := true }) n)))) ∧
    (checkImage n.bflash.counter (imgSlot n x.arg0).image ≠ 0 →
      exec (.imageVerify e q) s = .next (endsWith e s (post (clkOf e s) t stImageRejected 0 (recordFail x.arg0 (checkImage n.bflash.counter (imgSlot n x.arg0).image)
        (modSlot x.arg0 (fun k => { k with verified := false, staged := false }) n)))))) ∧
  (∀ (e : Env) (q : QRef) (s : State) (t : Tok) (x : Sqe) (n : Node), Taken Rows.imageSelect anyEntry slotChk noPtn q e s t x n →
    ((imgSlot n x.arg0).verified = true → exec (.imageSelect e q) s = .next (endsWith e s (post (clkOf e s) t stSuccess 0 { n with bflash := { n.bflash with trial := some x.arg0 } }))) ∧
    ((imgSlot n x.arg0).verified = false → exec (.imageSelect e q) s = .next (endsWith e s (post (clkOf e s) t stImageRejected 0 n)))) ∧
  (∀ (e : Env) (q : QRef) (s : State) (t : Tok) (x : Sqe) (n : Node) (i : Image), Taken Rows.imageCommit anyEntry noChk noPtn q e s t x n → n.boot.image = some i →
    exec (.imageCommit e q) s = .next (endsWith e s (post (clkOf e s) t stSuccess 0 { n with
      bflash := { n.bflash with active := n.boot.slot, counter := max n.bflash.counter i.secVer.toNat }, boot := { n.boot with mode := if n.boot.mode = 2 then 0 else n.boot.mode, isTrial := false } }))) ∧
  (∀ (e : Env) (q : QRef) (s : State) (t : Tok) (x : Sqe) (n : Node), Taken Rows.partitionImageLoad anyEntry slotChk noPtn q e s t x n → (imgSlot n x.arg0).verified = true → (imgSlot n x.arg0).staged = true →
    loadRefused n x.arg0 ((List.range 8).filter (fun p => x.arg1.testBit p)) = none → n.boot.liveTok = none →
    exec (.partitionImageLoad e q) s = .next (endsWith e s (stepLive (clkOf e s) (modBoot (fun b => { b with
      liveTok := some t, liveSlot := x.arg0, liveQ := ((List.range 8).filter (fun p => x.arg1.testBit p)).filterMap (secIn n x.arg0) }) n)))) ∧
  (∀ (e : Env) (p : Nat) (s : State) (l : Load), alive (nodeOf e s) = true → (getP (nodeOf e s) p).load = some l → (getP (nodeOf e s) p).st = .loading → (getP (nodeOf e s) p).run = none → liveDrained (nodeOf e s) p = true →
    exec (.liveLoadDrainEnd e p) s = .next (endsWith e s (stepLive (clkOf e s) (modP p (fun x => { x with st := .inService, idleFor := 0 }) (installSec (clkOf e s) p l.slot l.sec (nodeOf e s)))))) ∧
  (∀ (e : Env) (p : Nat) (s : State) (l : Load), alive (nodeOf e s) = true → (getP (nodeOf e s) p).load = some l → (getP (nodeOf e s) p).st = .loading → (getP (nodeOf e s) p).run = none → liveDrained (nodeOf e s) p = false →
    l.deadline ≤ pctr (clkOf e s) p →
    exec (.drainLimit e p) s = .next (endsWith e s (raiseAt attnImage 0 (startReset (clkOf e s) p
      { seq := 0, ctr := 0, kind := fkDrainLimit, d1 := (ioPairs (nodeOf e s) p).foldl (fun a q => a + q.2.2.cmds.length) 0 } none
      (modP p (fun x => { x with load := some { l with install := true } }) (nodeOf e s))))))

/-- R40, R41: each SPDM request has one answer on its own transport; after the version, the capabilities and the algorithms, digests, certificate, challenge and measurements are answered, the last two signed with the negotiated algorithm. The codes,
their order and their layout are SPDM 1.2's, which the spec names but does not print (log 16). -/
def Obligations.AttestationAnswers : Prop :=
  ∀ (e : Env) (tr : Transport) (s : State), alive (nodeOf e s) = true → spdmUp (nodeOf e s) tr = true →
    exec (.spdmGetVersion e tr) s = .next (endsWith e s (emit (.spdm tr (Config.spdmBody 0x04 [])) (modSpdm tr (fun _ => { version := true }) (nodeOf e s)))) ∧
    ((getSpdm (nodeOf e s) tr).version = true →
      exec (.spdmGetCapabilities e tr) s = .next (endsWith e s (emit (.spdm tr (Config.spdmBody 0x61 [])) (modSpdm tr (fun c => { c with caps := true }) (nodeOf e s))))) ∧
    ((getSpdm (nodeOf e s) tr).caps = true → ∀ algs, (.rsa ∈ algs →
        exec (.spdmNegotiateAlgorithms e tr algs) s = .next (endsWith e s (emit (.spdm tr (Config.spdmBody 0x63 [1])) (modSpdm tr (fun c => { c with alg := some .rsa }) (nodeOf e s))))) ∧
      (.rsa ∉ algs → .slh ∈ algs →
        exec (.spdmNegotiateAlgorithms e tr algs) s = .next (endsWith e s (emit (.spdm tr (Config.spdmBody 0x63 [2])) (modSpdm tr (fun c => { c with alg := some .slh }) (nodeOf e s)))))) ∧
    ((getSpdm (nodeOf e s) tr).alg = some .rsa →
      exec (.spdmGetDigests e tr) s = .next (endsWith e s (emit (.spdm tr (Config.spdmBody 0x01 (sha384 certChain))) (nodeOf e s))) ∧
      (∀ off len, exec (.spdmGetCertificate e tr off len) s = .next (endsWith e s (emit (.spdm tr (Config.spdmBody 0x02 (slice certChain off len))) (nodeOf e s)))) ∧
      (∀ nonce, exec (.spdmChallenge e tr nonce) s = .next (endsWith e s (emit (.spdm tr (Config.spdmBody 0x03 (sha384 certChain ++ nonce) ++ Config.rsaSign (Config.spdmBody 0x03 (sha384 certChain ++ nonce)))) (nodeOf e s)))) ∧
      (∀ k nonce, 1 ≤ k → k ≤ 12 → exec (.spdmGetMeasurements e tr k nonce) s = .next (endsWith e s (emit (.spdm tr (Config.spdmBody 0x60 ([BitVec.ofNat 8 k] ++ measurement (nodeOf e s) k ++ nonce) ++
        Config.rsaSign (Config.spdmBody 0x60 ([BitVec.ofNat 8 k] ++ measurement (nodeOf e s) k ++ nonce)))) (nodeOf e s)))))

/-! ### Partitions, faults and spares (chapter 13) -/

/-- R286 to R288, R290, R292, Table 13-7: a watchdog that runs out, or a core's failed check, starts a partition reset with a record of the kind, the thread or command, the core and the two details that Table 13-7 gives. The start
writes the record first, with `RESET` and, for a counted kind, `COUNTED`, raises `ATTN_FAULT` and begins the reset; a fault of a partition that is resetting already writes its record without the two flags, raises the attention and starts nothing (R295). -/
def Obligations.WatchdogsFire : Prop :=
  (∀ (e : Env) (p ci : Nat) (s : State) (x : Ptn) (c : Ctx), alive (nodeOf e s) = true → getP (nodeOf e s) p = x → mget x.ctxs ci = some c → runsP x = true → (c.st = 2 ∨ c.st = 3 ∨ c.st = 4) → ctxHeld x ci = false →
    300000 * fld x.wdCfg 0 16 ≤ pctr (clkOf e s) p - c.since →
    exec (.threadWatchdog e p ci) s = .next (endsWith e s (startReset (clkOf e s) p
      { ctxRec (nodeOf e s) fkThreadHang ci c (if c.core < 64 then c.core else 0xFF) with d1 := c.progress, d2 := pctr (clkOf e s) p - c.since } none (count p .wdFired 1 (nodeOf e s))))) ∧
  (∀ (e : Env) (p core ci last : Nat) (s : State) (x : Ptn) (c : Ctx), alive (nodeOf e s) = true → getP (nodeOf e s) p = x → mget x.ctxs ci = some c → runsP x = true → c.st = 2 → c.core = core → core < 64 →
    x.ent.cores.getLsbD core = true → (∀ y ∈ x.ctxs, y.2.core = core → y.2.st = 2 → c.since ≤ y.2.since) → ((x.ctxs.filter (fun y => y.2.core == core)).map (fun y => y.2.since)).foldl max c.since = last →
    30000 * fld x.wdCfg 16 8 ≤ pctr (clkOf e s) p - last →
    exec (.coreWatchdog e p core ci) s = .next (endsWith e s (startReset (clkOf e s) p
      { ctxRec (nodeOf e s) fkCoreHang ci c core with d1 := pctr (clkOf e s) p - last, d2 := (x.ctxs.filter (fun y => y.2.st == 2 && (y.2.core == core || y.1 == ci))).length } none
      (countHang core (count p .wdFired 1 (nodeOf e s)))))) ∧
  (∀ (e : Env) (p : Nat) (q : QRef) (s : State) (x : Ptn) (y : Queue) (c : Cmd) (r : List Cmd), alive (nodeOf e s) = true → getP (nodeOf e s) p = x → getQ (nodeOf e s) q.fn q.qid = some y → q.qid ≠ 0 → (getFn (nodeOf e s) q.fn).map = some p →
    runsP x = true → x.st = .inService → y.cmds = c :: r → notWatched (nodeOf e s) p { fn := q.fn, qid := q.qid, serial := c.serial } c = false →
    max y.lastPost c.svcAt + 300000000 * fld x.wdCfg 24 8 ≤ x.svc →
    exec (.queueWatchdog e p q) s = .next (endsWith e s (startReset (clkOf e s) p
      { seq := 0, ctr := 0, kind := fkQueueHang, fn := q.fn, queue := q.qid, cid := c.cid, d1 := r.length + 1, d2 := (clkOf e s).node - c.at_
        thread := ((x.ctxs.find? (fun k => k.2.fn == q.fn && k.2.queue == q.qid && k.2.cid == c.cid)).map (·.1)).getD 0xFFFFFFFF } none (count p .wdFired 1 (nodeOf e s))))) ∧
  (∀ (e : Env) (p core k : Nat) (s : State), alive (nodeOf e s) = true → (getP (nodeOf e s) p).st ≠ .absent → (getP (nodeOf e s) p).st ≠ .withdrawn → 1 ≤ k → k ≤ 4 →
    exec (.coreFault e p core k true) s = .next (endsWith e s (startReset (clkOf e s) p { seq := 0, ctr := 0, kind := fkContextUe, d1 := k } none (nodeOf e s))) ∧
    (core < 64 → (getP (nodeOf e s) p).ent.cores.getLsbD core = true → exec (.coreFault e p core k false) s = .next (endsWith e s (startReset (clkOf e s) p
      { seq := 0, ctr := 0, kind := fkCoreFault, lcore := core, pcore := pcoreOf (nodeOf e s) core, d1 := k } none (countHang core (nodeOf e s)))))) ∧
  (∀ (clk : Clock) (p : Nat) (f : FaultRec) (w : Option Tok) (n : Node), p < 8 → (getP n p).run = none → (getP n p).pendReset = none → (getP n p).st ≠ .restoring → n.pwr.st ≠ .entering → (getP n p).pow = .on → fkCounted f.kind = true →
    startReset clk p f w n = beginReset clk p { kind := f.kind, trigger := pctr clk p, at_ := pctr clk p, lcore := f.lcore, counted := true, waiters := w.toList }
      (count p .resetsCounted 1 (raisePtn attnFault p (addFault clk p { f with reset := true, counted := true } n)))) ∧
  (∀ (clk : Clock) (p : Nat) (f : FaultRec) (w : Option Tok) (n : Node), ((getP n p).run.isSome = true ∨ (getP n p).st = .restoring) →
    startReset clk p f w n = raisePtn attnFault p (addFault clk p { f with reset := false, counted := false } n))

/-- R291, R292 to R299: `PARTITION_RESET` of a partition in service starts a reset of kind COMMANDED; at its end, step 8, the partition serves again where the reset is not counted, or where the counted resets inside the window are at most `PTN_ESC_CFG.LIMIT`; with
more of them, where no spare comes in by itself, the partition is withdrawn, its record says so, `ATTN_WITHDRAWN` is raised and the commands that wait for the reset complete. A withdrawn partition answers `PARTITION_RESET` with `ST_BUSY`; `PARTITION_RESTORE` starts
its restoration, at whose end it serves again with no reset counted. `FAULT_LOG_READ` writes the records asked for, oldest first; `FUNCTION_MAP` maps a function that has no I/O queue. -/
def Obligations.PartitionsRecover : Prop :=
  (∀ (e : Env) (q : QRef) (s : State) (t : Tok) (x : Sqe) (n : Node), Taken Rows.partitionReset anyEntry ptnChk noPtn q e s t x n → (getP n x.target).st = .inService → (getP n x.target).run = none → (getP n x.target).pendReset = none →
    exec (.partitionReset e q) s = .next (endsWith e s (startReset (clkOf e s) x.target { seq := 0, ctr := 0, kind := fkCommanded, d1 := t.fn } (some t) n))) ∧
  (∀ (e : Env) (p : Nat) (s : State) (r : ResetRun), alive (nodeOf e s) = true → (getP (nodeOf e s) p).run = some r → r.at_ + resetLen (getP (nodeOf e s) p) ≤ pctr (clkOf e s) p → r.counted = false →
    exec (.partitionResetEnd e p) s = .next (endsWith e s (resume (clkOf e s) p (pctr (clkOf e s) p - r.at_) r.waiters (engageAtReset (clkOf e s) p (nodeOf e s))))) ∧
  (∀ (e : Env) (p : Nat) (s : State) (r : ResetRun) (x : Ptn) (hist inW : List (Nat × Nat)) (m : Node), alive (nodeOf e s) = true → getP (nodeOf e s) p = x → x.run = some r → r.at_ + resetLen x ≤ pctr (clkOf e s) p → r.counted = true →
    ((r.trigger, r.lcore) :: x.hist).take 16 = hist → hist.filter (fun h => decide (r.trigger - h.1 < window x)) = inW →
    modP p (fun y => { y with hist := hist, inWindow := inW.length }) (engageAtReset (clkOf e s) p (nodeOf e s)) = m →
    (inW.length ≤ fld x.escCfg 16 4 → exec (.partitionResetEnd e p) s = .next (endsWith e s (resume (clkOf e s) p (pctr (clkOf e s) p - r.at_) r.waiters m))) ∧
    (fld x.escCfg 16 4 < inW.length → x.load = none → bit x.escCfg 20 = false →
      exec (.partitionResetEnd e p) s = .next (endsWith e s (foldNode r.waiters (fun t n => post (clkOf e s) t stSuccess 0 n) (releaseMsix p (raisePtn attnWithdrawn p
        (addFault (clkOf e s) p { seq := 0, ctr := 0, kind := fkWithdrawn, d1 := inW.length } (modP p (fun y => { y with faults := y.faults.map (fun f => if f.counted && f.ctr == r.trigger then { f with withdrew := true } else f) })
          (modP p (fun y => { y with st := .withdrawn, run := none, downAt := r.at_ }) m))))))))) ∧
  (∀ (e : Env) (q : QRef) (s : State) (t : Tok) (x : Sqe) (n : Node), Taken Rows.partitionReset anyEntry ptnChk noPtn q e s t x n → (getP n x.target).st = .withdrawn →
    exec (.partitionReset e q) s = .next (endsWith e s (post (clkOf e s) t stBusy 0 n))) ∧
  (∀ (e : Env) (q : QRef) (s : State) (t : Tok) (x : Sqe) (n : Node), Taken Rows.partitionRestore anyEntry ptnChk noPtn q e s t x n → (getP n x.target).st = .withdrawn →
    exec (.partitionRestore e q) s = .next (endsWith e s (modP x.target (fun y => { y with st := .restoring, restore := some (some t), restAt := pctr (clkOf e s) x.target }) n))) ∧
  (∀ (e : Env) (p : Nat) (s : State) (t : Option Tok) (x : Ptn), alive (nodeOf e s) = true → getP (nodeOf e s) p = x → x.restore = some t → x.st = .restoring → x.restAt + restoreLen x ≤ pctr (clkOf e s) p →
    exec (.restoreEnd e p) s = .next (endsWith e s (postO (clkOf e s) t stSuccess 0 (resume (clkOf e s) p (pctr (clkOf e s) p - x.downAt) x.restWait
      (modP p (fun y => { y with restore := none, restWait := [], hist := [] }) (nodeOf e s)))))) ∧
  (∀ (e : Env) (q : QRef) (s : State) (t : Tok) (x : Sqe) (n : Node) (rs : List FaultRec), Taken Rows.faultLogRead anyEntry faultLogChk noPtn q e s t x n → (getP n x.target).st ≠ .absent → (t.fn = 0 ∨ (getFn n t.fn).map = some x.target) →
    ((getP n x.target).faults.filter (fun r => decide (x.arg1 ≤ r.seq))).take x.arg0 = rs → rs ≠ [] →
    exec (.faultLogRead e q) s = .next (endsWith e s (post (clkOf e s) t stSuccess rs.length (emit (.data x.addr0 ((rs.map faultBytes).flatten)) n)))) ∧
  (∀ (e : Env) (q : QRef) (s : State) (t : Tok) (x : Sqe) (n : Node), Taken Rows.functionMap anyEntry functionMapChk noPtn q e s t x n → (getFn n x.arg0).queues.any (fun y => y.1 != 0) = false →
    ((getFn n x.arg0).map = none ∨ ∃ p, (getFn n x.arg0).map = some p ∧ (getP n p).run = none) →
    exec (.functionMap e q) s = .next (endsWith e s (post (clkOf e s) t stSuccess 0 (modFn x.arg0 (fun f => { f with map := if x.arg1 = 0xFF then none else some x.arg1 }) n))))

/-- R12, R13, R15, R301 to R305: a lane failure is recorded in the repair map and reported, and a second one in a slice takes its core out of service, by a swap where a spare is left (without one the model retires the core, log 131); a core whose corrected
errors reach 64 in their window, or that `SPARE_ENGAGE` names, is swapped for a spare, whose cutover takes its logical number, its partition and its place in the map; a bank that is due for it is copied to its channel's spare, which takes its place at the cutover. -/
def Obligations.SparesComeIn : Prop :=
  (∀ (e : Env) (core slice lane : Nat) (s : State) (c : PCore), alive (nodeOf e s) = true → core < 68 → slice < 8 → lane < 17 → vget (nodeOf e s).cores core = c → c.lanes = [] →
    exec (.laneFailure e core slice lane) s = .next (endsWith e s (spareCore (clkOf e s) (if c.ptn < 8 then c.ptn else 0) spLane (core + 256 * slice + 65536 * lane) c.lcore core { modCore core (fun c => { c with lanes := [(slice, lane)] }) (nodeOf e s) with
      bflash := { (nodeOf e s).bflash with map := { (nodeOf e s).bflash.map with lanes := (nodeOf e s).bflash.map.lanes ++ [(core, slice, lane)] } } }))) ∧
  (∀ (e : Env) (core slice lane : Nat) (s : State) (c : PCore) (m : Node), alive (nodeOf e s) = true → core < 68 → slice < 8 → lane < 17 → vget (nodeOf e s).cores core = c → (slice, lane) ∉ c.lanes → (∃ l ∈ c.lanes, l.1 = slice) →
    spareCore (clkOf e s) (if c.ptn < 8 then c.ptn else 0) spLane (core + 256 * slice + 65536 * lane) c.lcore core { modCore core (fun c => { c with lanes := c.lanes ++ [(slice, lane)] }) (nodeOf e s) with
      bflash := { (nodeOf e s).bflash with map := { (nodeOf e s).bflash.map with lanes := (nodeOf e s).bflash.map.lanes ++ [(core, slice, lane)] } } } = m →
    (∀ z, (vget m.cores core).st = .inService → startSwap (clkOf e s) core none m = some z → exec (.laneFailure e core slice lane) s = .next (endsWith e s z)) ∧
    ((vget m.cores core).st = .inService → startSwap (clkOf e s) core none m = none → exec (.laneFailure e core slice lane) s = .next (endsWith e s (retireCore core m))) ∧
    ((vget m.cores core).st = .spare → exec (.laneFailure e core slice lane) s = .next (endsWith e s (retireCore core m)))) ∧
  (∀ (e : Env) (pc : Nat) (ages : List Nat) (s : State) (n : Node) (c : PCore), alive (nodeOf e s) = true → pc < 68 → (vget (nodeOf e s).cores pc).st ≠ .retired →
    modCore pc (fun c => { c with ce := sat 32 (c.ce + ages.length), ceTimes := c.ceTimes ++ ages.map (coreCtr (clkOf e s) c - ·) }) (nodeOf e s) = n → vget n.cores pc = c →
    ((c.st ≠ .inService ∨ ceInWindow n (clkOf e s) c < 64) → exec (.coreSwap e ⟨pc, ages⟩) s = .next (endsWith e s n)) ∧
    (∀ k, c.st = .inService → 64 ≤ ceInWindow n (clkOf e s) c → pickSpare n pc = some k → k ≠ pc → k < 68 →
      ∃ t, exec (.coreSwap e ⟨pc, ages⟩) s = .next t ∧ (vget t.node.cores pc).st = .draining ∧ (vget t.node.cores pc).peer = k ∧ (vget t.node.cores k).st = .filling ∧ (vget t.node.cores k).lcore = c.lcore ∧
        (vget t.node.cores k).ptn = c.ptn ∧ t.node.ptns = (nodeOf e s).ptns)) ∧
  (∀ (e : Env) (pc : Nat) (s : State), alive (nodeOf e s) = true → pc < 68 → (vget (nodeOf e s).cores pc).st = .draining → (vget (nodeOf e s).cores pc).restarted = false → (vget (nodeOf e s).cores pc).since + 300000 ≤ (clkOf e s).node →
    exec (.coreSwapBlockRestart e pc) s = .next (endsWith e s (modCore pc (fun c => { c with restarted := true }) (nodeOf e s)))) ∧
  (∀ (e : Env) (pc : Nat) (s : State) (c : PCore), alive (nodeOf e s) = true → pc < 68 → vget (nodeOf e s).cores pc = c → c.st = .draining → c.peer < 68 →
    exec (.coreSwapCutover e pc) s = .next (endsWith e s (postO (clkOf e s) c.tok stSuccess 0 (raiseAt attnWear 0 (spareCore (clkOf e s) (if c.ptn < 8 then c.ptn else 0) spCore pc c.lcore c.peer
      (modCore c.peer (fun y => { y with st := .inService, ptn := c.ptn, lcore := c.lcore, peer := 0xFF })
        (modCore pc (fun y => { y with st := .retired, ptn := 0xF, lcore := 0xFF, peer := 0xFF, tok := none }) (nodeOf e s)))))))) ∧
  (∀ (e : Env) (q : QRef) (s : State) (t : Tok) (x : Sqe) (n : Node), Taken Rows.spareEngage anyEntry spareChk noPtn q e s t x n → x.arg0 = 1 → (vget n.mem.chans (x.arg1 % 128)).copying = none → (vget n.mem.chans (x.arg1 % 128)).spare = false →
    exec (.spareEngage e q) s = .next (endsWith e s (modChan (x.arg1 % 128) (fun c => { c with copying := some (x.arg1 / 256, some t) }) n))) ∧
  (∀ (e : Env) (q : QRef) (s : State) (t : Tok) (x : Sqe) (n m : Node) (pc : Nat), Taken Rows.spareEngage anyEntry spareChk noPtn q e s t x n → x.arg0 = 0 →
    (List.range 68).find? (fun i => (vget n.cores i).lcore == x.arg1 && (vget n.cores i).st != .retired) = some pc → (vget n.cores pc).st = .inService →
    (startSwap (clkOf e s) pc (some t) n = some m → exec (.spareEngage e q) s = .next (endsWith e s m)) ∧
    (startSwap (clkOf e s) pc (some t) n = none → exec (.spareEngage e q) s = .next (endsWith e s (post (clkOf e s) t stNoSpace 0 n)))) ∧
  (∀ (e : Env) (ch pos : Nat) (s : State) (c : Chan), alive (nodeOf e s) = true → ch < 128 → pos < 32 → vget (nodeOf e s).mem.chans ch = c → c.spare = false → c.copying = none → bankDue (clkOf e s) c pos = true →
    exec (.bankSpare e ch pos) s = .next (endsWith e s (modChan ch (fun c => { c with copying := some (pos, none) }) (nodeOf e s)))) ∧
  (∀ (e : Env) (ch pos : Nat) (t : Option Tok) (s : State), alive (nodeOf e s) = true → ch < 128 → (vget (nodeOf e s).mem.chans ch).copying = some (pos, t) →
    ∃ z, exec (.bankSpareCutover e ch) s = .next z ∧ (vget z.node.mem.chans ch).spare = true ∧ (vget z.node.mem.chans ch).copying = none ∧ (ch, pos) ∈ z.node.bflash.map.banks)

/-! ### Collections (chapter 03) -/

/-- `TARGET` names collection `c` of partition `p`, which holds `y`. -/
def names (admin : Bool) (n : Node) (t : Tok) (x : Sqe) (p c : Nat) (y : Coll) : Prop := collRef n t.fn admin x.target = some (p, c) ∧ getC n p c = some y
/-- R42, R43, R61, R63, R66: `COLLECTION_CREATE` makes a collection in the lowest free slot, owned by this partition, and answers its number; `COLLECTION_DROP` starts a drop, which ends at once where nothing uses the collection; the mount of a collection makes it
created when it never had a generation, and otherwise replays its log into the generation its root record names, or fails it when that cannot be read, when its format is above the image's level, or when a cartridge of it is not there. A restored record is read from flash and
is good again, unless its sectors are lost. -/
def Obligations.CollectionsComeAndGo : Prop :=
  (∀ (e : Env) (q : QRef) (s : State) (t : Tok) (x : Sqe) (n : Node) (p c : Nat) (d : CollDesc), Taken Rows.collectionCreate anyEntry noChk fnPtn q e s t x n → (getFn n t.fn).map = some p → descOf (Mem.readN (hostOf e s) x.addr0 128) = d →
    descBad n (getP n p) d = none → firstFree (getP n p).colls 0 256 = some c →
    exec (.collectionCreate e q) s = .next (endsWith e s (post (clkOf e s) t stSuccess (256 * p + c)
      (modP p (fun y => { y with colls := mset y.colls c { desc := d, own := { owner := n.lnk.nodeId, ownerP := p } } }) n)))) ∧
  (∀ (e : Env) (q : QRef) (s : State) (t : Tok) (x : Sqe) (n : Node) (p c : Nat) (y : Coll), Taken Rows.collectionDrop anyEntry (collChk true) collPtn q e s t x n → names true n t x p c y → y.drop = none →
    exec (.collectionDrop e q) s = .next (endsWith e s (finishDrop (clkOf e s) p c (modC p c (fun c => { c with drop := some (t, x.flag 1) }) n)))) ∧
  (∀ (e : Env) (p c : Nat) (ok : Bool) (s : State) (y : Coll), alive (nodeOf e s) = true → (nodeOf e s).boot.ready = true → getC (nodeOf e s) p c = some y → y.st = .mounting →
    (∀ o ∈ collObjs p c y, ∀ k ∈ objSlots (nodeOf e s) o, (getCart (nodeOf e s) k).sanHold = false) →
    (y.root = none → exec (.collectionMount e p c ok) s = .next (endsWith e s (modC p c (fun z => { z with st := if z.own.st == .frozen then .frozen else .created, before := .created, cur := none }) (nodeOf e s)))) ∧
    (∀ g g2 m lost z, y.root = some g → ok = true → g.hdr.fmt ≤ imgFmt (nodeOf e s) → objWhole (nodeOf e s) g.store = true →
      replayAll y.desc (poolSize (getP (nodeOf e s) p)) (usedChunks (getP (nodeOf e s) p)) g (y.log.filter (fun r => decide (g.hdr.baseSeq < r.seq))) = some g2 →
      readStore g2.store (List.range (((fobj (nodeOf e s) g2.store).map (·.blocks)).getD 0)) (nodeOf e s) = (m, lost) →
      makeGen p c (markLost y.desc g2 lost) (modC p c (fun z => { z with
        st := if z.own.st == .frozen then .frozen else if z.swap.isSome then .swapping else .serving, before := .serving, cur := some (markLost y.desc g2 lost) }) m) = some z →
      exec (.collectionMount e p c ok) s = .next (endsWith e s (settleColls z))) ∧
    (∀ g, y.root = some g → (ok = false ∨ imgFmt (nodeOf e s) < g.hdr.fmt ∨ objWhole (nodeOf e s) g.store = false) →
      exec (.collectionMount e p c ok) s = .next (endsWith e s (modC p c (fun z => { z with st := .failed, cur := none }) (nodeOf e s))))) ∧
  (∀ (e : Env) (p c : Nat) (gen : W64) (loc : RecLoc) (s : State) (y : Coll) (g : Gen) (m : Node) (lost : List Nat), alive (nodeOf e s) = true → getC (nodeOf e s) p c = some y → genNamed y gen = some g →
    (∀ b ∈ recBlocks y.desc g loc, blkHeld (nodeOf e s) g.store b = false) → readStore g.store (recBlocks y.desc g loc) (nodeOf e s) = (m, lost) →
    (lost = [] → exec (.recordRestore e p c ⟨gen, loc⟩) s = .next (endsWith e s (damage p c gen false loc m))) ∧
    (lost ≠ [] → exec (.recordRestore e p c ⟨gen, loc⟩) s = .next (endsWith e s m)))

/-- R51 to R55: an update takes the next sequence number of its collection and waits, a vector as the record that the partition's quantisation makes of it; at its commit point the oldest is applied; one that is refused then changes neither the generation nor the log; a delete
that is not durable changes the generation, joins the log and completes. -/
def Obligations.UpdatesAreSequenced : Prop :=
  (∀ (e : Env) (q : QRef) (s : State) (t : Tok) (x : Sqe) (n : Node) (p c : Nat) (y : Coll), Taken Rows.delete anyEntry (collChk false) noPtn q e s t x n → names false n t x p c y → updRefused y = none →
    exec (.deleteCmd e q) s = .next (endsWith e s (takeUpd (clkOf e s) p c { tok := some t, seq := y.seq + 1, kind := .delete, id := BitVec.ofNat 64 x.arg0, durable := x.durable } n))) ∧
  (∀ (e : Env) (q : QRef) (s : State) (t : Tok) (x : Sqe) (n : Node) (p c : Nat) (y : Coll) (st r : Nat), Taken Rows.delete anyEntry (collChk false) noPtn q e s t x n → names false n t x p c y → updRefused y = some (st, r) →
    exec (.deleteCmd e q) s = .next (endsWith e s (post (clkOf e s) t st r n))) ∧
  (∀ (kind : RecKind) (row : Row) (cmd : Env → QRef → Instr) (e : Env) (q : QRef) (s : State) (t : Tok) (x : Sqe) (n : Node) (p c : Nat) (y : Coll) (v w : List W32) (r : SapRec) (k : Nat) (u : Upd),
    ((kind = .insert ∧ row = Rows.insert ∧ cmd = .insertCmd) ∨ (kind = .upsert ∧ row = Rows.upsert ∧ cmd = .upsertCmd)) → Taken row anyEntry insertChk noPtn q e s t x n → names false n t x p c y → updRefused y = none →
    x.arg2 / 65536 % 16 = 0 → words32 (Mem.readN (hostOf e s) x.addr0 (4 * y.desc.dim)) y.desc.dim = v → firstBad v = none → prepVec (metricOf y.desc.metric) v = some w →
    u = { tok := some t, seq := y.seq + 1, kind := kind, id := BitVec.ofNat 64 x.arg0, durable := x.durable, vec := v, sap := some r } →
    makeSap y.desc (quantOf (getP n p)) { u with vec := [], sap := some { id := BitVec.ofNat 64 x.arg0, seq := y.seq + 1, attr := BitVec.ofNat 64 x.arg1, tag := BitVec.ofNat 16 x.arg2 } } w = (r, k) →
    exec (cmd e q) s = .next (endsWith e s (takeUpd (clkOf e s) p c u (count p .degenerate k n)))) ∧
  (∀ (e : Env) (p c : Nat) (s : State) (y : Coll) (u : Upd) (us : List Upd), alive (nodeOf e s) = true → getC (nodeOf e s) p c = some y → y.upds = u :: us → u.waitEnc = false → u.held = false → commitsOpen y = true →
    (getP (nodeOf e s) p).st ≠ .resetting →
    exec (.commitPoint e p c u.seq) s = .next (endsWith e s (settleXfers (clkOf e s) p (finishDrop (clkOf e s) p c (commitUpd (clkOf e s) p c u (ungate p (nodeOf e s))))))) ∧
  (∀ (clk : Clock) (p c : Nat) (u : Upd) (n m : Node) (y : Coll), readAll clk p 0 u.tok u.ctx (walkLocs p c u) (walkLocs p c u) n = m → getC m p c = some y →
    (∀ st, applyUpd (getP m p) y u = .refuse st → commitUpd clk p c u n = postO clk u.tok st 0 (dropUpd p c u (walkMeets p c y u m))) ∧
    (∀ g l z, u.kind = .delete → u.durable = false → applyUpd (getP m p) y u = .done g l →
      dropOrig clk p c u.id.toNat (growIds clk p c (killMeets clk p c y u (modC p c (fun z => { z with
        cur := some g, applied := u.seq, log := z.log ++ [{ seq := u.seq, kind := .delete, id := u.id, list := l, sap := u.sap, epoch := (getP m p).epoch }] })
        (dropUpd p c u (walkMeets p c y u m))))) = z →
      commitUpd clk p c u n = postO clk u.tok stSuccess 0 (commitLog clk p .coll c
        (.coll { seq := u.seq, kind := .delete, id := u.id, list := l, sap := u.sap, epoch := (getP m p).epoch }) none z)))

/-- R58, R59, R61, R62, R189, R254: a load's parts gather until the last, which stages the generation that the header and its digest describe, in place of one staged before, where the tiers and flash have room; a swap replays the log into a copy, freezes commits when few records
remain, and at its commit point makes the staged generation current and the old one retired, after which the log is trimmed as far as the new base and the open export cuts let it; the limit ends it; the staged generation or every cut can be discarded, and the live records exported,
first the cut and then the records, with `ST_DATA_POISON` where a record that is read is lost. -/
def Obligations.GenerationsLoadAndSwap : Prop :=
  (∀ (e : Env) (q : QRef) (parts : List ListPart) (s : State) (t : Tok) (x : Sqe) (n m : Node) (p c : Nat) (y : Coll) (buf : List Byte), Taken Rows.generationLoad anyEntry (collChk false) noPtn q e s t x n → names false n t x p c y → y.drop = none →
    patch (if x.arg0 = 0 then [] else y.loadBuf) x.arg0 (Mem.readN (hostOf e s) x.addr0 x.arg1) = buf → modC p c (fun c => { c with loadBuf := buf }) n = m →
    (x.flag 1 = false → exec (.generationLoad e q parts) s = .next (endsWith e s (post (clkOf e s) t stSuccess 0 m))) ∧
    (∀ off, x.flag 1 = true → genBad y (genHeader buf) buf = some off → exec (.generationLoad e q parts) s = .next (endsWith e s (invalid (clkOf e s) t off 1 m))) ∧
    (x.flag 1 = true → genBad y (genHeader buf) buf = none → imgFmt m < (genHeader buf).fmt → exec (.generationLoad e q parts) s = .next (endsWith e s (post (clkOf e s) t stFormatLevel 0 m))) ∧
    (∀ z, x.flag 1 = true → genBad y (genHeader buf) buf = none → (genHeader buf).fmt ≤ imgFmt m → stageGen (clkOf e s) p c y.desc (genHeader buf) buf parts m = some z →
      exec (.generationLoad e q parts) s = .next (endsWith e s (post (clkOf e s) t stSuccess 0 z))) ∧
    (x.flag 1 = true → genBad y (genHeader buf) buf = none → (genHeader buf).fmt ≤ imgFmt m → stageGen (clkOf e s) p c y.desc (genHeader buf) buf parts m = none →
      exec (.generationLoad e q parts) s = .next (endsWith e s (post (clkOf e s) t stNoSpace 0 m)))) ∧
  (∀ (clk : Clock) (p c : Nat) (d : CollDesc) (h : GenHeader) (bs : List Byte) (parts : List ListPart) (n m m2 : Node) (o : Nat) (ls : List (Nat × GList)) (g : Gen), dropStaged clk p c n = m → listsFrom d (t1Chans (getP m p)).length bs parts = ls →
    ((freeT1 m p < (genBytes d h.fmt ls).1 ∨ freeT2 m p < (genBytes d h.fmt ls).2 ∨ freeFlash m < bs.length) → stageGen clk p c d h bs parts n = none) ∧
    ((genBytes d h.fmt ls).1 ≤ freeT1 m p → (genBytes d h.fmt ls).2 ≤ freeT2 m p → bs.length ≤ freeFlash m → storeGen clk p bs m = (m2, o) →
      g = { freshGen h ls with size := bs.length, store := o, parts := parts.foldl (fun m q => mset m (leAt bs q.node 4) q) [] } →
      stageGen clk p c d h bs parts n = makeGen p c g (modC p c (fun c => { c with staged := some g, loadBuf := [] }) m2))) ∧
  (∀ (e : Env) (q : QRef) (s : State) (t : Tok) (x : Sqe) (n m : Node) (p c : Nat) (y : Coll) (g : Gen) (w : Swap), Taken Rows.generationSwap anyEntry swapChk collPtn q e s t x n → names true n t x p c y → y.drop = none → y.own.st ≠ .frozen → y.swap = none →
    y.staged = some g → g.hdr.gen.toNat = x.arg0 → (y.st = .created → g.hdr.baseSeq = 0) → y.logFrom ≤ g.hdr.baseSeq + 1 → g.hdr.fmt ≤ imgFmt n →
    w = { tok := t, gen := g.hdr.gen, freezeAt := if x.arg1 % 2 ^ 32 = 0 then 256 else x.arg1 % 2 ^ 32
          limitAt := pctr (clkOf e s) p + 300000000 * (if x.arg1 / 2 ^ 32 = 0 then 600 else x.arg1 / 2 ^ 32), done := g.hdr.baseSeq, base := cleanGen g, work := g } →
    modC p c (fun c => { c with swap := some w, before := c.st, st := if c.st == .serving || c.st == .readOnly then .swapping else c.st }) n = m →
    (swapWaits m p c = false → exec (.generationSwap e q) s = .next (endsWith e s (catchUp (clkOf e s) p c false m))) ∧
    (swapWaits m p c = true → exec (.generationSwap e q) s = .next (endsWith e s m))) ∧
  (∀ (e : Env) (p c : Nat) (s : State) (y : Coll) (w : Swap) (g : Gen), alive (nodeOf e s) = true → getC (nodeOf e s) p c = some y → y.swap = some w → swapWaits (nodeOf e s) p c = false →
    (w.frozen = false → replayAll y.desc (poolSize (getP (nodeOf e s) p)) (usedChunks (getP (nodeOf e s) p)) w.work (logAbove y w.done) = some g →
      exec (.swapFreeze e p c) s = .next (endsWith e s (modC p c (fun c => { c with swap := some { w with work := g, done := c.applied, frozen := decide ((logAbove y w.done).length ≤ w.freezeAt) } }) (nodeOf e s)))) ∧
    (w.frozen = true → exec (.swapCommit e p c) s = .next (endsWith e s (finishDrop (clkOf e s) p c (post (clkOf e s) w.tok stSuccess 0 (commitAll (clkOf e s) p c (y.upds.length + 1) (trimLog (clkOf e s) p c (retireGens (clkOf e s) p c
      (modC p c (fun c => { c with
        cur := some w.work, root := some w.base, staged := if c.staged.any (fun g => g.hdr.gen == w.gen) then none else c.staged
        st := if c.st == .swapping then c.before else if c.st == .frozen then .frozen else .serving, swap := none, cuts := c.cuts.erase w.base.hdr.baseSeq
        retired := c.retired ++ (if c.cur.isNone then c.root.toList else c.cur.toList) }) (flushStore (clkOf e s) w.base.store (nodeOf e s)))))))))) ∧
    (w.frozen = false → w.limitAt ≤ pctr (clkOf e s) p → exec (.swapLimit e p c) s = .next (endsWith e s (finishDrop (clkOf e s) p c (commitAll (clkOf e s) p c (y.upds.length + 1) (post (clkOf e s) w.tok stSwapTimeout 0
      (modC p c (fun c => { c with swap := none, st := if c.st == .swapping then c.before else c.st }) (nodeOf e s)))))))) ∧
  (∀ (e : Env) (q : QRef) (s : State) (t : Tok) (x : Sqe) (n : Node) (p c : Nat) (y : Coll), Taken Rows.generationDiscard anyEntry (collChk true) collPtn q e s t x n → names true n t x p c y → y.swap = none → x.arg0 = 0 →
    exec (.generationDiscard e q) s = .next (endsWith e s (post (clkOf e s) t stSuccess 0 (trimLog (clkOf e s) p c (modC p c (fun c => { c with cuts := [], exports := [] }) n))))) ∧
  (∀ (e : Env) (q : QRef) (s : State) (t : Tok) (x : Sqe) (n : Node) (p c : Nat) (y : Coll) (g : Gen), Taken Rows.generationDiscard anyEntry (collChk true) collPtn q e s t x n → names true n t x p c y → y.swap = none → x.arg0 ≠ 0 → y.staged = some g →
    (g.hdr.gen.toNat = x.arg0 → exec (.generationDiscard e q) s = .next (endsWith e s (post (clkOf e s) t stSuccess 0 (trimLog (clkOf e s) p c (modC p c (fun c => { c with cuts := c.cuts.erase g.hdr.baseSeq }) (dropStaged (clkOf e s) p c n)))))) ∧
    (g.hdr.gen.toNat ≠ x.arg0 → exec (.generationDiscard e q) s = .next (endsWith e s (invalid (clkOf e s) t 0x18 0 n)))) ∧
  (∀ (e : Env) (q : QRef) (s : State) (t : Tok) (x : Sqe) (n : Node) (p c : Nat) (y : Coll) (g : Gen) (bad : List RecLoc), Taken Rows.shardExport anyEntry (collChk false) noPtn q e s t x n → names false n t x p c y → y.drop = none → y.st ≠ .mounting → y.st ≠ .failed →
    y.own.st ≠ .frozen → x.arg1 = 0 → 8 ≤ x.arg0 → y.cur = some g → (liveRecs g).length ≤ (x.arg0 - 8) / sapSize y.desc → (liveRecs g).filterMap (·.2) = bad →
    exec (.shardExport e q) s = .next (endsWith e s (post (clkOf e s) t (if bad = [] then stSuccess else stDataPoison) 0 (modC p c (fun c => { c with cuts := c.cuts ++ [c.applied] })
      (emit (.data x.addr0 (toLe 8 y.applied ++ ((liveRecs g).map (exportBytes y.desc)).flatten)) (metLocs (clkOf e s) p 0 0xFFFFFFFF (some t) (bad.map (fun r => .shard p c g.hdr.gen r)) n))))))

/-! ### Queries, selection and merge (chapters 04 to 06) -/

/-- R67, R69, R70, R92: a search whose block passes its checks starts as one query, each block of an audit as one; the first check that fails ends the command with its status. A route expansion takes one step of the walk of R71; the visits of the first `NPROBE` lists
follow its end. -/
def Obligations.SearchesStart : Prop :=
  (∀ (e : Env) (q : QRef) (s : State) (t : Tok) (x : Sqe) (n : Node) (p : Nat) (ck : Checked), Taken Rows.search anyEntry noChk noPtn q e s t x n → (getFn n t.fn).map = some p →
    checkSearch n (hostOf e s) t.fn p false 0 (Mem.readN (hostOf e s) x.addr0 128) = .ok ck →
    exec (.search e q) s = .next (endsWith e s (startQuery (clkOf e s) p (some t) (isUrgent n t) none none 0 ck n))) ∧
  (∀ (e : Env) (q : QRef) (s : State) (t : Tok) (x : Sqe) (n : Node) (p st r : Nat), Taken Rows.search anyEntry noChk noPtn q e s t x n → (getFn n t.fn).map = some p →
    checkSearch n (hostOf e s) t.fn p false 0 (Mem.readN (hostOf e s) x.addr0 128) = .error (st, r) →
    exec (.search e q) s = .next (endsWith e s (post (clkOf e s) t st r n))) ∧
  (∀ (e : Env) (q : QRef) (s : State) (t : Tok) (x : Sqe) (n : Node) (p : Nat) (ck : Checked), Taken Rows.audit anyEntry auditChk noPtn q e s t x n → (getFn n t.fn).map = some p → x.arg0 = 1 →
    checkSearch n (hostOf e s) t.fn p true 0 (Mem.readN (hostOf e s) x.addr0 128) = .ok ck →
    exec (.audit e q) s = .next (endsWith e s (startQuery (clkOf e s) p (some t) (isUrgent n t) (some 0) none 0 ck n))) ∧
  (∀ (e : Env) (p i : Nat) (s : State) (y : Query) (m : Node), alive (nodeOf e s) = true → getY (nodeOf e s) p i = some y → y.phase = .route → (getP (nodeOf e s) p).st ≠ .resetting →
    (pinOf (nodeOf e s) p y).isSome = true → (queryThread (clkOf e s) p i (nodeOf e s)).bind (routeThread (clkOf e s) p i) = some m →
    exec (.routeExpansion e p i) s = .next (endsWith e s (walked (clkOf e s) p i (readAll (clkOf e s) p 0 y.tok (((getY m p i).map (·.ctx)).getD noCtx) (routeLocs p i) (routeLocs p i) m)))) ∧
  (∀ (clk : Clock) (p i : Nat) (n m : Node) (y : Query) (c : Coll) (g : Gen) (w : Walk), nextWalk n p i = some (y, c, g, w) →
    stepCtx clk p y.ctx 5 (count p .badScale (w.bad - y.walk.bad) (modY p i (fun y => { y with
      walk := w, stats := { y.stats with routeSteps := w.steps, skippedEdges := w.skipped, centroids := w.scored, routeCapped := w.capped } })
      (delKids p y.ctx 3 (heatNodes p y.coll c.desc g (w.seen.drop y.walk.seen.length) n)))) = m →
    w = expandOne (walkCfg (getP n p) c.desc y) g y.walk ∧
    (w.done = false → walked clk p i n = (routeThread clk p i m).getD m) ∧
    (w.done = true → walked clk p i n = takeLists clk p i y.par.nprobe (modY p i (fun y => { y with order := w.result.map (·.2), phase := .rinse }) m)))

/-- R75 to R83, R122: entries whose deadline has come are due; the first ready entry with capacity launches as a pass of its oldest members; a pass that has ended holds press blocks of at most 128 rows, or is gone; its last press block ends it; once every
press of a query has ended its candidates are selected, above k = 64 in order of arrival at its deep-select core. -/
def Obligations.PassesRun : Prop :=
  (∀ (e : Env) (p : Nat) (s : State), alive (nodeOf e s) = true →
    exec (.gatherDeadline e p) s = .next (endsWith e s (modP p (fun x => { x with
      gather := x.gather.map (fun g => if g.members.any (fun v => decide (v.deadline ≤ pctr (clkOf e s) p)) then { g with due := true } else g) }) (nodeOf e s)))) ∧
  (∀ (e : Env) (p core : Nat) (s : State) (x : Ptn) (g : GEntry), alive (nodeOf e s) = true → p < 8 → getP (nodeOf e s) p = x → schedules x = true →
    (sortBy readyBefore (x.gather.filter (readyEntry (pctr (clkOf e s) p) (nodeOf e s) p))).find? (hasRoom (nodeOf e s) p) = some g → ((modeOf (nodeOf e s) p g).1 = true ∨ coreFree x core = true) →
    ∃ t a, exec (.passLaunch e p core) s = .next t ∧ (getP t.node p).nextPass = x.nextPass + 1 ∧ mget (getP t.node p).passes x.nextPass = some a ∧ a.list = g.list ∧ a.coll = g.coll ∧ a.gen = g.gen ∧ a.ended = false ∧
      a.near = (modeOf (nodeOf e s) p g).1 ∧ a.members.map (·.query) = (g.members.take (modeOf (nodeOf e s) p g).2).map (·.query) ∧ t.clk = clkOf e s ∧ (getP t.node p).colls = x.colls ∧
      (getP t.node p).gather.length ≤ x.gather.length) ∧
  (∀ (e : Env) (p i : Nat) (s : State) (x : Ptn) (a : Pass), alive (nodeOf e s) = true → p < 8 → getP (nodeOf e s) p = x → mget x.passes i = some a → a.ended = false →
    ∃ t, exec (.passEnd e p i) s = .next t ∧ t.clk = clkOf e s ∧ ∀ b, mget (getP t.node p).passes i = some b → b.ended = true ∧ b.blocks ≠ [] ∧ ∀ k ∈ b.blocks, k.2.length ≤ 128) ∧
  (∀ (e : Env) (p i blk core : Nat) (s : State) (x : Ptn) (a b : Pass) (rows : List Nat) (c : Coll) (f : Nat) (y : GList) (n m : Node), alive (nodeOf e s) = true → getP (nodeOf e s) p = x → mget x.passes i = some a → mget a.blocks blk = some rows →
    core < 64 → x.ent.cores.getLsbD core = true → pressThread (clkOf e s) p i a (nodeOf e s) = some (b, n) → (passList (nodeOf e s) p b).isSome = true →
    readAll (clkOf e s) p 0 (passTok x b) b.ctx (rowLocs p b rows) (rowLocs p b rows) n = m → passList m p b = some (c, f, y) →
    exec (.pressUnit e p i blk core) s = .next (endsWith e s (endPress (clkOf e s) p i blk b
      (modP p (fun z => { z with ctxs := z.ctxs.map (fun k => if (passQs z b).any (fun q => q.ctx == k.1) then (k.1, { k.2 with core := core }) else k) })
        (foldNode b.members (pressMember (clkOf e s) p core c b y rows) (if c.desc.metric = 3 then m else heatCodes p b rows m)))))) ∧
  (∀ (e : Env) (p i : Nat) (s : State) (x : Ptn) (y : Query), alive (nodeOf e s) = true → getP (nodeOf e s) p = x → getY (nodeOf e s) p i = some y → pressOver x i y = true → x.st ≠ .resetting →
    (y.k ≤ 64 → exec (.selectTop e p i) s = .next (endsWith e s (handOff (clkOf e s) p i { selectOf (dirOf (nodeOf e s) p y) y.k y.cands with genMin := some y.gen } (nodeOf e s)))) ∧
    (∀ core, 64 < y.k → x.selQ.find? (fun q => q.2 == i) = some (core, i) →
      (x.selQ.find? (fun q => q.1 == core) ≠ some (core, i) → exec (.selectTop e p i) s = .next (endsWith e s (selectWait (clkOf e s) p i core 2 y (nodeOf e s)))) ∧
      (x.selQ.find? (fun q => q.1 == core) = some (core, i) →
        (65536 < y.k → freeT1 (nodeOf e s) p < 24 * y.k → exec (.selectTop e p i) s = .next (endsWith e s (selectWait (clkOf e s) p i core 4 y (nodeOf e s)))) ∧
        (y.k ≤ 65536 ∨ 24 * y.k ≤ freeT1 (nodeOf e s) p → exec (.selectTop e p i) s = .next (endsWith e s (selectNow (clkOf e s) p i y
          (delKids p y.ctx 7 (modP p (fun z => { z with selQ := z.selQ.filter (fun q => q.2 != i) }) (nodeOf e s)))))))) ∧
    (∀ m : Node, 64 < y.k → (∀ q ∈ x.selQ, q.2 ≠ i ∧ q.1 ≠ deepFor x (((mget x.ctxs y.ctx).map (·.core)).getD 0xFFFF)) → p < 8 →
      modP p (fun z => { z with selQ := z.selQ ++ [(deepFor x (((mget x.ctxs y.ctx).map (·.core)).getD 0xFFFF), i)] }) (nodeOf e s) = m → (y.k ≤ 65536 ∨ 24 * y.k ≤ freeT1 m p) →
      exec (.selectTop e p i) s = .next (endsWith e s (selectNow (clkOf e s) p i y (delKids p y.ctx 7 (modP p (fun z => { z with selQ := z.selQ.filter (fun q => q.2 != i) }) m))))))

/-- R117, R122 to R124: a selection holds at most K candidates, best first, no NaN key and no ID twice; every candidate is in it, or counted as NaN, as a duplicate or as left out. -/
def Obligations.SelectionsAreExact : Prop :=
  ∀ (larger : Bool) (k : Nat) (cs : List Cand),
    (selectOf larger k cs).entries.length ≤ k ∧ (∀ c ∈ (selectOf larger k cs).entries, c ∈ cs ∧ isNaN32 c.key = false) ∧ ((selectOf larger k cs).entries.map (·.id)).Nodup ∧
    (selectOf larger k cs).entries.Pairwise (fun a b => better larger b.key b.order a.key a.order = false) ∧
    (selectOf larger k cs).entries.length + (selectOf larger k cs).nanCount + (selectOf larger k cs).dupCount + (selectOf larger k cs).outCount = cs.length ∧
    ((selectOf larger k cs).entries.length < k → (selectOf larger k cs).outCount = 0)
/-- R130: a merge step counts every member once: the participants and the missing of its inputs and the subtrees that did not come; it holds at most K entries, all of them from its inputs. -/
def Obligations.MergeStepsKeepTheCounts : Prop :=
  ∀ (larger : Bool) (k lost : Nat) (ins : List Sel),
    (mergeStep larger k ins lost).1.entries.length ≤ k ∧ (mergeStep larger k ins lost).1.parts = (ins.map (·.parts)).sum ∧ (mergeStep larger k ins lost).1.missing = (ins.map (·.missing)).sum + lost ∧
    (∀ c ∈ (mergeStep larger k ins lost).1.entries, ∃ i ∈ ins, c ∈ i.entries) ∧
    (mergeStep larger k ins lost).1.entries.length + (mergeStep larger k ins lost).1.nanCount + (mergeStep larger k ins lost).1.dupCount + (mergeStep larger k ins lost).1.outCount =
      (ins.map (fun i => i.entries.length + i.nanCount + i.dupCount + i.outCount)).sum

/-- R127 to R136, R370: `COLLECTIVE_DEFINE` defines a group whose member table names this partition; a fan-out starts an instance that forwards it and runs the member's own search; a partial is taken for the child it names, once; the wait over, the node merges without the
missing; a closure stops the work it names. -/
def Obligations.CollectivesRun : Prop :=
  (∀ (e : Env) (q : QRef) (s : State) (t : Tok) (x : Sqe) (n : Node) (p : Nat) (bs : List Byte) (vals : List Nat), Taken Rows.collectiveDefine anyEntry noChk fnPtn q e s t x n → (getFn n t.fn).map = some p → Mem.readN (hostOf e s) x.addr0 64 = bs →
    groupBad n (getP n p) bs = none → (List.range (leAt bs 2 2)).map (fun i => leNat (Mem.readN (hostOf e s) (leAt bs 0x10 8 + 8 * i) 8)) = vals → membersBad 0 vals [] = none →
    vals.getD (leAt bs 4 2) 0 = n.lnk.nodeId.toNat + 2 ^ 32 * p →
    exec (.collectiveDefine e q) s = .next (endsWith e s (post (clkOf e s) t stSuccess 0 (modP p (fun y => { y with groups := mset y.groups (leAt bs 0 1) { num := leAt bs 0 1, level := leAt bs 1 1, size := leAt bs 2 2, myRank := leAt bs 4 2, fanIn := if leAt bs 6 1 = 0 then 8 else leAt bs 6 1, waitUs := if leAt bs 8 4 = 0 then 2000 else leAt bs 8 4, members := vals.map (fun v => (BitVec.ofNat 32 v, v / 2 ^ 32)), collId := BitVec.ofNat 64 (leAt bs 0x18 8), nextSeq := ((mget (getP n p).groups (leAt bs 0 1)).map (·.nextSeq)).getD 1 } }) n)))) ∧
  (∀ (e : Env) (l : Nat) (m : Msg) (s : State) (n n1 : Node) (g : Group) (ck : Checked) (gr : Graph) (slot j : Nat) (c : Coll), Delivered mkFanout l m e s n → mget (getP n m.dstPtn).groups (leAt m.body 0x18 1) = some g →
    (getP n m.dstPtn).insts.any (fun i => i.2.inst == BitVec.ofNat 64 (leAt m.body 0 8) && i.2.group.num == g.num && !i.2.hedged) = false → graphOf (getP n m.dstPtn) (leAt m.body 0x22 1) = some gr →
    memberCheck (getP n m.dstPtn) (BitVec.ofNat 64 (leAt m.body 0x10 8)) (slice m.body 0x20 128) (m.body.drop 0xA0) = some ck →
    (getP n m.dstPtn).colls.find? (fun c => c.2.desc.collId == BitVec.ofNat 64 (leAt m.body 0x10 8)) = some (slot, c) →
    addInst (clkOf e s) m.dstPtn { inst := BitVec.ofNat 64 (leAt m.body 0 8), dupTag := BitVec.ofNat 64 (leAt m.body 8 8), group := g, root := leAt m.body 0x1A 2, rank := g.myRank, query := some (getP n m.dstPtn).nextQ
                                   par := withDefaults gr (sparamsOf (slice m.body 0x20 128)), k := if hasStage gr .score then stagePar gr .score 8 2 16 else (withDefaults gr (sparamsOf (slice m.body 0x20 128))).k, larger := largerOf c } (BitVec.ofNat 64 (leAt m.body 0x10 8)) (slice m.body 0x20 128) (m.body.drop 0xA0) n = (j, n1) →
    exec (.fanout e l m) s = .next (endsWith e s (startQuery (clkOf e s) m.dstPtn none false none (some j) g.myRank ck n1))) ∧
  (∀ (e : Env) (l : Nat) (m : Msg) (s : State) (n : Node) (j : Nat) (i : Inst) (c : Child), Delivered mkPartial l m e s n → 0x98 ≤ m.body.length → (leAt m.body 0x16 2).testBit 8 = false →
    matchInst (getP n m.dstPtn) (BitVec.ofNat 64 (leAt m.body 0 8)) (BitVec.ofNat 64 (leAt m.body 8 8)) (leAt m.body 0x10 2) false = some (j, i) → i.par.wantStats = false → m.body.length = 0x98 + 24 * leAt m.body 0x18 4 → leAt m.body 0x18 4 ≤ i.k →
    i.kids.find? (fun c => c.rank == leAt m.body 0x10 2) = some c →
    ((clkOf e s).node ≤ i.since + 300 * i.group.waitUs → c.got = none → exec (.partialResult e l m) s = .next (endsWith e s (tryMerge (clkOf e s) m.dstPtn j (modI m.dstPtn j (fun i => { i with kids := modAll (fun c => c.rank == leAt m.body 0x10 2) (fun c => { c with got := some (partialSel m.body false), copy := false, src := m.src, srcP := m.srcPtn, inst := BitVec.ofNat 64 (leAt m.body 0 8), at_ := (clkOf e s).node }) i.kids }) n)))) ∧
    (i.since + 300 * i.group.waitUs < (clkOf e s).node → exec (.partialResult e l m) s = .next (endsWith e s (sendClosure (clkOf e s) m.dstPtn none m.level (m.src, m.srcPtn) (BitVec.ofNat 64 (leAt m.body 0 8)) (BitVec.ofNat 64 (leAt m.body 8 8)) (leAt m.body 0x10 2)
      (count m.dstPtn .mergeLate 1 (waitOver (clkOf e s) m.dstPtn j n)))))) ∧
  (∀ (e : Env) (l : Nat) (m : Msg) (s : State) (n : Node), Delivered mkPartial l m e s n → m.body.length < 0x98 → exec (.partialResult e l m) s = .next (endsWith e s (count m.dstPtn .mergeBad 1 n))) ∧
  (∀ (e : Env) (p j : Nat) (s : State) (i : Inst), alive (nodeOf e s) = true → getI (nodeOf e s) p j = some i → i.hedged = false → i.since + 300 * i.group.waitUs ≤ (clkOf e s).node →
    exec (.mergeWaitExpiry e p j) s = .next (endsWith e s (tryMerge (clkOf e s) p j (modI p j (fun i => { i with waited := true }) (nodeOf e s))))) ∧
  (∀ (e : Env) (l : Nat) (m : Msg) (s : State) (n : Node) (j : Nat) (i : Inst), Delivered mkClosure l m e s n →
    (getP n m.dstPtn).insts.find? (fun i => i.2.inst == BitVec.ofNat 64 (leAt m.body 0 8) && i.2.dupTag == BitVec.ofNat 64 (leAt m.body 8 8) && i.2.rank == leAt m.body 0x10 2 && !i.2.isRoot) = some (j, i) →
    (i.hedged = false → exec (.closure e l m) s = .next (endsWith e s (stopInst (clkOf e s) m.dstPtn j false (count m.dstPtn .superseded 1 n)))) ∧
    (i.hedged = true → exec (.closure e l m) s = .next (endsWith e s (endCopy (clkOf e s) m.dstPtn j stSuperseded (count m.dstPtn .superseded 1 n)))))

/-! ### Models (chapter 07) -/

/-- R150 to R154: `MODEL_LOAD` takes the space of a copy beside the current one and answers `ST_NO_SPACE` where there is none; its end makes the image whose digest matches the next version and keeps the copy that a batch pins, or drops what the load took; a due batch launches on free cores
with its oldest tasks, the current copy and the settings of that moment; a streamed record that arrives lets its layer run after the one before it, and the next fetch starts; a batch's end frees its copy and continues its tasks. -/
def Obligations.ModelsRun : Prop :=
  (∀ (e : Env) (q : QRef) (s : State) (t : Tok) (x : Sqe) (n : Node) (p : Nat) (d : ModelDesc) (y : Mdl), Taken Rows.modelLoad anyEntry noChk fnPtn q e s t x n → (getFn n t.fn).map = some p → modelOf (getP n p) x.target = some d →
    x.arg0 = imageBytes d → (mget (getP n p).mdls x.target).getD {} = y →
    (y.load.isSome = true → exec (.modelLoad e (.whole q)) s = .next (endsWith e s (post (clkOf e s) t stBusy 0 n)) ∧ exec (.modelLoad e (.start q)) s = .next (endsWith e s (post (clkOf e s) t stBusy 0 n))) ∧
    (y.load = none → reserveCopy p x.target (y.version + 1) d n = none → exec (.modelLoad e (.whole q)) s = .next (endsWith e s (post (clkOf e s) t stNoSpace 0 n))) ∧
    (∀ m, y.load = none → reserveCopy p x.target (y.version + 1) d n = some m →
      exec (.modelLoad e (.start q)) s = .next (endsWith e s (modP p (fun z => { z with mdls := mset z.mdls x.target { y with load := some t } }) m)) ∧
      exec (.modelLoad e (.whole q)) s = .next (endsWith e s (modelFinish p x.target (clkOf e s) (hostOf e s) (modP p (fun z => { z with mdls := mset z.mdls x.target { y with load := some t } }) m))))) ∧
  (∀ (e : Env) (p m : Nat) (s : State) (y : Mdl) (t : Tok) (c : Cmd) (img : List Byte), alive (nodeOf e s) = true → mget (getP (nodeOf e s) p).mdls m = some y → y.load = some t → cmdOf (nodeOf e s) t = some c →
    Mem.readN (hostOf e s) c.entry.addr0 c.entry.arg0 = img →
    (sha384 img = Mem.readN (hostOf e s) c.entry.addr1 48 → exec (.modelLoad e (.finish p m)) s = .next (endsWith e s (post (clkOf e s) t stSuccess 0 (freeCopies (clkOf e s) p m (modP p (fun z => { z with
      mdls := mset z.mdls m { y with version := y.version + 1, cur := some img, load := none, old := y.old ++ (y.cur.map (fun c => (y.version, c))).toList } }) (nodeOf e s)))))) ∧
    (sha384 img ≠ Mem.readN (hostOf e s) c.entry.addr1 48 → exec (.modelLoad e (.finish p m)) s = .next (endsWith e s (invalid (clkOf e s) t 0 1 (dropLoad (clkOf e s) p m (nodeOf e s)))))) ∧
  (∀ (e : Env) (p m : Nat) (s : State) (x : Ptn) (y : Mdl) (d : ModelDesc) (k : Task) (ks ts : List Task) (n : Node), alive (nodeOf e s) = true → getP (nodeOf e s) p = x → mget x.mdls m = some y → modelOf x m = some d → schedules x = true → y.cur.isSome = true →
    y.queue = k :: ks → batchDue (pctr (clkOf e s) p) y.queue = true → d.flags.testBit 1 = false → k.cores ≤ coresLeft x →
    taskThreads (clkOf e s) p ((batchOf y.queue).map (fun t => { t with thr := effThr x, forceN8 := bit x.qntCfg 24 })) (nodeOf e s) = some (ts, n) →
    exec (.modelBatchLaunch e p m) s = .next (endsWith e s (count p .mdlBatches 1 (modP p (fun a => { a with
      mdls := mmod a.mdls m (fun z => { z with queue := z.queue.drop ts.length, nextRec := 0, window := [] })
      batches := mset a.batches a.nextB { model := m, tasks := ts, ver := y.version, cores := k.cores, at_ := pctr (clkOf e s) p }, nextB := a.nextB + 1 })
        (foldNode ts (fun t n => stepCtx (clkOf e s) p t.ctx 3 n) n))))) ∧
  (∀ (e : Env) (p m i : Nat) (s : State) (x : Ptn) (y : Mdl) (d : ModelDesc) (b : Batch) (j : Nat) (ends : List Nat), alive (nodeOf e s) = true → getP (nodeOf e s) p = x → mget x.mdls m = some y → modelOf x m = some d → schedules x = true →
    x.batches.find? (fun b => b.2.model == m) = some (i, b) → y.nextRec = j + 1 → (j < d.window ∨ b.ends.getD (j - d.window) 0 ≤ pctr (clkOf e s) p) →
    b.ends ++ [max (pctr (clkOf e s) p) (b.ends.getLast?.getD b.at_) + layerTime d b j] = ends →
    exec (.modelLayerFetched e p m) s = .next (endsWith e s (modP p (fun x => { x with
      mdls := mmod x.mdls m (fun z => { z with window := (z.window ++ [j]).filter (fun k => decide (pctr (clkOf e s) p < ends.getD k 0)), nextRec := if j + 1 < layersOf d then j + 2 else 0 })
      batches := mset x.batches i { b with layer := j + 1, ends := ends } }) (nodeOf e s)))) ∧
  (∀ (e : Env) (p i : Nat) (s : State) (x : Ptn) (b : Batch) (y : Mdl) (d : ModelDesc) (n : Node), alive (nodeOf e s) = true → getP (nodeOf e s) p = x → mget x.batches i = some b → mget x.mdls b.model = some y → modelOf x b.model = some d → schedules x = true →
    (d.flags.testBit 1 = true → layersOf d ≤ b.layer ∧ b.ends.getLast?.getD 0 ≤ pctr (clkOf e s) p) → y.version = b.ver →
    foldNode (modelReads d b.model b.ver b.tasks) (fun r n => heatUse p r.1 r.2.1 r.2.2 false n)
      (readAll (clkOf e s) p 0 (b.tasks.head?.bind (fun t => (taskParent (nodeOf e s) p t).2)) ((b.tasks.head?.map (·.ctx)).getD noCtx) (modelLocs p b.model b.ver d b.tasks true) (modelLocs p b.model b.ver d b.tasks false) (nodeOf e s)) = n →
    exec (.modelBatchEnd e p i) s = .next (endsWith e s (settleXfers (clkOf e s) p (b.tasks.foldl (endTask (clkOf e s) p d (modelRead (getP n p) b.model b.ver d (y.cur.getD []))) (freeCopies (clkOf e s) p b.model (modP p (fun x => { x with batches := mdel x.batches i }) n))))))

/-! ### Embedding tables (chapter 08) -/

/-- R158, R161: `TABLE_CREATE` makes the table that its descriptor gives, owned by this partition, where both tiers and the Canopy have room, and answers `ST_NO_SPACE` where one has not; `TABLE_DROP` abandons the table's migrations and puts it in DRAINING until its adds have been
applied and nothing else fetched works on it. -/
def Obligations.TablesComeAndGo : Prop :=
  (∀ (e : Env) (q : QRef) (s : State) (t : Tok) (x : Sqe) (n : Node) (p : Nat) (bs : List Byte) (d : Tbl), Taken Rows.tableCreate anyEntry noChk fnPtn q e s t x n → (getFn n t.fn).map = some p → Mem.readN (hostOf e s) x.addr0 64 = bs →
    tblBad (getP n p) bs = none → tblOf bs = d →
    (∀ m, (tblBytes d.width d.rows d.hotRows d.policy).1 ≤ freeT1 n p → (tblBytes d.width d.rows d.hotRows d.policy).2 ≤ freeT2 n p → d.canopyK + sumNat ((getP n p).tbls.map (fun y => y.2.canopyK)) ≤ 1024 * coresOf (getP n p) →
      makeTbl p (leAt bs 0 1) d (modP p (fun y => { y with tbls := mset y.tbls (leAt bs 0 1) { d with own := { owner := n.lnk.nodeId, ownerP := p } } }) n) = some m →
      exec (.tableCreate e q) s = .next (endsWith e s (post (clkOf e s) t stSuccess 0 m))) ∧
    (makeTbl p (leAt bs 0 1) d (modP p (fun y => { y with tbls := mset y.tbls (leAt bs 0 1) { d with own := { owner := n.lnk.nodeId, ownerP := p } } }) n) = none →
      exec (.tableCreate e q) s = .next (endsWith e s (post (clkOf e s) t stNoSpace 0 n))) ∧
    ((freeT1 n p < (tblBytes d.width d.rows d.hotRows d.policy).1 ∨ freeT2 n p < (tblBytes d.width d.rows d.hotRows d.policy).2 ∨ 1024 * coresOf (getP n p) < d.canopyK + sumNat ((getP n p).tbls.map (fun y => y.2.canopyK))) →
      exec (.tableCreate e q) s = .next (endsWith e s (post (clkOf e s) t stNoSpace 0 n)))) ∧
  (∀ (e : Env) (q : QRef) (s : State) (t : Tok) (x : Sqe) (n : Node) (p : Nat) (y : Tbl), Taken Rows.tableDrop anyEntry tblChk fnPtn q e s t x n → (getFn n t.fn).map = some p → getT n p x.target = some y → tblRefuses (some y) = none →
    exec (.tableDrop e q) s = .next (endsWith e s (finishTblDrop (clkOf e s) p x.target (abandonMigs p x.target (modT p x.target (fun y => { y with st := .draining, drop := some t }) n))))) ∧
  (∀ (clk : Clock) (p tn : Nat) (n : Node) (y : Tbl) (t : Tok), getT n p tn = some y → y.drop = some t →
    (y.own.xfer = none → (getP n p).adds.any (fun a => a.2.tbl == tn) = false → (getP n p).queries.any (fun q => poolsFrom (getP n p) tn q.2) = false → durOnTbl n p tn y = false →
      finishTblDrop clk p tn n = post clk t stSuccess 0 (modP p (fun x => { x with tbls := mdel x.tbls tn }) (dropNodeObj clk p .table tn (dropUses clk p (fun u => u == .home tn || u == .hot tn || u == .hotDir tn) n)))) ∧
    (y.own.xfer.isSome = true ∨ (getP n p).adds.any (fun a => a.2.tbl == tn) = true ∨ (getP n p).queries.any (fun q => poolsFrom (getP n p) tn q.2) = true ∨ durOnTbl n p tn y = true → finishTblDrop clk p tn n = n))

/-- A table operation descriptor that passes its checks, on a table that serves. -/
def topNames (upd : Bool) (n : Node) (t : Tok) (bs : List Byte) (p : Nat) (y : Tbl) : Prop :=
  (getFn n t.fn).map = some p ∧ topBad upd bs = none ∧ getT n p (topOf bs).table = some y ∧ tblRefuses (some y) = none
/-- R160, R162 to R165, R189: `TABLE_WRITE` writes its rows in every copy and completes, durable ones once they are in flash; `TABLE_READ` copies its rows to host memory; `POOL` answers each bag's exact weighted sum, and marks of empty and poisoned bags where they are asked for. -/
def Obligations.RowsAreWrittenReadAndPooled : Prop :=
  (∀ (e : Env) (q : QRef) (s : State) (t : Tok) (x : Sqe) (n : Node) (p : Nat) (y : Tbl) (vs : List W32), Taken Rows.tableWrite anyEntry tblChk noPtn q e s t x n → (getFn n t.fn).map = some p → getT n p x.target = some y → tblRefuses (some y) = none →
    rowsBad y x = none → tblOwnRefuses y = none →
    (tblSealed (getP n p) x.target y = true → exec (.tableWrite e q) s = .next (endsWith e s (post (clkOf e s) t stObjectSealed 0 n))) ∧
    (tblSealed (getP n p) x.target y = false → words32 (Mem.readN (hostOf e s) x.addr0 (4 * (y.width * x.arg1))) (y.width * x.arg1) = vs → firstBad vs = none → tblHeld y = false →
      exec (.tableWrite e q) s = .next (endsWith e s (finishCmd (clkOf e s) t (writeRows (clkOf e s) p x.target x.arg0 y.width t x.durable vs x.arg1 (markCmd t false true (modWait t (fun d => d) n))))))) ∧
  (∀ (e : Env) (q : QRef) (s : State) (t : Tok) (x : Sqe) (n m : Node) (p : Nat) (y z : Tbl) (rs : List Nat), Taken Rows.tableRead anyEntry tblChk noPtn q e s t x n → (getFn n t.fn).map = some p → getT n p x.target = some y → tblRefuses (some y) = none →
    rowsBad y x = none → (List.range x.arg1).map (x.arg0 + ·) = rs →
    foldNode rs (fun r n => readWords (clkOf e s) p (some t) 0xFFFFFFFF (rowWords p x.target y r) (isRow p x.target r) (heatRow p x.target r false n)) n = m → getT m p x.target = some z →
    exec (.tableRead e q) s = .next (endsWith e s (post (clkOf e s) t (if rs.any (rowPoisoned z) then stDataPoison else stSuccess) 0 (emit (.data x.addr0 ((rs.map (rowBytes (getP m p) x.target z)).flatten)) m)))) ∧
  (∀ (e : Env) (q : QRef) (s : State) (t : Tok) (x : Sqe) (n n1 n2 m : Node) (p ci : Nat) (bs : List Byte) (y : Tbl) (ts : List Tri) (offs : List Nat) (outs : List (List W32 × Bool)), Taken Rows.pool anyEntry noChk noPtn q e s t x n → Mem.readN (hostOf e s) x.addr0 64 = bs →
    topNames false n t bs p y → readBags (hostOf e s) (topOf bs) y.rows = .ok (ts, offs) → addCtx p (threadCtx (clkOf e s) p 0x0A 3 (some t) n) n = (ci, n1) →
    poolBags (clkOf e s) p (topOf bs).table (some t) ci (preRows (getP n p) t (topOf bs).table) ts (topOf bs).cnt n1 = (n2, outs) → prefetchNext (hostOf e s) t p (topOf bs).table y (endPre p t (delCtx p ci n2)) = m →
    ((topOf bs).bagFlags = false → exec (.poolCmd e q) s = .next (endsWith e s (post (clkOf e s) t stSuccess 0 (emit (.data (topOf bs).data ((outs.map (fun o => bytesOf32 o.1)).flatten)) m)))) ∧
    ((topOf bs).bagFlags = true → exec (.poolCmd e q) s = .next (endsWith e s (post (clkOf e s) t stSuccess 0
      (emit (.data (topOf bs).flag (List.zipWith (fun o k => BitVec.ofNat 8 (b2n (k.1 == k.2) + 2 * b2n o.2)) outs (offs.zip (offs.drop 1)))) (emit (.data (topOf bs).data ((outs.map (fun o => bytesOf32 o.1)).flatten)) m))))))

/-- R171 to R174: `UPDATE` combines its deltas by index and issues one add for each index whose delta is not zero, counting the infinite elements that it drops; the oldest issued add of a row is applied at its memory, one at a time; a migration that has written its copy forwards, and its cut-over makes the copy with
the logged operations the row, moves the directory and counts; a hot row of a channel that has been in back-off for 1 ms moves to a slot of another channel. -/
def Obligations.AddsApplyAndRowsMigrate : Prop :=
  (∀ (e : Env) (q : QRef) (s : State) (t : Tok) (x : Sqe) (n n1 n2 : Node) (p ci : Nat) (bs : List Byte) (y : Tbl) (o : TOp) (data : List W32) (idx : List Nat) (ds : List (Nat × List W32)), Taken Rows.update anyEntry noChk noPtn q e s t x n → Mem.readN (hostOf e s) x.addr0 64 = bs →
    topNames true n t bs p y → topOf bs = o → y.train = true → tblOwnRefuses y = none → tblSealed (getP n p) o.table y = false → o.mode = 0 → words32 (Mem.readN (hostOf e s) o.data (4 * y.width * o.cnt)) (y.width * o.cnt) = data → firstBad data = none →
    (words32 (Mem.readN (hostOf e s) o.idx (4 * o.cnt)) o.cnt).map (·.toNat) = idx → (idx.takeWhile (fun r => decide (r < y.rows))).length = o.cnt →
    combineRows y.width (List.zip idx ((List.range o.cnt).map (fun i => (data.drop (y.width * i)).take y.width))) = ds →
    modWait t (fun d => d) (count p .embOverflow (sumNat (ds.map (fun d => (d.2.filter isInf32).length))) (count p .embRecords o.cnt n)) = n1 → addCtx p (threadCtx (clkOf e s) p 0x0B 3 (some t) n1) n1 = (ci, n2) →
    exec (.updateCmd e q) s = .next (endsWith e s (finishCmd (clkOf e s) t (sweepUpds p (foldNode (ds.filter (fun d => !d.2.all zero32))
      (fun d n => newAdd p { tok := some t, tbl := o.table, row := d.1, op := .add (dropInf d.2), dur := x.durable, held := tblHeld y, ctx := ci } n) n2))))) ∧
  (∀ (e : Env) (p i : Nat) (s : State) (a : Add), alive (nodeOf e s) = true → mget (getP (nodeOf e s) p).adds i = some a → a.held = false → (getP (nodeOf e s) p).st ≠ .resetting → (issuedOps (getP (nodeOf e s) p) a.tbl a.row).head?.map (·.1) = some i →
    exec (.addApplied e p i) s = .next (endsWith e s (settleXfers (clkOf e s) p (applyAdd (clkOf e s) p i a (ungate p (nodeOf e s)))))) ∧
  (∀ (p i : Nat) (a : Add) (n : Node) (y : Tbl), getT n p a.tbl = some y → y.migs.any (fun m => m.row == a.row && m.st == .cutover) = true →
    issueAdd p i a n = modT p a.tbl (fun t => { t with migs := modAll (fun m => m.row == a.row) (fun m => { m with held := m.held ++ [i] }) t.migs }) (modP p (fun x => { x with adds := mset x.adds i { a with held := true } }) n)) ∧
  (∀ (e : Env) (p t r : Nat) (s : State), alive (nodeOf e s) = true → (getP (nodeOf e s) p).st ≠ .resetting →
    exec (.migrationCopyWritten e p t r) s = .next (endsWith e s (modT p t (fun y => { y with migs := modAll (fun m => m.row == r && m.st == .copy) (fun m => { m with st := .forward }) y.migs }) (nodeOf e s)))) ∧
  (∀ (e : Env) (p t r : Nat) (s : State) (y : Tbl) (m : Mig), alive (nodeOf e s) = true → (getP (nodeOf e s) p).st ≠ .resetting → getT (nodeOf e s) p t = some y → y.migs.find? (fun m => m.row == r && m.st != .copy) = some m →
    exec (.migrationCutover e p t r) s = .next (endsWith e s (settleXfers (clkOf e s) p (releaseHeld p m.held (count p .migrations 1 (modT p t (fun z => { putRow z r (m.log.foldl (fun v op => opRow op v) m.copy) with
      dir := (match m.dest with
        | some k => mset z.dir r k
        | none => mdel z.dir r), migs := z.migs.filter (fun m => m.row != r) }) (settleRow (clkOf e s) p t r (nodeOf e s)))))))) ∧
  (∀ (e : Env) (p t r k j : Nat) (s : State) (x : Ptn) (y : Tbl) (ch : Chan), alive (nodeOf e s) = true → getP (nodeOf e s) p = x → mget x.tbls t = some y → mget y.dir r = some k → vget (nodeOf e s).mem.chans (slotChan x k) = ch → (ch.thermal = true ∨ ch.satur = true) →
    ch.backAt + 300000 ≤ pctr (clkOf e s) p → fld x.embCfg 24 4 ≠ 0 → y.migs.any (fun m => m.row == r) = false → migsOf x < 64 → x.st = .inService → y.drop = none → y.own.st ≠ .releasing →
    (List.range y.hotRows).find? (fun j => !(y.dir.any (fun d => d.2 == j) || y.migs.any (fun m => m.dest == some j)) && slotChan x j != slotChan x k) = some j →
    exec (.hotRowBackoffMove e p t r) s = .next (endsWith e s (startMig p t r (some j) (nodeOf e s))))

/-! ### Memory (chapter 09) -/

/-- `TARGET` names a host object of the function's partition. -/
def objIs (n : Node) (t : Tok) (x : Sqe) (p : Nat) (o : Obj) : Prop := objNamed n t.fn x.target = some (p, o)
/-- R183, R184, R186: `OBJECT_ALLOC` takes the lowest free page numbers and a frame for each, or answers `ST_NO_SPACE`; `OBJECT_FREE` frees pages and object; `OBJECT_POLICY` sets the policy and completes once the pages conform; `OBJECT_WRITE` stores its bytes, clearing poison, and is refused by a sealed object;
`OBJECT_READ` copies the bytes to host memory. -/
def Obligations.ObjectCommandsComplete : Prop :=
  (∀ (e : Env) (q : QRef) (s : State) (t : Tok) (x : Sqe) (n m : Node) (p : Nat) (o : Obj), Taken Rows.objectAlloc anyEntry noChk fnPtn q e s t x n → (getFn n t.fn).map = some p → 0 < x.target → x.target < 0xF000 → mhas (getP n p).objs x.target = false →
    policyBad (getP n p) (BitVec.ofNat 64 x.arg1) = false → o = { pages := freePages n.mem.pages (n.mem.pages.length + x.arg0) x.arg0 0, policy := BitVec.ofNat 64 x.arg1 } →
    (x.arg0 ≤ freeT1 n p / 65536 + freeT2 n p / 4096 → allocPages p x.target o (o.pages.mapIdx (fun i g => (i, g))) n = some m →
      exec (.objectAlloc e q) s = .next (endsWith e s (post (clkOf e s) t stSuccess 0 (modP p (fun y => { y with objs := mset y.objs x.target o }) m)))) ∧
    (freeT1 n p / 65536 + freeT2 n p / 4096 < x.arg0 ∨ allocPages p x.target o (o.pages.mapIdx (fun i g => (i, g))) n = none → exec (.objectAlloc e q) s = .next (endsWith e s (post (clkOf e s) t stNoSpace 0 n)))) ∧
  (∀ (e : Env) (q : QRef) (s : State) (t : Tok) (x : Sqe) (n : Node) (p : Nat) (o : Obj), Taken Rows.objectFree anyEntry freeChk fnPtn q e s t x n → objIs n t x p o → (getP n p).polCmds.any (fun c => c.2 == x.target) = false →
    exec (.objectFree e q) s = .next (endsWith e s (post (clkOf e s) t stSuccess 0 (freeObj p x.target n)))) ∧
  (∀ (e : Env) (q : QRef) (s : State) (t : Tok) (x : Sqe) (n : Node) (p : Nat) (o : Obj), Taken Rows.objectPolicy anyEntry objChk fnPtn q e s t x n → objIs n t x p o → fld o.policy 8 4 = 0 → policyBad (getP n p) (BitVec.ofNat 64 x.arg1) = false → (bit o.policy 3 = true → bit (BitVec.ofNat 64 x.arg1) 3 = true) →
    exec (.objectPolicy e q) s = .next (endsWith e s (settlePols (clkOf e s) p (markCmd t false true (modMem (fun m => { m with pages := m.pages.map (fun g => if o.pages.contains g.1 then (g.1, { g.2 with pin := bit (BitVec.ofNat 64 x.arg1) 2 }) else g) })
      (modP p (fun y => { y with objs := mmod y.objs x.target (fun o => { o with policy := BitVec.ofNat 64 x.arg1 }), polCmds := y.polCmds ++ [(t, x.target)] }) n)))))) ∧
  (∀ (e : Env) (q : QRef) (s : State) (t : Tok) (x : Sqe) (n : Node) (p : Nat) (o : Obj), Taken Rows.objectWrite anyEntry objRange noPtn q e s t x n → objIs n t x p o →
    (bit o.policy 3 = true → exec (.objectWrite e q) s = .next (endsWith e s (post (clkOf e s) t stObjectSealed 0 n))) ∧
    (bit o.policy 3 = false → exec (.objectWrite e q) s = .next (endsWith e s (post (clkOf e s) t stSuccess 0 (heatRange o x.arg0 x.arg1 true (markCmd t false true (putObj (clkOf e s) p x.target o x.arg0 (Mem.readN (hostOf e s) x.addr0 x.arg1) n))))))) ∧
  (∀ (clk : Clock) (p ob off : Nat) (o : Obj) (bs : List Byte) (n : Node), o.use_ = .host →
    putObj clk p ob o off bs n = modP p (fun y => { y with objs := mmod y.objs ob (fun o => { o with
      data := Mem.writeN o.data off bs, poison := o.poison.filter (fun k => !(decide (off ≤ k) && decide (k < off + bs.length))) }) }) (overwrite (inRange (getP n p) p ob off bs.length) n)) ∧
  (∀ (e : Env) (q : QRef) (s : State) (t : Tok) (x : Sqe) (n m : Node) (p : Nat) (o a : Obj), Taken Rows.objectRead anyEntry objRange noPtn q e s t x n → objIs n t x p o →
    readWords (clkOf e s) p (some t) 0xFFFFFFFF (locsAt p (getP n p) x.target (badIn p (getP n p) o x.arg0 x.arg1)) (inRange (getP n p) p x.target x.arg0 x.arg1) n = m → mget (getP m p).objs x.target = some a →
    (badIn p (getP m p) a x.arg0 x.arg1 = [] → exec (.objectRead e q) s = .next (endsWith e s (post (clkOf e s) t stSuccess 0 (emit (.data x.addr0 (objRead (getP m p) a x.arg0 x.arg1)) (heatRange a x.arg0 x.arg1 false m))))) ∧
    (badIn p (getP m p) a x.arg0 x.arg1 ≠ [] → exec (.objectRead e q) s = .next (endsWith e s (post (clkOf e s) t stDataPoison 0 (emit (.data x.addr0 (objCopy p (getP m p) a x.arg0 x.arg1)) (heatRange a x.arg0 x.arg1 false m))))))

/-- R181, R182, R200: at the end of a heat period pages outside what is allowed start to move, every page that has reached `PROMOTE` starts to move, then every heat is halved; a migration's cut-over records the bad words that it meets, gives the page its new frame, counts its direction and may complete
policies that waited. -/
def Obligations.PagesMigrate : Prop :=
  (∀ (e : Env) (s : State) (m : Node), alive (nodeOf e s) = true → (nodeOf e s).mem.heatAt + 300000 * fld (nodeOf e s).mem.migCfg 0 8 ≤ (clkOf e s).node → foldNode (List.range 8) conformAll (nodeOf e s) = m →
    (fld m.mem.migCfg 24 8 = 0 →
      exec (.heatAge e) s = .next (endsWith e s (modMem (fun m => { m with heatAt := (clkOf e s).node, pages := m.pages.map (fun g => (g.1, { g.2 with heat := g.2.heat / 2 })) }) m))) ∧
    (fld m.mem.migCfg 24 8 ≠ 0 →
      exec (.heatAge e) s = .next (endsWith e s (modMem (fun m => { m with heatAt := (clkOf e s).node, pages := m.pages.map (fun g => (g.1, { g.2 with heat := g.2.heat / 2 })) })
        (foldNode ((nodeOf e s).mem.pages.filter (fun g => g.2.tier == 1 && g.2.mig.isNone && isAuto (nodeOf e s) g.2 && decide (fld (nodeOf e s).mem.migCfg 16 8 ≤ g.2.heat) && (getP (nodeOf e s) g.2.ptn).st == .inService))
          (fun g n => promote g.1 (ungate g.2.ptn n)) m))))) ∧
  (∀ (e : Env) (gp off : Nat) (s : State) (g : Page) (m : PMig) (o : Obj) (x : Ptn) (n1 n2 : Node), alive (nodeOf e s) = true → getPage (nodeOf e s) gp = some g → g.mig = some m → getP (nodeOf e s) g.ptn = x → x.st ≠ .resetting →
    objOfPage (nodeOf e s) g = some o → 65536 * posOf o gp = off →
    meetErrs (clkOf e s) 5 0 none 0xFFFFFFFF (inRange x g.ptn g.obj off 65536) (metLocs (clkOf e s) g.ptn 0 0xFFFFFFFF none (locsAt g.ptn x g.obj (badIn g.ptn x o off 65536)) (nodeOf e s)) = n1 →
    modPage gp (fun y => { y with tier := m.tier, chan := m.chan, frame := m.frame, mode := m.mode, sectors := m.sectors, chans := m.chans, mig := none }) n1 = n2 →
    (g.tier = 1 → m.tier = 0 → exec (.pageMigrationCutover e gp) s = .next (endsWith e s (settlePols (clkOf e s) g.ptn (conformAll g.ptn (count g.ptn .pagePromote 1 n2))))) ∧
    (g.tier = 0 → m.tier = 1 → exec (.pageMigrationCutover e gp) s = .next (endsWith e s (settlePols (clkOf e s) g.ptn (conformAll g.ptn (count g.ptn .pageDemote 1 n2))))) ∧
    (g.tier = m.tier → exec (.pageMigrationCutover e gp) s = .next (endsWith e s (settlePols (clkOf e s) g.ptn (conformAll g.ptn n2)))))

/-- R187, R188, R190, R191, R195, R198, R199: a scrub pass corrects and counts words of one or two bad bits and poisons and records words of three; a held access is counted; a stack's temperature sets its Darner budget by Table 9-10, and the windows in which the budget is the highest are counted for its channels; a channel enters back-off by a reduced
budget or by 4,096 cycles of waiting, and leaves it after 16 clear windows. -/
def Obligations.MemoryUpkeepRuns : Prop :=
  (∀ (e : Env) (finds fs : List Finding) (s : State) (n n1 : Node) (tiers sram : List Nat), alive (nodeOf e s) = true → nodeOf e s = n →
    (List.range 8).filter (fun p => (getP n p).st != .absent && (patrolDue (clkOf e s) n || resetDue (clkOf e s) n p)) = tiers →
    (if sramDue (clkOf e s) n then (List.range 8).filter (fun p => (getP n p).st != .absent) else []) = sram →
    (n.mem.errs ++ finds).filter (fun f => scrubReads (clkOf e s) n f.loc) = fs →
    modMem (fun m => { m with errs := n.mem.errs.filter (fun f => !scrubReads (clkOf e s) n f.loc), patrolAt := if patrolDue (clkOf e s) n then (clkOf e s).node else m.patrolAt
                              sramAt := if sramDue (clkOf e s) n then (clkOf e s).node else m.sramAt })
      (foldNode sram (scrubSram (clkOf e s)) (foldNode tiers (fun p n => scrubTiers (clkOf e s) p (ungate p n)) n)) = n1 →
    exec (.patrolScrub e finds) s = .next (endsWith e s (foldNode tiers (fun p n => modP p (fun x => { x with resetScrub := none }) n) (scrubRows (clkOf e s) tiers fs (foldNode fs (scrubWord (clkOf e s)) n1))))) ∧
  (∀ (clk : Clock) (f : Finding) (n : Node), locPtn (normLoc n f.loc) < 8 →
    ((f.bits = 1 ∨ f.bits = 2) → scrubWord clk f n = count (locPtn (normLoc n f.loc)) .memCe 1 n) ∧
    (f.bits = 3 → poisoned n (normLoc n f.loc) = false → scrubWord clk f n = uncorrectable clk 4 (if inT1 f then 8 else 0) none 0xFFFFFFFF { f with loc := normLoc n f.loc } n)) ∧
  (∀ (e : Env) (p : Nat) (s : State), alive (nodeOf e s) = true → exec (.heldAccess e p) s = .next (endsWith e s (count p .drnHeld 1 (nodeOf e s)))) ∧
  (∀ (e : Env) (k t b : Nat) (s : State), alive (nodeOf e s) = true → k < 8 → t < 110 → ((t < 85 ∧ b = 1600) ∨ (85 ≤ t ∧ t < 95 ∧ b = 80 * (105 - t)) ∨ (95 ≤ t ∧ t < 100 ∧ b = 400) ∨ (100 ≤ t ∧ b = 200)) →
    exec (.stackBudgetWindow e k t) s = .next (endsWith e s (modMem (fun m => { m with
      stks := vmod m.stks k (fun _ => { temp := t, budget := b }), chans := m.chans.mapIdx (fun c ch => if c / 16 = k then
        (if b < 1600 then { ch with thermal := true, clear := 0, backAt := if ch.thermal || ch.satur then ch.backAt else (if ch.ptn < 8 then pctr (clkOf e s) ch.ptn else (clkOf e s).node) }
         else if 15 ≤ ch.clear then { ch with thermal := false, satur := false, clear := ch.clear + 1 } else { ch with clear := ch.clear + 1 }) else ch) }) (nodeOf e s)))) ∧
  (∀ (e : Env) (k t : Nat) (s : State), alive (nodeOf e s) = true → k < 8 → 110 ≤ t →
    ∃ t', exec (.stackBudgetWindow e k t) s = .next t' ∧ t'.node.boot.stopped = true ∧ t'.node.pins.thermtrip = false ∧ t'.node.pwr.tripLast = sat 8 t) ∧
  (∀ (e : Env) (c w : Nat) (s : State) (ch : Chan) (sa th : Bool), alive (nodeOf e s) = true → c < 128 → vget (nodeOf e s).mem.chans c = ch → sa = decide (4096 ≤ w) → th = decide ((vget (nodeOf e s).mem.stks (c / 16)).budget < 1600) →
    ((sa = true ∨ th = true) → exec (.darnerBackoff e c w) s = .next (endsWith e s (modMem (fun m => { m with chans := vmod m.chans c (fun x => { x with
      thermal := x.thermal || th, satur := x.satur || sa, clear := 0, backAt := if x.thermal || x.satur then x.backAt else (if ch.ptn < 8 then pctr (clkOf e s) ch.ptn else (clkOf e s).node) }) }) (nodeOf e s)))) ∧
    (sa = false → th = false → 16 ≤ ch.clear → exec (.darnerBackoff e c w) s = .next (endsWith e s (modMem (fun m => { m with chans := vmod m.chans c (fun x => { x with thermal := false, satur := false }) }) (nodeOf e s)))))

/-! ### Flash (chapter 10) -/

/-- What an identified cartridge leaves in its slot: its serial number and its life record, by the copies that the slot holds of it, or that it shows (R206, R207). -/
def identRead (k : Nat) (id : CartIdent) (n : Node) : Node :=
  let c := getCart n k
  let a := if c.known then c.lifeA else id.lifeA
  let b := if c.known then c.lifeB else id.lifeB
  let l := lifeAtMount a b (if c.known then c.sets else id.sets)
  modCart k (fun c => { c with serial := (idRecordOf id.record).serial, life := l, lifeP := lifeUsed l.wear, lifeA := a, lifeB := b }) n
/-- R204 to R211, R361: a cartridge that appears is powered and identified; one whose links, dies or parameter pages fail has failed; the first failing check of its identity makes it READ_ONLY with its reason; another node's is FOREIGN; a good one is mounted and ACTIVE. Its life record is written every ten minutes; a released
cartridge that is removed is forgotten, and one removed unreleased loses what waits on it, its staged sectors going to another; a release makes the slot RELEASING and ends once nothing is under way there, with its life record written closed and its power gone; an adoption makes a released or a foreign one ACTIVE. -/
def Obligations.CartridgesServe : Prop :=
  (∀ (e : Env) (k : Nat) (s : State), k < 4 → (getCart (nodeOf e s) k).present = false → (nodeOf e s).pins.perst = true →
    exec (.cartPresent e k) s = .next (endsWith e s (modCart k (fun c => { c with present := true, power := true, st := .identifying, why := 0, safe := false }) (nodeOf e s)))) ∧
  (∀ (e : Env) (k : Nat) (id : CartIdent) (s : State), alive (nodeOf e s) = true → (getCart (nodeOf e s) k).st = .identifying → (id.trained ≠ 0xFF ∨ id.dies.length ≠ 128 ∨ ∃ d ∈ id.dies, d.1 ≠ {}) →
    exec (.cartIdentified e k id) s = .next (endsWith e s (identsDone (modCart k (fun c => { c with st := .failed }) (nodeOf e s))))) ∧
  (∀ (e : Env) (k : Nat) (id : CartIdent) (s : State) (c : Cart) (m : Node), alive (nodeOf e s) = true → getCart (nodeOf e s) k = c → c.st = .identifying → c.known = false → id.trained = 0xFF → id.dies.length = 128 → (∀ d ∈ id.dies, d.1 = {}) →
    lifeUsed (lifeAtMount id.lifeA id.lifeB id.sets).wear < 900 → identRead k id (nodeOf e s) = m →
    (id.idAnswers = false → exec (.cartIdentified e k id) s = .next (endsWith e s (retryAll (clkOf e s) (hostOf e s) (identsDone (settleColls (raiseAt attnCartridge 0 (modCart k (fun c => { c with st := .readOnly, why := 1 }) (mountCart (clkOf e s) k id m)))))))) ∧
    (id.idAnswers = true → (recordOk (idRecordOf id.record) = false ∨ id.rsaOk = false ∨ id.slhOk = false) →
      exec (.cartIdentified e k id) s = .next (endsWith e s (retryAll (clkOf e s) (hostOf e s) (identsDone (settleColls (raiseAt attnCartridge 0 (modCart k (fun c => { c with st := .readOnly, why := 2 }) (mountCart (clkOf e s) k id m)))))))) ∧
    (id.idAnswers = true → recordOk (idRecordOf id.record) = true → id.rsaOk = true → id.slhOk = true →
      ((idRecordOf id.record).dieDigest ≠ leNat (sha384 ((id.dies.map (fun d => d.2.take 16)).flatten)) →
        exec (.cartIdentified e k id) s = .next (endsWith e s (retryAll (clkOf e s) (hostOf e s) (identsDone (settleColls (raiseAt attnCartridge 0 (modCart k (fun c => { c with st := .readOnly, why := 3 }) (mountCart (clkOf e s) k id m)))))))) ∧
      ((idRecordOf id.record).dieDigest = leNat (sha384 ((id.dies.map (fun d => d.2.take 16)).flatten)) →
        (id.dirOurs ≠ some false → exec (.cartIdentified e k id) s = .next (endsWith e s (retryAll (clkOf e s) (hostOf e s) (identsDone (activate (clkOf e s) k (mountCart (clkOf e s) k id m)))))) ∧
        (id.dirOurs = some false → factoryBoot (nodeOf e s) = false → exec (.cartIdentified e k id) s = .next (endsWith e s (retryAll (clkOf e s) (hostOf e s) (identsDone (modCart k (fun c => { c with st := .foreign, ident := some id }) m)))))))) ∧
  (∀ r : IdRecord, recordOk r = true ↔ r.magic = 0x544C454D ∧ r.recVer = 1 ∧ r.model = 0x0C64 ∧ r.channels = 8 ∧ r.dies = 16 ∧ r.planes = 4 ∧ r.blocks = 5015 ∧ r.spares = 48 ∧ r.pagesQlc = 1536 ∧ r.pages1bit = 384 ∧ r.peRated = 1500 ∧ r.lblocks = 13671875000 ∧ r.bufGb = 640) ∧
  (∀ (e : Env) (k : Nat) (s : State), alive (nodeOf e s) = true → (getCart (nodeOf e s) k).st = .active → (getCart (nodeOf e s) k).lifeAt + 180000000000 ≤ (clkOf e s).node →
    exec (.lifeRecordWrite e k) s = .next (endsWith e s (writeLife (clkOf e s) k (nodeOf e s)))) ∧
  (∀ (e : Env) (k : Nat) (s : State), (getCart (nodeOf e s) k).present = true →
    ((getCart (nodeOf e s) k).safe = true → exec (.cartRemoved e k) s = .next (endsWith e s (forgetSlot k (nodeOf e s)))) ∧
    (∀ (mine : List Staged) (m : Node), (getCart (nodeOf e s) k).safe = false → unsettled (clkOf e s) (nodeOf e s) k = mine →
      modFls (fun f => { f with progs := f.progs.filter (fun g => g.2.cart != k), stage := f.stage.filter (fun x => !mine.any (fun y => y.ver == x.ver)) })
        (parkSanits (clkOf e s) k (loseToks (clkOf e s) (waitOn (nodeOf e s) k) (nodeOf e s))) = m →
      (∀ dest, otherSlot m k = some dest →
        exec (.cartRemoved e k) s = .next (endsWith e s (retryAll (clkOf e s) (hostOf e s) (settleKept (clkOf e s) (raiseAt attnCartridge 0 (settleColls (forgetSlot k (foldNode mine (programNow (clkOf e s) dest) m)))))))) ∧
      (otherSlot m k = none → exec (.cartRemoved e k) s = .next (endsWith e s (retryAll (clkOf e s) (hostOf e s) (settleKept (clkOf e s) (raiseAt attnCartridge 0 (settleColls (forgetSlot k m)))))))) ) ∧
  (∀ (e : Env) (q : QRef) (s : State) (t : Tok) (x : Sqe) (n : Node), Taken Rows.cartRelease anyEntry noChk noPtn q e s t x n → x.target < 4 → ((getCart n x.target).st = .active ∨ (getCart n x.target).st = .readOnly) → x.flag 1 = false →
    exec (.cartRelease e q) s = .next (endsWith e s (retryAll (clkOf e s) (hostOf e s) (settleColls (modCart x.target (fun c => { c with st := .releasing, why := 0, relTok := some t, relEvac := false }) n))))) ∧
  (∀ (clk : Clock) (k : Nat) (n m : Node), (getCart n k).st = .releasing → (getCart n k).relEvac = false →
    (n.flash.progs.any (fun g => g.2.cart == k) = true ∨ n.flash.stage.any (fun x => slotOfBlk n x.obj x.blk == some k) = true → finishRelease clk k n = n) ∧
    (n.flash.progs.any (fun g => g.2.cart == k) = false → n.flash.stage.any (fun x => slotOfBlk n x.obj x.blk == some k) = false →
      parkSanits clk k (flushJournal k (foldNode (n.flash.cache.filter (fun m => m.cart == k && m.dirty.isSome)) (fun m n => writePage k m.page n) n)) = m →
      finishRelease clk k n = postO clk (getCart n k).relTok stSuccess 0 (settleKept clk (settleColls
        (modCart k (fun c => { c with st := .released, why := 0, power := false, safe := true, dirSeq := c.dirSeq + 1, relTok := none, relEvac := false }) (writeLife clk k (modCart k (fun c => { c with life := { c.life with openFlag := false } })
          (modFls (fun f => { f with cache := f.cache.filter (fun m => m.cart != k), reads := f.reads.filter (fun g => g.1 != k) }) m))))))) ) ∧
  (∀ (e : Env) (q : QRef) (s : State) (t : Tok) (x : Sqe) (n : Node), Taken Rows.cartAdopt anyEntry noChk noPtn q e s t x n → x.target < 4 → ((getCart n x.target).st = .foreign ∨ (getCart n x.target).st = .released) → x.flag 1 = false →
    ((getCart n x.target).ident = none → exec (.cartAdopt e q) s = .next (endsWith e s (retryAll (clkOf e s) (hostOf e s) (post (clkOf e s) t stSuccess 0 (activate (clkOf e s) x.target n))))) ∧
    (∀ id, (getCart n x.target).ident = some id → id.objs.any (fun o => mhas n.flash.objs o.1) = false →
      exec (.cartAdopt e q) s = .next (endsWith e s (retryAll (clkOf e s) (hostOf e s) (post (clkOf e s) t stSuccess 0 (activate (clkOf e s) x.target (mountCart (clkOf e s) x.target id n)))))))

/-- The node while flash command `t` tries to go on, no other waiting before it. -/
def waiting (t : Tok) (n : Node) : Node := modFls (fun f => { f with waits := f.waits ++ [t] }) n
/-- The command is no longer waiting. -/
def started (t : Tok) (n : Node) : Node := modFls (fun f => { f with waits := f.waits.filter (· != t) }) n
/-- R212 to R216, R221, R225, R226: `FLASH_ALLOC` makes an object on the cartridges it names, at the lowest room of each; `FLASH_FREE` unmaps and removes it; `FLASH_WRITE` stages its sectors where the stage has room; `FLASH_READ` answers the newest data once the map pages are cached, and starts their reads otherwise; `DISCARD` unmaps and
completes; `SECURE_DISCARD` unmaps, finds every copy and seals and erases its sets. -/
def Obligations.FlashCommandsComplete : Prop :=
  (∀ (e : Env) (q : QRef) (s : State) (t : Tok) (x : Sqe) (n : Node) (slots serials : List Nat) (o : FObj), Taken Rows.flashAlloc anyEntry noChk fnPtn q e s t x n → (if x.arg2 = 0 then activeSlots n else (List.range 4).filter (fun s => x.arg2.testBit s)) = slots →
    0 < x.arg0 → x.arg0 < 0x80000000 → fobj n x.arg0 = none → (∀ k ∈ slots, (getCart n k).st = .active) → slots ≠ [] → slots.map (fun k => (getCart n k).serial) = serials →
    o = { ptn := ((getFn n t.fn).map).getD 0, blocks := x.arg1, carts := serials, dense := x.flag 1 } → (∀ c ∈ serials.zipIdx, reservedOn n c.1 + objShare o c.2 ≤ cartBlocks) → 4096 * x.arg1 ≤ freeFlash n →
    exec (.flashAlloc e q) s = .next (endsWith e s (post (clkOf e s) t stSuccess 0 (writeDir (modFls (fun f => { f with objs := mset f.objs x.arg0 { o with base := serials.mapIdx (fun j c => baseFor n c (objShare o j)) } }) n))))) ∧
  (∀ (e : Env) (q : QRef) (s : State) (t : Tok) (x : Sqe) (n : Node), Taken Rows.flashFree anyEntry flashFreeChk fnPtn q e s t x n →
    (x.flag 1 = false → exec (.flashFree e q) s = .next (endsWith e s (post (clkOf e s) t stSuccess 0 (writeDir (modFls (fun f => { f with objs := mdel f.objs x.arg0 }) (unmap (clkOf e s) x.arg0 0 (2 ^ 64) n)))))) ∧
    (x.flag 1 = true → exec (.flashFree e q) s = .next (endsWith e s (startSanit (clkOf e s) { tok := some t, sets := setsHolding n x.arg0 0 (2 ^ 64), free := [x.arg0] }
      (sealSets (setsHolding n x.arg0 0 (2 ^ 64)) (unmap (clkOf e s) x.arg0 0 (2 ^ 64) n)))))) ∧
  (∀ (e : Env) (q : QRef) (s : State) (t : Tok) (x : Sqe) (n : Node), Taken Rows.flashWrite anyEntry (flashChk true) noPtn q e s t x n → objWhole n x.arg0 = true →
    (objWritable n x.arg0 = false → exec (.flashWrite e q) s = .next (endsWith e s (post (clkOf e s) t stCartRO 0 n))) ∧
    (objWritable n x.arg0 = true → n.flash.waits = [] → stageFill n + (blksOf x).length ≤ stageSize →
      exec (.flashWrite e q) s = .next (endsWith e s (started t (stageWrite (clkOf e s) (hostOf e s) t x (waiting t n)))))) ∧
  (∀ (e : Env) (q : QRef) (s : State) (t : Tok) (x : Sqe) (n m : Node) (bs : List Byte) (lost : Bool), Taken Rows.flashRead anyEntry (flashChk true) noPtn q e s t x n →
    (missing n x = [] → rangeHeld n x = false → readRange x (foldNode ((blksOf x).filterMap (pageOfBlk n x.arg0)).eraseDups usePage (waiting t n)) = (m, bs, lost) →
      exec (.flashRead e q) s = .next (endsWith e s (started t (post (clkOf e s) t (if lost then stDataLost else stSuccess) 0 (emit (.data x.addr0 bs) (prefetch x m)))))) ∧
    (missing n x ≠ [] → exec (.flashRead e q) s = .next (endsWith e s (startReads (missing n x) (waiting t n))))) ∧
  (∀ (e : Env) (q : QRef) (s : State) (t : Tok) (x : Sqe) (n m : Node), Taken Rows.discard anyEntry (flashChk false) noPtn q e s t x n → x.durable = false → markCmd t false true (unmap (clkOf e s) x.arg0 (blkLo x) (blkHi x) n) = m → missing m x = [] →
    exec (.discard e q) s = .next (endsWith e s (retryAll (clkOf e s) (hostOf e s) (started t (post (clkOf e s) t stSuccess 0 (waiting t m)))))) ∧
  (∀ (e : Env) (q : QRef) (s : State) (t : Tok) (x : Sqe) (n : Node) (l : List (Nat × Nat)), Taken Rows.secureDiscard anyEntry (flashChk false) noPtn q e s t x n → setsHolding n x.arg0 (blkLo x) (blkHi x) = l →
    exec (.secureDiscard e q) s = .next (endsWith e s (startSanit (clkOf e s) { tok := some t, sets := l } (sealSets l (markCmd t false true (unmap (clkOf e s) x.arg0 (blkLo x) (blkHi x) n))))))

/-- R214 to R217, R219, R222: a map page that has been read joins the cache and lets commands go on; a dirty one is programmed; a staged sector whose page is cached is programmed into a set that takes it, and waits where the set's die is short of free sets; a program that is done ends; one that failed goes to
another set, and its set is emptied and its block retired. -/
def Obligations.ProgramsRun : Prop :=
  (∀ (e : Env) (k g : Nat) (s : State), alive (nodeOf e s) = true → (nodeOf e s).flash.reads.contains (k, g) = true →
    exec (.mapPageRead e k g) s = .next (endsWith e s (retryAll (clkOf e s) (hostOf e s) (loadPage (k, g) (modFls (fun f => { f with reads := f.reads.filter (· != (k, g)) }) (nodeOf e s)))))) ∧
  (∀ (e : Env) (k g : Nat) (s : State), alive (nodeOf e s) = true → (∃ m ∈ (nodeOf e s).flash.cache, m.cart = k ∧ m.page = g ∧ m.dirty.isSome = true) → (getCart (nodeOf e s) k).serves = true →
    exec (.mapPageWriteback e k g) s = .next (endsWith e s (modCart k (fun c => { c with journal := c.journal.filter (fun j => j.1 / 512 != g), jpend := c.jpend.filter (fun j => j.1 / 512 != g) })
      (countC k 1 1 (modFls (fun f => { f with cache := modAll (fun m => m.cart == k && m.page == g) (fun m => { m with dirty := none }) f.cache }) (nodeOf e s)))))) ∧
  (∀ (e : Env) (o b set : Nat) (s : State) (x : Staged) (k : Nat) (ob : Bool), alive (nodeOf e s) = true → (nodeOf e s).flash.stage.find? (fun x => x.obj == o && x.blk == b) = some x → slotOfBlk (nodeOf e s) o b = some k →
    (∀ g, pageOfBlk (nodeOf e s) o b = some g → pageIn (nodeOf e s) g = true) → toOnebit (nodeOf e s) x = ob →
    (o < 0x80000000 → set < setCount → freeOnDie (getCart (nodeOf e s) k) (dieOf set) < 2 →
      exec (.writeStageFlush e o b set) s = .next (endsWith e s (modFls (fun f => { f with stage := modAll (fun y => y.ver == x.ver) (fun y => { y with die := some (dieOf set) }) f.stage }) (nodeOf e s)))) ∧
    (∀ (pos : Nat) (m : Node), setTakes (getCart (nodeOf e s) k) set ob (decide (o < 0x80000000)) = true → (ob = true → onebitFill (nodeOf e s) k < onebitLimit (nodeOf e s)) →
      takeSector (clkOf e s) k set ob (modFls (fun f => { f with stage := f.stage.filter (fun y => y.ver != x.ver) }) (nodeOf e s)) = (pos, m) →
      exec (.writeStageFlush e o b set) s = .next (endsWith e s (startProg { cart := k, set_ := set, pos := pos, onebit := ob, obj := o, blk := b, data := x.data, ver := x.ver, toks := x.toks } m)))) ∧
  (∀ (e : Env) (i : Nat) (s : State) (g : Prog), alive (nodeOf e s) = true → mget (nodeOf e s).flash.progs i = some g →
    exec (.programDone e i) s = .next (endsWith e s (retryAll (clkOf e s) (hostOf e s) (settleKept (clkOf e s) (endProg (clkOf e s) i g (nodeOf e s)))))) ∧
  (∀ (e : Env) (i set plane : Nat) (s : State) (g : Prog) (ps : List (Nat × Prog)) (m z : Node) (goes : Bool), alive (nodeOf e s) = true → mget (nodeOf e s).flash.progs i = some g → g.set_ ≠ set → plane < 4 → setTakes (getCart (nodeOf e s) g.cart) set g.onebit false = true →
    progsOf (nodeOf e s) g.cart g.set_ = ps → ps.length ≤ setRoom (getSet (getCart (nodeOf e s) g.cart) set) g.onebit →
    foldNode ps (fun h n => modFls (fun f => { f with progs := mmod f.progs h.1 (fun y => { y with set_ := set, pos := (takeSector (clkOf e s) g.cart set g.onebit n).1 }) }) (takeSector (clkOf e s) g.cart set g.onebit n).2)
      (dropDead (clkOf e s) g.cart g.set_ (nodeOf e s)) = m →
    retireBlock (clkOf e s) g.cart g.set_ plane (relocate (clkOf e s) g.cart g.set_ (modSet g.cart g.set_ (fun b => { b with phase := 5 }) m)) = (z, goes) →
    exec (.programFailure e ⟨i, plane⟩ set) s = .next (endsWith e s (retryAll (clkOf e s) (hostOf e s) (modSet g.cart g.set_ (fun b => { b with phase := if goes then 4 else 3 })
      (modFls (fun f => { f with copies := modAll (fun c => c.cart == g.cart && c.set_ == g.set_ && planeOf c.pos == plane) (fun c => { c with set_ := retiredSet (getCart (relocate (clkOf e s) g.cart g.set_ (modSet g.cart g.set_ (fun b => { b with phase := 5 }) m)) g.cart) }) f.copies }) z)))))

/-- R217 to R220, R222, R223, R226: Fold starts copies of the oldest unfolded sectors into a dense set; once that is programmed its copies take over and its sources may be erased; the Wringer empties the best victim of a die that is short of free sets into a free set; an erased set returns to the free list and a failed erase retires a block,
each settling the sanitisations that wait for it. -/
def Obligations.FoldAndWringerRun : Prop :=
  (∀ (e : Env) (k set : Nat) (s : State), alive (nodeOf e s) = true → (getCart (nodeOf e s) k).st = .active → setTakes (getCart (nodeOf e s) k) set false false = true →
    exec (.fold e k set) s = .next (endsWith e s (startCopies (clkOf e s) k set .fold ((foldNext (nodeOf e s) k).take (setRoom (getSet (getCart (nodeOf e s) k) set) false)) (nodeOf e s)))) ∧
  (∀ (clk : Clock) (k set pos : Nat) (why : ProgWhy) (c : Copy) (cs : List Copy) (n n1 n2 : Node) (d : List Byte) (lost : Bool), startCopies clk k set why [] n = n ∧
    (readCopy c n = (n1, d, lost) → takeSector clk k set false n1 = (pos, n2) →
      startCopies clk k set why (c :: cs) n = startCopies clk k set why cs (startProg { cart := k, set_ := set, pos := pos, onebit := false, obj := c.obj, blk := c.blk, data := c.data, ver := c.ver, ecc := if lost then 9 else 0, why := why } n2))) ∧
  (∀ (e : Env) (k set : Nat) (s : State) (b : BSet) (m : Node), alive (nodeOf e s) = true → getSet (getCart (nodeOf e s) k) set = b → (b.phase = 1 ∨ b.phase = 2) → b.qlc = true → progsInto (nodeOf e s) k set = false →
    modSet k set (fun b => { b with phase := 2, at_ := if b.phase = 1 then (clkOf e s).node else b.at_ }) (nodeOf e s) = m → m.flash.copies.filter (fun c => c.cart == k && c.set_ == set && !c.mapped && m.flash.copies.any (fun x => x.obj == c.obj && x.blk == c.blk && x.ver == c.ver && x.mapped && x.onebit)) = [] →
    exec (.foldRemap e k set) s = .next (endsWith e s m)) ∧
  (∀ (e : Env) (k set : Nat) (s : State) (b : BSet) (m m2 : Node) (c x : Copy), alive (nodeOf e s) = true → getSet (getCart (nodeOf e s) k) set = b → (b.phase = 1 ∨ b.phase = 2) → b.qlc = true → progsInto (nodeOf e s) k set = false →
    modSet k set (fun b => { b with phase := 2, at_ := if b.phase = 1 then (clkOf e s).node else b.at_ }) (nodeOf e s) = m →
    m.flash.copies.filter (fun c => c.cart == k && c.set_ == set && !c.mapped && m.flash.copies.any (fun x => x.obj == c.obj && x.blk == c.blk && x.ver == c.ver && x.mapped && x.onebit)) = [c] →
    m.flash.copies.filter (fun y => y.obj == c.obj && y.blk == c.blk && y.ver == c.ver && y.mapped && y.onebit) = [x] →
    modFls (fun f => { f with copies := f.copies.map (fun y => if y.obj == c.obj && y.blk == c.blk && y.ver == c.ver && y.mapped && y.onebit then { y with mapped := false } else if y == c then { y with mapped := true } else y) }) m = m2 →
    exec (.foldRemap e k set) s = .next (endsWith e s (countC k 2 1 (emptied x.cart x.set_ (dirtyPage (clkOf e s) c.obj c.blk (noteMap k c.obj c.blk (mapEntry (getCart m2 k) c) m2)))))) ∧
  (∀ (e : Env) (k d set v : Nat) (s : State) (vs : List Copy), alive (nodeOf e s) = true → (getCart (nodeOf e s) k).st = .active → draining (nodeOf e s) k d = none → freeOnDie (getCart (nodeOf e s) k) d < freeLow (nodeOf e s) →
    victim (clkOf e s).node (nodeOf e s) k d = some v →
    (validIn (nodeOf e s) k v).filter (fun c => !(nodeOf e s).flash.progs.any (fun g => g.2.obj == c.obj && g.2.blk == c.blk && g.2.ver == c.ver && g.2.why == .wring)) = vs →
    (vs = [] → exec (.wringer e k d set) s = .next (endsWith e s (emptied k v (modSet k v (fun b => { b with phase := 5 }) (nodeOf e s))))) ∧
    (vs ≠ [] → set ≠ v → setTakes (getCart (nodeOf e s) k) set false false = true → (getSet (getCart (nodeOf e s) k) set).phase = 0 →
      exec (.wringer e k d set) s = .next (endsWith e s (startCopies (clkOf e s) k set .wring vs (modSet k v (fun b => { b with phase := 5 }) (nodeOf e s)))))) ∧
  (∀ (e : Env) (k set : Nat) (s : State), alive (nodeOf e s) = true → eraseOpen (nodeOf e s) k set = true → outOfService (nodeOf e s) k set = true →
    exec (.eraseDone e k set) s = .next (endsWith e s (retryAll (clkOf e s) (hostOf e s) (sanitSet (clkOf e s) k set false (dropSectors k set none (nodeOf e s)))))) ∧
  (∀ (e : Env) (k set : Nat) (s : State) (m : Node), alive (nodeOf e s) = true → eraseOpen (nodeOf e s) k set = true → outOfService (nodeOf e s) k set = false →
    sanitSet (clkOf e s) k set false (wipeSet (clkOf e s) k set false none (relocate (clkOf e s) k set (nodeOf e s))) = m →
    ((getSet (getCart (nodeOf e s) k) set).qlc = false ∨ (getSet (getCart (nodeOf e s) k) set).phase ≠ 4 ∨ 2 * freeLow m ≤ freeOnDie (getCart m k) (dieOf set) →
      exec (.eraseDone e k set) s = .next (endsWith e s (retryAll (clkOf e s) (hostOf e s) m))) ∧
    (∀ v, (getSet (getCart (nodeOf e s) k) set).qlc = true → (getSet (getCart (nodeOf e s) k) set).phase = 4 → (getCart m k).st = .active → freeOnDie (getCart m k) (dieOf set) < 2 * freeLow m → draining m k (dieOf set) = none →
      victim (clkOf e s).node m k (dieOf set) = some v → exec (.eraseDone e k set) s = .next (endsWith e s (retryAll (clkOf e s) (hostOf e s) (emptied k v (modSet k v (fun b => { b with phase := 5 }) m)))))) ∧
  (∀ (e : Env) (k set pl : Nat) (ok goes : Bool) (s : State) (m : Node), alive (nodeOf e s) = true → eraseOpen (nodeOf e s) k set = true → pl < 4 → outOfService (nodeOf e s) k set = false → retireBlock (clkOf e s) k set pl (relocate (clkOf e s) k set (nodeOf e s)) = (m, goes) →
    exec (.eraseFailure e k ⟨set, pl⟩ ok) s = .next (endsWith e s (retryAll (clkOf e s) (hostOf e s) (sanitSet (clkOf e s) k set (!ok) (wipeSet (clkOf e s) k set (!goes)
      (if inSanit (nodeOf e s) k set && ok then none else some (pl, retiredSet (getCart (relocate (clkOf e s) k set (nodeOf e s)) k))) m))))) ∧
  (∀ (e : Env) (k set pl : Nat) (ok : Bool) (s : State), alive (nodeOf e s) = true → eraseOpen (nodeOf e s) k set = true → pl < 4 → outOfService (nodeOf e s) k set = true →
    exec (.eraseFailure e k ⟨set, pl⟩ ok) s = .next (endsWith e s (retryAll (clkOf e s) (hostOf e s) (sanitSet (clkOf e s) k set (!ok)
      (if inSanit (nodeOf e s) k set && ok then dropSectors k set none (nodeOf e s) else nodeOf e s)))))

/-! ### Ownership and durability (chapter 13) -/

/-- An ownership command names object `num` of kind `k` of partition `p`, whose ownership is `o`. -/
def ownIs (n : Node) (t : Tok) (x : Sqe) (p : Nat) (k : ObjKind) (num : Nat) (o : Own) : Prop :=
  ownPtn n t.fn x = some p ∧ kindOf (x.arg0 % 2) = k ∧ findId n p k (BitVec.ofNat 64 x.arg1) = some num ∧ getOwn n p k num = some o
/-- R38, R306 to R313, Tables 13-14 and 13-16: a release of an owned object starts, and a claim of a released one; each waits where a live load is in progress on one of its partitions; a memory object goes from partition to partition of the node; a forced claim makes this partition the owner at a greater epoch, and a
resolution names the owner, unfreezes the object and settles what waited; a claim that waits too long goes back, as does a release that nobody claims. -/
def Obligations.OwnershipCommandsComplete : Prop :=
  (∀ (e : Env) (q : QRef) (s : State) (t : Tok) (x : Sqe) (n : Node),
    (Taken Rows.ownershipRelease anyEntry noChk ownPtn q e s t x n → xferWaits n t.fn x = true → exec (.ownershipRelease e q) s = .next (endsWith e s (modBoot (fun b => { b with after := b.after ++ [(t, x)] }) n))) ∧
    (Taken Rows.ownershipClaim anyEntry noChk ownPtn q e s t x n → xferWaits n t.fn x = true → exec (.ownershipClaim e q) s = .next (endsWith e s (modBoot (fun b => { b with after := b.after ++ [(t, x)] }) n))) ∧
    (∀ p m, ownPtn n t.fn x = some p → findId n p (kindOf (x.arg0 % 2)) (BitVec.ofNat 64 x.arg1) = none → xferWaits n t.fn x = false →
      (Taken Rows.ownershipRelease anyEntry noChk ownPtn q e s t x n → memRelease (clkOf e s) t x p n = some m → exec (.ownershipRelease e q) s = .next (endsWith e s m)) ∧
      (Taken Rows.ownershipClaim anyEntry noChk ownPtn q e s t x n → memClaim (clkOf e s) t x p n = some m → exec (.ownershipClaim e q) s = .next (endsWith e s m)))) ∧
  (∀ (e : Env) (q : QRef) (s : State) (t : Tok) (x : Sqe) (n : Node) (p num : Nat) (k : ObjKind) (o : Own), Taken Rows.ownershipRelease anyEntry noChk ownPtn q e s t x n → ownIs n t x p k num o → xferWaits n t.fn x = false → o.st = .owned → argOwner x.arg2 ≠ 0 → isMe n p (argOwner x.arg2) (argOwnerP x.arg2) = false →
    exec (.ownershipRelease e q) s = .next (endsWith e s (tryRelease (clkOf e s) p k num ((if k = .table then abandonMigs p num else thaw p num) (modOwn p k num (fun o => { o with
      st := .releasing, xfer := some { tok := t, peer := argOwner x.arg2, peerP := argOwnerP x.arg2, epoch := o.epoch, at_ := pctr (clkOf e s) p, inNode := argOwner x.arg2 == n.lnk.nodeId } }) n))))) ∧
  (∀ (e : Env) (q : QRef) (s : State) (t : Tok) (x : Sqe) (n : Node) (p num : Nat) (k : ObjKind) (o : Own), Taken Rows.ownershipClaim anyEntry noChk ownPtn q e s t x n → ownIs n t x p k num o → xferWaits n t.fn x = false → x.flag 1 = false → o.st = .released →
    exec (.ownershipClaim e q) s = .next (endsWith e s (tryClaim (clkOf e s) p k num (modOwn p k num (fun o => { o with
      st := .claiming, xfer := some { tok := t, peer := argOwner x.arg2, peerP := argOwnerP x.arg2, epoch := x.arg3, at_ := pctr (clkOf e s) p, inNode := argOwner x.arg2 == n.lnk.nodeId } }) n)))) ∧
  (∀ (e : Env) (q : QRef) (s : State) (t : Tok) (x : Sqe) (n m0 m : Node) (p num : Nat) (k : ObjKind) (o : Own), Taken Rows.ownershipClaim anyEntry noChk ownPtn q e s t x n → ownIs n t x p k num o → xferWaits n t.fn x = false → x.flag 1 = true → o.st ≠ .frozen → o.seen < x.arg3 →
    (o.xfer = none → m0 = n) → (∀ y, o.xfer = some y → m0 = post (clkOf e s) y.tok stBusy o.epoch n) →
    letGo (clkOf e s) p k num ((o.xfer.map (·.at_)).getD (pctr (clkOf e s) p)) (modOwn p k num (fun o => { o with owner := m0.lnk.nodeId, ownerP := p, epoch := x.arg3, seen := x.arg3, st := .owned, xfer := none, rel := none }) m0) = m →
    (argOwner x.arg2 = m.lnk.nodeId → exec (.ownershipClaim e q) s = .next (endsWith e s (post (clkOf e s) t stSuccess x.arg3 m))) ∧
    (argOwner x.arg2 ≠ m.lnk.nodeId → exec (.ownershipClaim e q) s = .next (endsWith e s (post (clkOf e s) t stSuccess x.arg3 (sendOwn (clkOf e s) mkOwnState p k num (argOwner x.arg2) (argOwnerP x.arg2) Holder.owned.code m))))) ∧
  (∀ (e : Env) (q : QRef) (s : State) (t : Tok) (x : Sqe) (n m0 m m2 m3 : Node) (p num : Nat) (k : ObjKind) (o : Own) (me : Bool), Taken Rows.ownershipResolve anyEntry noChk ownPtn q e s t x n → ownIs n t x p k num o → o.seen < x.arg3 → isMe n p (argOwner x.arg2) (argOwnerP x.arg2) = me →
    (o.xfer = none → m0 = n) → (∀ y, o.xfer = some y → m0 = post (clkOf e s) y.tok stBusy o.epoch n) →
    modDur p k num (fun d => { d with follow := true }) (modOwn p k num (fun o => { o with
      owner := argOwner x.arg2, ownerP := argOwnerP x.arg2, epoch := x.arg3, seen := x.arg3, st := if me then .owned else .released, xfer := none, rel := none }) m0) = m →
    (k = .coll → m2 = settleColls (modC p num (fun c => { c with st := if c.st == .frozen then (if c.cur.isSome then .serving else .created) else c.st }) m)) →
    (k = .table → m2 = modT p num (fun y => { y with st := if y.st == .frozen then .ready else y.st }) m) →
    (me = true → m3 = letGo (clkOf e s) p k num ((o.xfer.map (·.at_)).getD (pctr (clkOf e s) p)) m2) →
    (me = false → m3 = endUpds (clkOf e s) p k num stBusy ((argOwner x.arg2).toNat + 2 ^ 32 * argOwnerP x.arg2) true m2) →
    ((me = true ∨ argOwner x.arg2 = m3.lnk.nodeId) → exec (.ownershipResolve e q) s = .next (endsWith e s (post (clkOf e s) t stSuccess x.arg3 m3))) ∧
    (me = false → argOwner x.arg2 ≠ m3.lnk.nodeId →
      exec (.ownershipResolve e q) s = .next (endsWith e s (post (clkOf e s) t stSuccess x.arg3 (sendOwn (clkOf e s) mkOwnState p k num (argOwner x.arg2) (argOwnerP x.arg2) Holder.released.code m3))))) ∧
  (∀ (e : Env) (p num : Nat) (k : ObjKind) (s : State) (o : Own) (x : Xfer) (m : Node), alive (nodeOf e s) = true → getOwn (nodeOf e s) p k num = some o → o.st = .claiming → o.xfer = some x → x.at_ + claimCycles (getP (nodeOf e s) p) ≤ pctr (clkOf e s) p →
    modOwn p k num (fun o => { o with st := .released, owner := x.peer, ownerP := x.peerP, xfer := none, rel := none }) (nodeOf e s) = m →
    (x.inNode = true → exec (.claimTimeout e p k num) s = .next (endsWith e s (settleXfers (clkOf e s) p (post (clkOf e s) x.tok stBusy o.epoch m)))) ∧
    (x.inNode = false → exec (.claimTimeout e p k num) s = .next (endsWith e s (settleXfers (clkOf e s) p (post (clkOf e s) x.tok stBusy o.epoch
      (sendOwn (clkOf e s) mkOwnState p k num x.peer x.peerP (if o.rel.any (relMeets x) then ownDeclined else Holder.released.code) m)))))) ∧
  (∀ (e : Env) (p num : Nat) (k : ObjKind) (s : State) (o : Own) (r : RelSeen) (m : Node), alive (nodeOf e s) = true → getOwn (nodeOf e s) p k num = some o → o.st = .released → o.rel = some r → r.at_ + claimCycles (getP (nodeOf e s) p) ≤ pctr (clkOf e s) p →
    modOwn p k num (fun o => { o with owner := r.from_, ownerP := r.fromP, rel := none }) (nodeOf e s) = m →
    (r.from_ = m.lnk.nodeId → exec (.claimTimeout e p k num) s = .next (endsWith e s (settleXfers (clkOf e s) p m))) ∧
    (r.from_ ≠ m.lnk.nodeId → exec (.claimTimeout e p k num) s = .next (endsWith e s (settleXfers (clkOf e s) p (sendOwn (clkOf e s) mkOwnState p k num r.from_ r.fromP Holder.released.code m)))))
/-- R309 to R311, Table 13-16: every ownership message is acknowledged. A release that names this holder of a released copy waits for its claim; a claim that reaches an owner, or the state of another that owns too, freezes the object and answers so; a frozen object answers that it is frozen. -/
def Obligations.OwnershipMessagesAreAnswered : Prop :=
  ∀ (e : Env) (l : Nat) (m : Msg) (s : State) (n z : Node) (num ep : Nat) (k : ObjKind) (o : Own), ackBack (clkOf e s) m n = z → kindOf (leAt m.body 0 1) = k → findId z m.dstPtn k (BitVec.ofNat 64 (leAt m.body 8 8)) = some num → getOwn z m.dstPtn k num = some o → leAt m.body 0x10 8 = ep →
    (Delivered mkOwnRelease l m e s n → o.st = .released → isMe z m.dstPtn (BitVec.ofNat 32 (leAt m.body 0x18 4)) (leAt m.body 0x1C 1 % 8) = true → leAt m.body 1 1 = Holder.released.code → o.epoch < ep →
      exec (.ownRelease e l m) s = .next (endsWith e s (settleXfers (clkOf e s) m.dstPtn (tryClaim (clkOf e s) m.dstPtn k num (modOwn m.dstPtn k num (fun o => { o with seen := max o.seen ep })
        (modOwn m.dstPtn k num (fun o => { o with rel := some { from_ := m.src, fromP := m.srcPtn, epoch := ep, lastSeq := leAt m.body 0x20 8, at_ := pctr (clkOf e s) m.dstPtn } })
          (modOwn m.dstPtn k num (fun o => { o with owner := BitVec.ofNat 32 (leAt m.body 0x18 4), ownerP := leAt m.body 0x1C 1 % 8, epoch := ep }) z))))))) ∧
    (Delivered mkOwnClaim l m e s n → o.st = .owned →
      exec (.ownClaim e l m) s = .next (endsWith e s (settleXfers (clkOf e s) m.dstPtn (sendOwn (clkOf e s) mkOwnState m.dstPtn k num m.src m.srcPtn Holder.frozen.code
        (freezeObj (clkOf e s) m.dstPtn k num m.src m.srcPtn (modOwn m.dstPtn k num (fun o => { o with seen := max o.seen ep }) z)))))) ∧
    (Delivered mkOwnState l m e s n → o.st = .owned → leAt m.body 1 1 = Holder.owned.code →
      exec (.ownState e l m) s = .next (endsWith e s (settleXfers (clkOf e s) m.dstPtn (sendOwn (clkOf e s) mkOwnState m.dstPtn k num m.src m.srcPtn Holder.frozen.code
        (freezeObj (clkOf e s) m.dstPtn k num m.src m.srcPtn (modOwn m.dstPtn k num (fun o => { o with seen := max o.seen ep }) z)))))) ∧
    (Delivered mkOwnState l m e s n → o.st = .frozen →
      exec (.ownState e l m) s = .next (endsWith e s (settleXfers (clkOf e s) m.dstPtn (sendOwn (clkOf e s) mkOwnState m.dstPtn k num m.src m.srcPtn Holder.frozen.code (modOwn m.dstPtn k num (fun o => { o with seen := max o.seen ep }) z)))))

/-- R314 to R319: at the end of an epoch its records go out, the next epoch begins with the length set now, holds of tables begin and snapshots that are due or asked for start; 1 ms after a record it goes to the buddy; a record that has waited too long puts its collection on hold, which is recorded and raises attention; a message that mirrors another node is kept,
staged for flash, followed where this node follows, and acknowledged at once unless it is durable. -/
def Obligations.RecordsAreMirrored : Prop :=
  (∀ (e : Env) (p : Nat) (s : State) (x : Ptn) (m : Node), alive (nodeOf e s) = true → getP (nodeOf e s) p = x → x.epochAt + x.epochLen ≤ pctr (clkOf e s) p → x.pow = .on →
    foldNode x.tbls (fun t n => beginHold (clkOf e s) p .table t.1 n) (modP p (fun y => { y with epoch := x.epoch + 1, epochAt := y.epochAt + y.epochLen, epochLen := 300000 * fld y.durCfg 32 16 })
      (foldNode (objsOf x) (fun o n => mirrorSend (clkOf e s) p o.1 o.2 true n) (nodeOf e s))) = m →
    (x.st = .inService → exec (.epochBoundary e p) s = .next (endsWith e s (foldNode (objsOf x) (fun o n => match getDur n p o.1 o.2 with
      | none => n
      | some d => if d.snap.isSome || !((mirrorOn x && decide (0 < fld x.durCfg 48 16) && (x.epoch + 1) % fld x.durCfg 48 16 == 0) || d.wantSnap.isSome) then n else startSnap (clkOf e s) p o.1 o.2 x.epoch (d.wantSnap.getD none) n) m))) ∧
    (x.st = .resetting → exec (.epochBoundary e p) s = .next (endsWith e s m))) ∧
  (∀ (e : Env) (p c : Nat) (s : State) (d : Dur) (u : Unack) (us : List Unack), alive (nodeOf e s) = true → getDur (nodeOf e s) p .coll c = some d → d.unsent = u :: us → u.at_ + 300000 ≤ pctr (clkOf e s) p →
    exec (.mirrorSendTimer e p c) s = .next (endsWith e s (mirrorSend (clkOf e s) p .coll c false (nodeOf e s)))) ∧
  (∀ (e : Env) (p c : Nat) (s : State) (d : Dur), alive (nodeOf e s) = true → getDur (nodeOf e s) p .coll c = some d → d.held = false → holdDue (clkOf e s) (nodeOf e s) p .coll c = true →
    exec (.durabilityHold e p c) s = .next (endsWith e s (raisePtn attnDurability p (durRecord (clkOf e s) p 2 (getP (nodeOf e s) p).epoch (modDur p .coll c (fun d => { d with held := true, heldAt := pctr (clkOf e s) p }) (nodeOf e s)))))) ∧
  (∀ (e : Env) (l : Nat) (m : Msg) (s : State) (n n1 z : Node) (k : ObjKind) (id : W64) (y : Kept), Delivered mkMirror l m e s n → stageFill n + cdiv m.body.length 4096 ≤ stageSize → n.flash.ackWhen.any (fun a => a.1.src == m.src && a.1.seq == m.seq) = false →
    kindOf (leAt m.body 8 1) = k → BitVec.ofNat 64 (leAt m.body 0 8) = id → leAt m.body 0x20 8 = 0 → needObj m.dstPtn keptObj n = n1 →
    { src := m.src, srcP := m.srcPtn, kind := k, objId := id, epoch := leAt m.body 0x10 8, total := 0, bytes := m.body, blk := keptAt n1 keptObj n1.flash.mirrors (cdiv m.body.length 4096) } = y →
    stageKept (clkOf e s) keptObj y ((leAt m.body 9 1).testBit 1) (modFls (fun f => { f with mirrors := f.mirrors ++ [y] }) n1) = z →
    ((leAt m.body 9 1).testBit 1 = false → findId (ackBack (clkOf e s) m z) m.dstPtn k id = none →
      exec (.mirrorWrite e l m) s = .next (endsWith e s (settleXfers (clkOf e s) m.dstPtn (ackBack (clkOf e s) m z)))) ∧
    ((leAt m.body 9 1).testBit 1 = true → findId z m.dstPtn k id = none →
      exec (.mirrorWrite e l m) s = .next (endsWith e s (settleXfers (clkOf e s) m.dstPtn (modFls (fun f => { f with ackWhen := f.ackWhen ++ [(m, keptObj, y.blk)] }) z)))) ∧
    (∀ num, (leAt m.body 9 1).testBit 1 = false → findId (ackBack (clkOf e s) m z) m.dstPtn k id = some num →
      exec (.mirrorWrite e l m) s = .next (endsWith e s (settleXfers (clkOf e s) m.dstPtn (followRecs (clkOf e s) m.dstPtn k num m (ackBack (clkOf e s) m z))))))

/-- R321 to R323: `SNAPSHOT_TAKE` waits for the end of the epoch; `RESTORE` asks every member for the first stripe; a chunk is kept while flash has room, in place of the same chunk of before, and acknowledged; a request for a stripe is answered with the chunks kept of it, one for records with the epoch of the source's snapshot and the bodies kept; an answer joins what
the restoration has, which then goes on. -/
def Obligations.SnapshotsAndRestorations : Prop :=
  (∀ (e : Env) (q : QRef) (s : State) (t : Tok) (x : Sqe) (n : Node) (p num : Nat) (k : ObjKind) (d : Dur), Taken Rows.snapshotTake (fun x => !isRestore x) takeChk snapPtn q e s t x n → snapRef n t.fn x = some (p, k, num) → getDur n p k num = some d →
    (d.snap = none → d.wantSnap = none → exec (.snapshotTake e q) s = .next (endsWith e s (modDur p k num (fun d => { d with wantSnap := some (some t) }) n))) ∧
    ((d.snap.isSome = true ∨ d.wantSnap.isSome = true) → exec (.snapshotTake e q) s = .next (endsWith e s (post (clkOf e s) t stBusy 0 n)))) ∧
  (∀ (e : Env) (q : QRef) (s : State) (t : Tok) (x : Sqe) (n m : Node) (p num : Nat) (k : ObjKind) (d : Dur) (r : Recover), Taken Rows.snapshotTake isRestore restoreChk snapPtn q e s t x n → snapRef n t.fn x = some (p, k, num) → getDur n p k num = some d → d.recover = none → d.snap = none →
    r = { tok := t, src := argOwner x.arg1, srcP := argOwnerP x.arg1, bud := argOwner x.arg2, budP := argOwnerP x.arg2 } →
    askStripe (clkOf e s) p k num 0 (if x.arg3 = 0 then none else some x.arg3) (modDur p k num (fun d => { d with recover := some r }) n) = m →
    ((((getDur m p k num).bind (·.recover)).map (fun r => r.heard.length)) ≠ some 10 → exec (.snapshotTakeRestore e q) s = .next (endsWith e s m)) ∧
    ((((getDur m p k num).bind (·.recover)).map (fun r => r.heard.length)) = some 10 → exec (.snapshotTakeRestore e q) s = .next (endsWith e s (endRecover (clkOf e s) p k num stGenStale 0 m)))) ∧
  (∀ (e : Env) (l : Nat) (m : Msg) (s : State) (n n1 : Node) (y : Kept), Delivered mkSnap l m e s n → 4096 * cdiv m.body.length 4096 ≤ freeFlash n → stageFill n + cdiv m.body.length 4096 ≤ stageSize → needObj m.dstPtn chunkObj n = n1 →
    n1.flash.chunks.filter (sameSource m.src m.srcPtn (kindOf (leAt m.body 8 1)) (BitVec.ofNat 64 (leAt m.body 0 8))) = [] →
    { src := m.src, srcP := m.srcPtn, kind := kindOf (leAt m.body 8 1), objId := BitVec.ofNat 64 (leAt m.body 0 8), epoch := leAt m.body 0x10 8, stripe := leAt m.body 0x20 4, chunk := leAt m.body 9 1, total := leAt m.body 0x24 4, bytes := m.body
      blk := keptAt n1 chunkObj n1.flash.chunks (cdiv m.body.length 4096) } = y →
    exec (.snapChunk e l m) s = .next (endsWith e s (ackBack (clkOf e s) m (stageKept (clkOf e s) chunkObj y false (modFls (fun f => { f with chunks := f.chunks ++ [y] }) n1))))) ∧
  (∀ (e : Env) (l : Nat) (m : Msg) (s : State) (n : Node) (mine : Kept → Bool), Delivered mkRecRead l m e s n →
    mine = (fun x => sameSource (BitVec.ofNat 32 (leAt m.body 0x0C 4)) (leAt m.body 0x10 1 % 8) (kindOf (leAt m.body 8 1)) (BitVec.ofNat 64 (leAt m.body 0 8)) x) →
    (leAt m.body 9 1 = 0 → exec (.recoverRead e l m) s = .next (endsWith e s (send (clkOf e s) (64 + m.dstPtn) m.src mkRecData m.level m.dstPtn m.srcPtn (m.body.take 40 ++
      ((n.flash.chunks.filter (fun x => mine x && x.stripe == leAt m.body 0x14 4 && (leAt m.body 0x18 8 == 0 || decide (x.epoch ≤ leAt m.body 0x18 8)))).map (·.bytes)).flatten) n))) ∧
    (leAt m.body 9 1 ≠ 0 → exec (.recoverRead e l m) s = .next (endsWith e s (send (clkOf e s) (64 + m.dstPtn) m.src mkRecData m.level m.dstPtn m.srcPtn (m.body.take 40 ++
      (toLe 8 (((n.flash.mirrors.filter mine).map (·.total)).foldl max 0) ++ (((n.flash.mirrors.filter mine).filter (fun x => decide (leAt m.body 0x18 8 ≤ x.epoch))).map (fun x => toLe 4 x.bytes.length ++ x.bytes)).flatten)) n)))) ∧
  (∀ (e : Env) (l : Nat) (m : Msg) (s : State) (n : Node) (num : Nat) (r r2 : Recover) (k : ObjKind) (id : W64), Delivered mkRecData l m e s n → kindOf (leAt m.body 8 1) = k → BitVec.ofNat 64 (leAt m.body 0 8) = id → findId n m.dstPtn k id = some num → (getDur n m.dstPtn k num).bind (·.recover) = some r →
    r.src.toNat = leAt m.body 0x0C 4 → r.srcP = leAt m.body 0x10 1 % 8 →
    (leAt m.body 9 1 = 0 → r.reading = none → leAt m.body 0x14 4 = r.stripe →
      r2 = { r with heard := nubNat (r.heard ++ (List.range 10).filter (fun i => memberOf (getP n m.dstPtn) i == (m.src, m.srcPtn))), chunks := r.chunks ++ chunksIn r.src r.srcP k id ((m.body.drop 40).length / chunkSize) (m.body.drop 40) } →
      exec (.recoverData e l m) s = .next (endsWith e s (stepRecover (clkOf e s) m.dstPtn k num r2 (modRec m.dstPtn k num (fun _ => r2) n)))) ∧
    (∀ ep bs z w, leAt m.body 9 1 ≠ 0 → r.reading = some ep → m.src = r.bud → m.srcPtn = r.budP → leAt (m.body.drop 40) 0 8 ≤ ep → decodeSnap r ep = some bs → loadSnap (clkOf e s) m.dstPtn k num bs n = some z →
      applyRecs (clkOf e s) m.dstPtn k num ((bodiesIn (m.body.drop 40).length ((m.body.drop 40).drop 8)).map (bodyRecs z m.dstPtn k num)).flatten z = (w, true) →
      exec (.recoverData e l m) s = .next (endsWith e s (endRecover (clkOf e s) m.dstPtn k num stSuccess 0 (modOwn m.dstPtn k num (fun o => { o with st := .released, owner := r.src, ownerP := r.srcP }) w)))))

/-! ### Encodings -/

/-- Table 12-5: the header and body of a message read back as the message, for every message whose fields fit their widths, whatever flits pad behind it. -/
def Obligations.MessagesReadBack : Prop :=
  ∀ (m : Msg) (pad : List Byte), m.kind < 2 ^ 8 → m.level < 2 ^ 8 → m.hops < 2 ^ 8 → m.srcPtn < 8 → m.dstPtn < 8 → m.segment < 2 ^ 24 → m.seq < 2 ^ 64 → m.body.length < 2 ^ 32 →
    msgOf (hdrBytes m ++ m.body ++ pad) = m
/-- R5, log 4: bytes written to the host's memory, and no others, read back. -/
def Obligations.HostMemoryReadsBack : Prop :=
  ∀ (m : Mem) (a k : Nat) (bs : List Byte), Mem.wf m = true →
    Mem.readN (Mem.writeN m a bs) a bs.length = bs ∧ ((k < a ∨ a + bs.length ≤ k) → Mem.read (Mem.writeN m a bs) k = Mem.read m k)
end

