-- ==== Sys2Proof/Laws/Parts.lean ====
section
/-! SUPPORT. Reading a part of the node after a part was changed: the functions, the partitions, the links and the slots of arrays. -/

namespace Sys2Proof.Machine

theorem vget_vmod {α : Type} [Inhabited α] {n : Nat} (v : Vector α n) (i j : Nat) (f : α → α) :
    vget (vmod v i f) j = if i = j ∧ j < n then f (vget v j) else vget v j := by
  unfold vget vmod
  by_cases h : i < n
  · simp only [h, dite_true, Vector.getElem?_set]
    by_cases hij : i = j
    · subst hij; simp [h]
    · simp [hij]
  · simp only [h, dite_false]
    by_cases hij : i = j
    · subst hij; simp [h]
    · simp [hij]
theorem vget_vmod_ne {α : Type} [Inhabited α] {n : Nat} (v : Vector α n) {i j : Nat} (f : α → α) (h : i ≠ j) : vget (vmod v i f) j = vget v j := by
  simp [vget_vmod, h]
theorem vget_vmod_self {α : Type} [Inhabited α] {n : Nat} (v : Vector α n) {i : Nat} (f : α → α) (h : i < n) : vget (vmod v i f) i = f (vget v i) := by
  simp [vget_vmod, h]
theorem getFn_modFn_self (n : Node) {f : Nat} (g : Fn → Fn) (h : f < 64) : getFn (modFn f g n) f = g (getFn n f) := vget_vmod_self _ _ h
theorem getFn_modFn_ne (n : Node) {f k : Nat} (g : Fn → Fn) (h : f ≠ k) : getFn (modFn f g n) k = getFn n k := vget_vmod_ne _ _ h
theorem getP_modP_self (n : Node) {p : Nat} (g : Ptn → Ptn) (h : p < 8) : getP (modP p g n) p = g (getP n p) := vget_vmod_self _ _ h
theorem getP_modP_ne (n : Node) {p k : Nat} (g : Ptn → Ptn) (h : p ≠ k) : getP (modP p g n) k = getP n k := vget_vmod_ne _ _ h
theorem getL_modL_self (n : Node) {l : Nat} (g : Link → Link) (h : l < 36) : getL (modL l g n) l = g (getL n l) := vget_vmod_self _ _ h
theorem getL_modL_ne (n : Node) {l k : Nat} (g : Link → Link) (h : l ≠ k) : getL (modL l g n) k = getL n k := vget_vmod_ne _ _ h
theorem getRail_modRail_self (n : Node) {r : Nat} (g : Rail → Rail) (h : r < 6) : getRail (modRail r g n) r = g (getRail n r) := vget_vmod_self _ _ h

/-- What every step of a fold keeps, the fold keeps. -/
theorem foldNode_inv {α β : Type} (f : Node → β) (l : List α) (g : α → Node → Node) (h : ∀ x n, f (g x n) = f n) (n : Node) : f (foldNode l g n) = f n := by
  unfold foldNode
  induction l generalizing n with
  | nil => rfl
  | cons x xs ih => rw [List.foldl_cons, ih, h]
/-- An event at every enabled function changes the functions only. -/
theorem raiseAll_frame (code : Nat) (n : Node) : raiseAll code n = { n with fns := (raiseAll code n).fns } := by
  unfold raiseAll
  have := foldNode_inv (β := Node) (fun m => { m with fns := n.fns }) ((List.range 64).filter (fun f => (getFn n f).enabled)) (raiseAt code) (fun x m => rfl) n
  generalize foldNode ((List.range 64).filter (fun f => (getFn n f).enabled)) (raiseAt code) n = m at *
  cases m; cases n; simp_all
/-- A change of the power block with its caps changes, beside that block, the functions' attentions only. -/
theorem withCaps_spec (clk : Clock) (g : Power → Power) (n : Node) :
    ∃ fns ce co, withCaps clk g n = { n with fns := fns, pwr := { g n.pwr with capEnd := ce, capOne := co } } := by
  unfold withCaps
  dsimp only
  split
  · split <;> split
    · rw [raiseAll_frame]; exact ⟨_, _, _, rfl⟩
    · exact ⟨_, _, _, rfl⟩
    · rw [raiseAll_frame]; exact ⟨_, _, _, rfl⟩
    · exact ⟨_, _, _, rfl⟩
  · split
    · exact ⟨_, _, _, rfl⟩
    · exact ⟨_, _, _, rfl⟩

end Sys2Proof.Machine
end

