-- ==== Sys2Proof/Laws/State.lean ====
section
/-! SUPPORT. What each update of the state leaves in each field: one lemma a field and an update, all by computation. -/

namespace Sys2Proof.Machine

/-! ### `modFn` -/

@[simp] theorem modFn_pins (f : Nat) (g : Fn → Fn) (n : Node) : (modFn f g n).pins = n.pins := rfl
@[simp] theorem modFn_boot (f : Nat) (g : Fn → Fn) (n : Node) : (modFn f g n).boot = n.boot := rfl
@[simp] theorem modFn_bflash (f : Nat) (g : Fn → Fn) (n : Node) : (modFn f g n).bflash = n.bflash := rfl
@[simp] theorem modFn_spdmI3c (f : Nat) (g : Fn → Fn) (n : Node) : (modFn f g n).spdmI3c = n.spdmI3c := rfl
@[simp] theorem modFn_spdmVdm (f : Nat) (g : Fn → Fn) (n : Node) : (modFn f g n).spdmVdm = n.spdmVdm := rfl
@[simp] theorem modFn_fns (f : Nat) (g : Fn → Fn) (n : Node) : (modFn f g n).fns = vmod n.fns f g := rfl
@[simp] theorem modFn_numVfs (f : Nat) (g : Fn → Fn) (n : Node) : (modFn f g n).numVfs = n.numVfs := rfl
@[simp] theorem modFn_totalVfs (f : Nat) (g : Fn → Fn) (n : Node) : (modFn f g n).totalVfs = n.totalVfs := rfl
@[simp] theorem modFn_aptr (f : Nat) (g : Fn → Fn) (n : Node) : (modFn f g n).aptr = n.aptr := rfl
@[simp] theorem modFn_alast (f : Nat) (g : Fn → Fn) (n : Node) : (modFn f g n).alast = n.alast := rfl
@[simp] theorem modFn_ptns (f : Nat) (g : Fn → Fn) (n : Node) : (modFn f g n).ptns = n.ptns := rfl
@[simp] theorem modFn_cores (f : Nat) (g : Fn → Fn) (n : Node) : (modFn f g n).cores = n.cores := rfl
@[simp] theorem modFn_reserve (f : Nat) (g : Fn → Fn) (n : Node) : (modFn f g n).reserve = n.reserve := rfl
@[simp] theorem modFn_bankLvl (f : Nat) (g : Fn → Fn) (n : Node) : (modFn f g n).bankLvl = n.bankLvl := rfl
@[simp] theorem modFn_mem (f : Nat) (g : Fn → Fn) (n : Node) : (modFn f g n).mem = n.mem := rfl
@[simp] theorem modFn_flash (f : Nat) (g : Fn → Fn) (n : Node) : (modFn f g n).flash = n.flash := rfl
@[simp] theorem modFn_lnk (f : Nat) (g : Fn → Fn) (n : Node) : (modFn f g n).lnk = n.lnk := rfl
@[simp] theorem modFn_pwr (f : Nat) (g : Fn → Fn) (n : Node) : (modFn f g n).pwr = n.pwr := rfl
@[simp] theorem modFn_serial (f : Nat) (g : Fn → Fn) (n : Node) : (modFn f g n).serial = n.serial := rfl
@[simp] theorem modFn_free (f : Nat) (g : Fn → Fn) (n : Node) : (modFn f g n).free = n.free := rfl
@[simp] theorem modFn_hbAt (f : Nat) (g : Fn → Fn) (n : Node) : (modFn f g n).hbAt = n.hbAt := rfl
@[simp] theorem modFn_out (f : Nat) (g : Fn → Fn) (n : Node) : (modFn f g n).out = n.out := rfl

/-! ### `modP` -/

@[simp] theorem modP_pins (p : Nat) (g : Ptn → Ptn) (n : Node) : (modP p g n).pins = n.pins := rfl
@[simp] theorem modP_boot (p : Nat) (g : Ptn → Ptn) (n : Node) : (modP p g n).boot = n.boot := rfl
@[simp] theorem modP_bflash (p : Nat) (g : Ptn → Ptn) (n : Node) : (modP p g n).bflash = n.bflash := rfl
@[simp] theorem modP_spdmI3c (p : Nat) (g : Ptn → Ptn) (n : Node) : (modP p g n).spdmI3c = n.spdmI3c := rfl
@[simp] theorem modP_spdmVdm (p : Nat) (g : Ptn → Ptn) (n : Node) : (modP p g n).spdmVdm = n.spdmVdm := rfl
@[simp] theorem modP_fns (p : Nat) (g : Ptn → Ptn) (n : Node) : (modP p g n).fns = n.fns := rfl
@[simp] theorem modP_numVfs (p : Nat) (g : Ptn → Ptn) (n : Node) : (modP p g n).numVfs = n.numVfs := rfl
@[simp] theorem modP_totalVfs (p : Nat) (g : Ptn → Ptn) (n : Node) : (modP p g n).totalVfs = n.totalVfs := rfl
@[simp] theorem modP_aptr (p : Nat) (g : Ptn → Ptn) (n : Node) : (modP p g n).aptr = n.aptr := rfl
@[simp] theorem modP_alast (p : Nat) (g : Ptn → Ptn) (n : Node) : (modP p g n).alast = n.alast := rfl
@[simp] theorem modP_ptns (p : Nat) (g : Ptn → Ptn) (n : Node) : (modP p g n).ptns = vmod n.ptns p g := rfl
@[simp] theorem modP_cores (p : Nat) (g : Ptn → Ptn) (n : Node) : (modP p g n).cores = n.cores := rfl
@[simp] theorem modP_reserve (p : Nat) (g : Ptn → Ptn) (n : Node) : (modP p g n).reserve = n.reserve := rfl
@[simp] theorem modP_bankLvl (p : Nat) (g : Ptn → Ptn) (n : Node) : (modP p g n).bankLvl = n.bankLvl := rfl
@[simp] theorem modP_mem (p : Nat) (g : Ptn → Ptn) (n : Node) : (modP p g n).mem = n.mem := rfl
@[simp] theorem modP_flash (p : Nat) (g : Ptn → Ptn) (n : Node) : (modP p g n).flash = n.flash := rfl
@[simp] theorem modP_lnk (p : Nat) (g : Ptn → Ptn) (n : Node) : (modP p g n).lnk = n.lnk := rfl
@[simp] theorem modP_pwr (p : Nat) (g : Ptn → Ptn) (n : Node) : (modP p g n).pwr = n.pwr := rfl
@[simp] theorem modP_serial (p : Nat) (g : Ptn → Ptn) (n : Node) : (modP p g n).serial = n.serial := rfl
@[simp] theorem modP_free (p : Nat) (g : Ptn → Ptn) (n : Node) : (modP p g n).free = n.free := rfl
@[simp] theorem modP_hbAt (p : Nat) (g : Ptn → Ptn) (n : Node) : (modP p g n).hbAt = n.hbAt := rfl
@[simp] theorem modP_out (p : Nat) (g : Ptn → Ptn) (n : Node) : (modP p g n).out = n.out := rfl

/-! ### `modPwr` -/

@[simp] theorem modPwr_pins (g : Power → Power) (n : Node) : (modPwr g n).pins = n.pins := rfl
@[simp] theorem modPwr_boot (g : Power → Power) (n : Node) : (modPwr g n).boot = n.boot := rfl
@[simp] theorem modPwr_bflash (g : Power → Power) (n : Node) : (modPwr g n).bflash = n.bflash := rfl
@[simp] theorem modPwr_spdmI3c (g : Power → Power) (n : Node) : (modPwr g n).spdmI3c = n.spdmI3c := rfl
@[simp] theorem modPwr_spdmVdm (g : Power → Power) (n : Node) : (modPwr g n).spdmVdm = n.spdmVdm := rfl
@[simp] theorem modPwr_fns (g : Power → Power) (n : Node) : (modPwr g n).fns = n.fns := rfl
@[simp] theorem modPwr_numVfs (g : Power → Power) (n : Node) : (modPwr g n).numVfs = n.numVfs := rfl
@[simp] theorem modPwr_totalVfs (g : Power → Power) (n : Node) : (modPwr g n).totalVfs = n.totalVfs := rfl
@[simp] theorem modPwr_aptr (g : Power → Power) (n : Node) : (modPwr g n).aptr = n.aptr := rfl
@[simp] theorem modPwr_alast (g : Power → Power) (n : Node) : (modPwr g n).alast = n.alast := rfl
@[simp] theorem modPwr_ptns (g : Power → Power) (n : Node) : (modPwr g n).ptns = n.ptns := rfl
@[simp] theorem modPwr_cores (g : Power → Power) (n : Node) : (modPwr g n).cores = n.cores := rfl
@[simp] theorem modPwr_reserve (g : Power → Power) (n : Node) : (modPwr g n).reserve = n.reserve := rfl
@[simp] theorem modPwr_bankLvl (g : Power → Power) (n : Node) : (modPwr g n).bankLvl = n.bankLvl := rfl
@[simp] theorem modPwr_mem (g : Power → Power) (n : Node) : (modPwr g n).mem = n.mem := rfl
@[simp] theorem modPwr_flash (g : Power → Power) (n : Node) : (modPwr g n).flash = n.flash := rfl
@[simp] theorem modPwr_lnk (g : Power → Power) (n : Node) : (modPwr g n).lnk = n.lnk := rfl
@[simp] theorem modPwr_pwr (g : Power → Power) (n : Node) : (modPwr g n).pwr = g n.pwr := rfl
@[simp] theorem modPwr_serial (g : Power → Power) (n : Node) : (modPwr g n).serial = n.serial := rfl
@[simp] theorem modPwr_free (g : Power → Power) (n : Node) : (modPwr g n).free = n.free := rfl
@[simp] theorem modPwr_hbAt (g : Power → Power) (n : Node) : (modPwr g n).hbAt = n.hbAt := rfl
@[simp] theorem modPwr_out (g : Power → Power) (n : Node) : (modPwr g n).out = n.out := rfl

/-! ### `modLnk` -/

@[simp] theorem modLnk_pins (g : LinkBlk → LinkBlk) (n : Node) : (modLnk g n).pins = n.pins := rfl
@[simp] theorem modLnk_boot (g : LinkBlk → LinkBlk) (n : Node) : (modLnk g n).boot = n.boot := rfl
@[simp] theorem modLnk_bflash (g : LinkBlk → LinkBlk) (n : Node) : (modLnk g n).bflash = n.bflash := rfl
@[simp] theorem modLnk_spdmI3c (g : LinkBlk → LinkBlk) (n : Node) : (modLnk g n).spdmI3c = n.spdmI3c := rfl
@[simp] theorem modLnk_spdmVdm (g : LinkBlk → LinkBlk) (n : Node) : (modLnk g n).spdmVdm = n.spdmVdm := rfl
@[simp] theorem modLnk_fns (g : LinkBlk → LinkBlk) (n : Node) : (modLnk g n).fns = n.fns := rfl
@[simp] theorem modLnk_numVfs (g : LinkBlk → LinkBlk) (n : Node) : (modLnk g n).numVfs = n.numVfs := rfl
@[simp] theorem modLnk_totalVfs (g : LinkBlk → LinkBlk) (n : Node) : (modLnk g n).totalVfs = n.totalVfs := rfl
@[simp] theorem modLnk_aptr (g : LinkBlk → LinkBlk) (n : Node) : (modLnk g n).aptr = n.aptr := rfl
@[simp] theorem modLnk_alast (g : LinkBlk → LinkBlk) (n : Node) : (modLnk g n).alast = n.alast := rfl
@[simp] theorem modLnk_ptns (g : LinkBlk → LinkBlk) (n : Node) : (modLnk g n).ptns = n.ptns := rfl
@[simp] theorem modLnk_cores (g : LinkBlk → LinkBlk) (n : Node) : (modLnk g n).cores = n.cores := rfl
@[simp] theorem modLnk_reserve (g : LinkBlk → LinkBlk) (n : Node) : (modLnk g n).reserve = n.reserve := rfl
@[simp] theorem modLnk_bankLvl (g : LinkBlk → LinkBlk) (n : Node) : (modLnk g n).bankLvl = n.bankLvl := rfl
@[simp] theorem modLnk_mem (g : LinkBlk → LinkBlk) (n : Node) : (modLnk g n).mem = n.mem := rfl
@[simp] theorem modLnk_flash (g : LinkBlk → LinkBlk) (n : Node) : (modLnk g n).flash = n.flash := rfl
@[simp] theorem modLnk_lnk (g : LinkBlk → LinkBlk) (n : Node) : (modLnk g n).lnk = g n.lnk := rfl
@[simp] theorem modLnk_pwr (g : LinkBlk → LinkBlk) (n : Node) : (modLnk g n).pwr = n.pwr := rfl
@[simp] theorem modLnk_serial (g : LinkBlk → LinkBlk) (n : Node) : (modLnk g n).serial = n.serial := rfl
@[simp] theorem modLnk_free (g : LinkBlk → LinkBlk) (n : Node) : (modLnk g n).free = n.free := rfl
@[simp] theorem modLnk_hbAt (g : LinkBlk → LinkBlk) (n : Node) : (modLnk g n).hbAt = n.hbAt := rfl
@[simp] theorem modLnk_out (g : LinkBlk → LinkBlk) (n : Node) : (modLnk g n).out = n.out := rfl

/-! ### `modBoot` -/

@[simp] theorem modBoot_pins (g : Boot → Boot) (n : Node) : (modBoot g n).pins = n.pins := rfl
@[simp] theorem modBoot_boot (g : Boot → Boot) (n : Node) : (modBoot g n).boot = g n.boot := rfl
@[simp] theorem modBoot_bflash (g : Boot → Boot) (n : Node) : (modBoot g n).bflash = n.bflash := rfl
@[simp] theorem modBoot_spdmI3c (g : Boot → Boot) (n : Node) : (modBoot g n).spdmI3c = n.spdmI3c := rfl
@[simp] theorem modBoot_spdmVdm (g : Boot → Boot) (n : Node) : (modBoot g n).spdmVdm = n.spdmVdm := rfl
@[simp] theorem modBoot_fns (g : Boot → Boot) (n : Node) : (modBoot g n).fns = n.fns := rfl
@[simp] theorem modBoot_numVfs (g : Boot → Boot) (n : Node) : (modBoot g n).numVfs = n.numVfs := rfl
@[simp] theorem modBoot_totalVfs (g : Boot → Boot) (n : Node) : (modBoot g n).totalVfs = n.totalVfs := rfl
@[simp] theorem modBoot_aptr (g : Boot → Boot) (n : Node) : (modBoot g n).aptr = n.aptr := rfl
@[simp] theorem modBoot_alast (g : Boot → Boot) (n : Node) : (modBoot g n).alast = n.alast := rfl
@[simp] theorem modBoot_ptns (g : Boot → Boot) (n : Node) : (modBoot g n).ptns = n.ptns := rfl
@[simp] theorem modBoot_cores (g : Boot → Boot) (n : Node) : (modBoot g n).cores = n.cores := rfl
@[simp] theorem modBoot_reserve (g : Boot → Boot) (n : Node) : (modBoot g n).reserve = n.reserve := rfl
@[simp] theorem modBoot_bankLvl (g : Boot → Boot) (n : Node) : (modBoot g n).bankLvl = n.bankLvl := rfl
@[simp] theorem modBoot_mem (g : Boot → Boot) (n : Node) : (modBoot g n).mem = n.mem := rfl
@[simp] theorem modBoot_flash (g : Boot → Boot) (n : Node) : (modBoot g n).flash = n.flash := rfl
@[simp] theorem modBoot_lnk (g : Boot → Boot) (n : Node) : (modBoot g n).lnk = n.lnk := rfl
@[simp] theorem modBoot_pwr (g : Boot → Boot) (n : Node) : (modBoot g n).pwr = n.pwr := rfl
@[simp] theorem modBoot_serial (g : Boot → Boot) (n : Node) : (modBoot g n).serial = n.serial := rfl
@[simp] theorem modBoot_free (g : Boot → Boot) (n : Node) : (modBoot g n).free = n.free := rfl
@[simp] theorem modBoot_hbAt (g : Boot → Boot) (n : Node) : (modBoot g n).hbAt = n.hbAt := rfl
@[simp] theorem modBoot_out (g : Boot → Boot) (n : Node) : (modBoot g n).out = n.out := rfl

/-! ### `modMem` -/

@[simp] theorem modMem_pins (g : MemSt → MemSt) (n : Node) : (modMem g n).pins = n.pins := rfl
@[simp] theorem modMem_boot (g : MemSt → MemSt) (n : Node) : (modMem g n).boot = n.boot := rfl
@[simp] theorem modMem_bflash (g : MemSt → MemSt) (n : Node) : (modMem g n).bflash = n.bflash := rfl
@[simp] theorem modMem_spdmI3c (g : MemSt → MemSt) (n : Node) : (modMem g n).spdmI3c = n.spdmI3c := rfl
@[simp] theorem modMem_spdmVdm (g : MemSt → MemSt) (n : Node) : (modMem g n).spdmVdm = n.spdmVdm := rfl
@[simp] theorem modMem_fns (g : MemSt → MemSt) (n : Node) : (modMem g n).fns = n.fns := rfl
@[simp] theorem modMem_numVfs (g : MemSt → MemSt) (n : Node) : (modMem g n).numVfs = n.numVfs := rfl
@[simp] theorem modMem_totalVfs (g : MemSt → MemSt) (n : Node) : (modMem g n).totalVfs = n.totalVfs := rfl
@[simp] theorem modMem_aptr (g : MemSt → MemSt) (n : Node) : (modMem g n).aptr = n.aptr := rfl
@[simp] theorem modMem_alast (g : MemSt → MemSt) (n : Node) : (modMem g n).alast = n.alast := rfl
@[simp] theorem modMem_ptns (g : MemSt → MemSt) (n : Node) : (modMem g n).ptns = n.ptns := rfl
@[simp] theorem modMem_cores (g : MemSt → MemSt) (n : Node) : (modMem g n).cores = n.cores := rfl
@[simp] theorem modMem_reserve (g : MemSt → MemSt) (n : Node) : (modMem g n).reserve = n.reserve := rfl
@[simp] theorem modMem_bankLvl (g : MemSt → MemSt) (n : Node) : (modMem g n).bankLvl = n.bankLvl := rfl
@[simp] theorem modMem_mem (g : MemSt → MemSt) (n : Node) : (modMem g n).mem = g n.mem := rfl
@[simp] theorem modMem_flash (g : MemSt → MemSt) (n : Node) : (modMem g n).flash = n.flash := rfl
@[simp] theorem modMem_lnk (g : MemSt → MemSt) (n : Node) : (modMem g n).lnk = n.lnk := rfl
@[simp] theorem modMem_pwr (g : MemSt → MemSt) (n : Node) : (modMem g n).pwr = n.pwr := rfl
@[simp] theorem modMem_serial (g : MemSt → MemSt) (n : Node) : (modMem g n).serial = n.serial := rfl
@[simp] theorem modMem_free (g : MemSt → MemSt) (n : Node) : (modMem g n).free = n.free := rfl
@[simp] theorem modMem_hbAt (g : MemSt → MemSt) (n : Node) : (modMem g n).hbAt = n.hbAt := rfl
@[simp] theorem modMem_out (g : MemSt → MemSt) (n : Node) : (modMem g n).out = n.out := rfl

/-! ### `modFls` -/

@[simp] theorem modFls_pins (g : FlashSt → FlashSt) (n : Node) : (modFls g n).pins = n.pins := rfl
@[simp] theorem modFls_boot (g : FlashSt → FlashSt) (n : Node) : (modFls g n).boot = n.boot := rfl
@[simp] theorem modFls_bflash (g : FlashSt → FlashSt) (n : Node) : (modFls g n).bflash = n.bflash := rfl
@[simp] theorem modFls_spdmI3c (g : FlashSt → FlashSt) (n : Node) : (modFls g n).spdmI3c = n.spdmI3c := rfl
@[simp] theorem modFls_spdmVdm (g : FlashSt → FlashSt) (n : Node) : (modFls g n).spdmVdm = n.spdmVdm := rfl
@[simp] theorem modFls_fns (g : FlashSt → FlashSt) (n : Node) : (modFls g n).fns = n.fns := rfl
@[simp] theorem modFls_numVfs (g : FlashSt → FlashSt) (n : Node) : (modFls g n).numVfs = n.numVfs := rfl
@[simp] theorem modFls_totalVfs (g : FlashSt → FlashSt) (n : Node) : (modFls g n).totalVfs = n.totalVfs := rfl
@[simp] theorem modFls_aptr (g : FlashSt → FlashSt) (n : Node) : (modFls g n).aptr = n.aptr := rfl
@[simp] theorem modFls_alast (g : FlashSt → FlashSt) (n : Node) : (modFls g n).alast = n.alast := rfl
@[simp] theorem modFls_ptns (g : FlashSt → FlashSt) (n : Node) : (modFls g n).ptns = n.ptns := rfl
@[simp] theorem modFls_cores (g : FlashSt → FlashSt) (n : Node) : (modFls g n).cores = n.cores := rfl
@[simp] theorem modFls_reserve (g : FlashSt → FlashSt) (n : Node) : (modFls g n).reserve = n.reserve := rfl
@[simp] theorem modFls_bankLvl (g : FlashSt → FlashSt) (n : Node) : (modFls g n).bankLvl = n.bankLvl := rfl
@[simp] theorem modFls_mem (g : FlashSt → FlashSt) (n : Node) : (modFls g n).mem = n.mem := rfl
@[simp] theorem modFls_flash (g : FlashSt → FlashSt) (n : Node) : (modFls g n).flash = g n.flash := rfl
@[simp] theorem modFls_lnk (g : FlashSt → FlashSt) (n : Node) : (modFls g n).lnk = n.lnk := rfl
@[simp] theorem modFls_pwr (g : FlashSt → FlashSt) (n : Node) : (modFls g n).pwr = n.pwr := rfl
@[simp] theorem modFls_serial (g : FlashSt → FlashSt) (n : Node) : (modFls g n).serial = n.serial := rfl
@[simp] theorem modFls_free (g : FlashSt → FlashSt) (n : Node) : (modFls g n).free = n.free := rfl
@[simp] theorem modFls_hbAt (g : FlashSt → FlashSt) (n : Node) : (modFls g n).hbAt = n.hbAt := rfl
@[simp] theorem modFls_out (g : FlashSt → FlashSt) (n : Node) : (modFls g n).out = n.out := rfl

/-! ### `modKey` -/

@[simp] theorem modKey_pins (s : Nat) (g : KeySlot → KeySlot) (n : Node) : (modKey s g n).pins = n.pins := rfl
@[simp] theorem modKey_boot (s : Nat) (g : KeySlot → KeySlot) (n : Node) : (modKey s g n).boot = n.boot := rfl
@[simp] theorem modKey_bflash (s : Nat) (g : KeySlot → KeySlot) (n : Node) : (modKey s g n).bflash = { n.bflash with keys := vmod n.bflash.keys s g } := rfl
@[simp] theorem modKey_spdmI3c (s : Nat) (g : KeySlot → KeySlot) (n : Node) : (modKey s g n).spdmI3c = n.spdmI3c := rfl
@[simp] theorem modKey_spdmVdm (s : Nat) (g : KeySlot → KeySlot) (n : Node) : (modKey s g n).spdmVdm = n.spdmVdm := rfl
@[simp] theorem modKey_fns (s : Nat) (g : KeySlot → KeySlot) (n : Node) : (modKey s g n).fns = n.fns := rfl
@[simp] theorem modKey_numVfs (s : Nat) (g : KeySlot → KeySlot) (n : Node) : (modKey s g n).numVfs = n.numVfs := rfl
@[simp] theorem modKey_totalVfs (s : Nat) (g : KeySlot → KeySlot) (n : Node) : (modKey s g n).totalVfs = n.totalVfs := rfl
@[simp] theorem modKey_aptr (s : Nat) (g : KeySlot → KeySlot) (n : Node) : (modKey s g n).aptr = n.aptr := rfl
@[simp] theorem modKey_alast (s : Nat) (g : KeySlot → KeySlot) (n : Node) : (modKey s g n).alast = n.alast := rfl
@[simp] theorem modKey_ptns (s : Nat) (g : KeySlot → KeySlot) (n : Node) : (modKey s g n).ptns = n.ptns := rfl
@[simp] theorem modKey_cores (s : Nat) (g : KeySlot → KeySlot) (n : Node) : (modKey s g n).cores = n.cores := rfl
@[simp] theorem modKey_reserve (s : Nat) (g : KeySlot → KeySlot) (n : Node) : (modKey s g n).reserve = n.reserve := rfl
@[simp] theorem modKey_bankLvl (s : Nat) (g : KeySlot → KeySlot) (n : Node) : (modKey s g n).bankLvl = n.bankLvl := rfl
@[simp] theorem modKey_mem (s : Nat) (g : KeySlot → KeySlot) (n : Node) : (modKey s g n).mem = n.mem := rfl
@[simp] theorem modKey_flash (s : Nat) (g : KeySlot → KeySlot) (n : Node) : (modKey s g n).flash = n.flash := rfl
@[simp] theorem modKey_lnk (s : Nat) (g : KeySlot → KeySlot) (n : Node) : (modKey s g n).lnk = n.lnk := rfl
@[simp] theorem modKey_pwr (s : Nat) (g : KeySlot → KeySlot) (n : Node) : (modKey s g n).pwr = n.pwr := rfl
@[simp] theorem modKey_serial (s : Nat) (g : KeySlot → KeySlot) (n : Node) : (modKey s g n).serial = n.serial := rfl
@[simp] theorem modKey_free (s : Nat) (g : KeySlot → KeySlot) (n : Node) : (modKey s g n).free = n.free := rfl
@[simp] theorem modKey_hbAt (s : Nat) (g : KeySlot → KeySlot) (n : Node) : (modKey s g n).hbAt = n.hbAt := rfl
@[simp] theorem modKey_out (s : Nat) (g : KeySlot → KeySlot) (n : Node) : (modKey s g n).out = n.out := rfl

/-! ### `modCore` -/

@[simp] theorem modCore_pins (i : Nat) (g : PCore → PCore) (n : Node) : (modCore i g n).pins = n.pins := rfl
@[simp] theorem modCore_boot (i : Nat) (g : PCore → PCore) (n : Node) : (modCore i g n).boot = n.boot := rfl
@[simp] theorem modCore_bflash (i : Nat) (g : PCore → PCore) (n : Node) : (modCore i g n).bflash = n.bflash := rfl
@[simp] theorem modCore_spdmI3c (i : Nat) (g : PCore → PCore) (n : Node) : (modCore i g n).spdmI3c = n.spdmI3c := rfl
@[simp] theorem modCore_spdmVdm (i : Nat) (g : PCore → PCore) (n : Node) : (modCore i g n).spdmVdm = n.spdmVdm := rfl
@[simp] theorem modCore_fns (i : Nat) (g : PCore → PCore) (n : Node) : (modCore i g n).fns = n.fns := rfl
@[simp] theorem modCore_numVfs (i : Nat) (g : PCore → PCore) (n : Node) : (modCore i g n).numVfs = n.numVfs := rfl
@[simp] theorem modCore_totalVfs (i : Nat) (g : PCore → PCore) (n : Node) : (modCore i g n).totalVfs = n.totalVfs := rfl
@[simp] theorem modCore_aptr (i : Nat) (g : PCore → PCore) (n : Node) : (modCore i g n).aptr = n.aptr := rfl
@[simp] theorem modCore_alast (i : Nat) (g : PCore → PCore) (n : Node) : (modCore i g n).alast = n.alast := rfl
@[simp] theorem modCore_ptns (i : Nat) (g : PCore → PCore) (n : Node) : (modCore i g n).ptns = n.ptns := rfl
@[simp] theorem modCore_cores (i : Nat) (g : PCore → PCore) (n : Node) : (modCore i g n).cores = vmod n.cores i g := rfl
@[simp] theorem modCore_reserve (i : Nat) (g : PCore → PCore) (n : Node) : (modCore i g n).reserve = n.reserve := rfl
@[simp] theorem modCore_bankLvl (i : Nat) (g : PCore → PCore) (n : Node) : (modCore i g n).bankLvl = n.bankLvl := rfl
@[simp] theorem modCore_mem (i : Nat) (g : PCore → PCore) (n : Node) : (modCore i g n).mem = n.mem := rfl
@[simp] theorem modCore_flash (i : Nat) (g : PCore → PCore) (n : Node) : (modCore i g n).flash = n.flash := rfl
@[simp] theorem modCore_lnk (i : Nat) (g : PCore → PCore) (n : Node) : (modCore i g n).lnk = n.lnk := rfl
@[simp] theorem modCore_pwr (i : Nat) (g : PCore → PCore) (n : Node) : (modCore i g n).pwr = n.pwr := rfl
@[simp] theorem modCore_serial (i : Nat) (g : PCore → PCore) (n : Node) : (modCore i g n).serial = n.serial := rfl
@[simp] theorem modCore_free (i : Nat) (g : PCore → PCore) (n : Node) : (modCore i g n).free = n.free := rfl
@[simp] theorem modCore_hbAt (i : Nat) (g : PCore → PCore) (n : Node) : (modCore i g n).hbAt = n.hbAt := rfl
@[simp] theorem modCore_out (i : Nat) (g : PCore → PCore) (n : Node) : (modCore i g n).out = n.out := rfl

/-! ### `emit` -/

@[simp] theorem emit_pins (o : Out) (n : Node) : (emit o n).pins = n.pins := rfl
@[simp] theorem emit_boot (o : Out) (n : Node) : (emit o n).boot = n.boot := rfl
@[simp] theorem emit_bflash (o : Out) (n : Node) : (emit o n).bflash = n.bflash := rfl
@[simp] theorem emit_spdmI3c (o : Out) (n : Node) : (emit o n).spdmI3c = n.spdmI3c := rfl
@[simp] theorem emit_spdmVdm (o : Out) (n : Node) : (emit o n).spdmVdm = n.spdmVdm := rfl
@[simp] theorem emit_fns (o : Out) (n : Node) : (emit o n).fns = n.fns := rfl
@[simp] theorem emit_numVfs (o : Out) (n : Node) : (emit o n).numVfs = n.numVfs := rfl
@[simp] theorem emit_totalVfs (o : Out) (n : Node) : (emit o n).totalVfs = n.totalVfs := rfl
@[simp] theorem emit_aptr (o : Out) (n : Node) : (emit o n).aptr = n.aptr := rfl
@[simp] theorem emit_alast (o : Out) (n : Node) : (emit o n).alast = n.alast := rfl
@[simp] theorem emit_ptns (o : Out) (n : Node) : (emit o n).ptns = n.ptns := rfl
@[simp] theorem emit_cores (o : Out) (n : Node) : (emit o n).cores = n.cores := rfl
@[simp] theorem emit_reserve (o : Out) (n : Node) : (emit o n).reserve = n.reserve := rfl
@[simp] theorem emit_bankLvl (o : Out) (n : Node) : (emit o n).bankLvl = n.bankLvl := rfl
@[simp] theorem emit_mem (o : Out) (n : Node) : (emit o n).mem = n.mem := rfl
@[simp] theorem emit_flash (o : Out) (n : Node) : (emit o n).flash = n.flash := rfl
@[simp] theorem emit_lnk (o : Out) (n : Node) : (emit o n).lnk = n.lnk := rfl
@[simp] theorem emit_pwr (o : Out) (n : Node) : (emit o n).pwr = n.pwr := rfl
@[simp] theorem emit_serial (o : Out) (n : Node) : (emit o n).serial = n.serial := rfl
@[simp] theorem emit_free (o : Out) (n : Node) : (emit o n).free = n.free := rfl
@[simp] theorem emit_hbAt (o : Out) (n : Node) : (emit o n).hbAt = n.hbAt := rfl
@[simp] theorem emit_out (o : Out) (n : Node) : (emit o n).out = n.out ++ [o] := rfl

/-! ### `modQ` -/

@[simp] theorem modQ_pins (f q : Nat) (g : Queue → Queue) (n : Node) : (modQ f q g n).pins = n.pins := rfl
@[simp] theorem modQ_boot (f q : Nat) (g : Queue → Queue) (n : Node) : (modQ f q g n).boot = n.boot := rfl
@[simp] theorem modQ_bflash (f q : Nat) (g : Queue → Queue) (n : Node) : (modQ f q g n).bflash = n.bflash := rfl
@[simp] theorem modQ_spdmI3c (f q : Nat) (g : Queue → Queue) (n : Node) : (modQ f q g n).spdmI3c = n.spdmI3c := rfl
@[simp] theorem modQ_spdmVdm (f q : Nat) (g : Queue → Queue) (n : Node) : (modQ f q g n).spdmVdm = n.spdmVdm := rfl
@[simp] theorem modQ_fns (f q : Nat) (g : Queue → Queue) (n : Node) : (modQ f q g n).fns = vmod n.fns f (fun x => { x with queues := mmod x.queues q g }) := rfl
@[simp] theorem modQ_numVfs (f q : Nat) (g : Queue → Queue) (n : Node) : (modQ f q g n).numVfs = n.numVfs := rfl
@[simp] theorem modQ_totalVfs (f q : Nat) (g : Queue → Queue) (n : Node) : (modQ f q g n).totalVfs = n.totalVfs := rfl
@[simp] theorem modQ_aptr (f q : Nat) (g : Queue → Queue) (n : Node) : (modQ f q g n).aptr = n.aptr := rfl
@[simp] theorem modQ_alast (f q : Nat) (g : Queue → Queue) (n : Node) : (modQ f q g n).alast = n.alast := rfl
@[simp] theorem modQ_ptns (f q : Nat) (g : Queue → Queue) (n : Node) : (modQ f q g n).ptns = n.ptns := rfl
@[simp] theorem modQ_cores (f q : Nat) (g : Queue → Queue) (n : Node) : (modQ f q g n).cores = n.cores := rfl
@[simp] theorem modQ_reserve (f q : Nat) (g : Queue → Queue) (n : Node) : (modQ f q g n).reserve = n.reserve := rfl
@[simp] theorem modQ_bankLvl (f q : Nat) (g : Queue → Queue) (n : Node) : (modQ f q g n).bankLvl = n.bankLvl := rfl
@[simp] theorem modQ_mem (f q : Nat) (g : Queue → Queue) (n : Node) : (modQ f q g n).mem = n.mem := rfl
@[simp] theorem modQ_flash (f q : Nat) (g : Queue → Queue) (n : Node) : (modQ f q g n).flash = n.flash := rfl
@[simp] theorem modQ_lnk (f q : Nat) (g : Queue → Queue) (n : Node) : (modQ f q g n).lnk = n.lnk := rfl
@[simp] theorem modQ_pwr (f q : Nat) (g : Queue → Queue) (n : Node) : (modQ f q g n).pwr = n.pwr := rfl
@[simp] theorem modQ_serial (f q : Nat) (g : Queue → Queue) (n : Node) : (modQ f q g n).serial = n.serial := rfl
@[simp] theorem modQ_free (f q : Nat) (g : Queue → Queue) (n : Node) : (modQ f q g n).free = n.free := rfl
@[simp] theorem modQ_hbAt (f q : Nat) (g : Queue → Queue) (n : Node) : (modQ f q g n).hbAt = n.hbAt := rfl
@[simp] theorem modQ_out (f q : Nat) (g : Queue → Queue) (n : Node) : (modQ f q g n).out = n.out := rfl

/-! ### `raiseAt` -/

@[simp] theorem raiseAt_pins (c f : Nat) (n : Node) : (raiseAt c f n).pins = n.pins := rfl
@[simp] theorem raiseAt_boot (c f : Nat) (n : Node) : (raiseAt c f n).boot = n.boot := rfl
@[simp] theorem raiseAt_bflash (c f : Nat) (n : Node) : (raiseAt c f n).bflash = n.bflash := rfl
@[simp] theorem raiseAt_spdmI3c (c f : Nat) (n : Node) : (raiseAt c f n).spdmI3c = n.spdmI3c := rfl
@[simp] theorem raiseAt_spdmVdm (c f : Nat) (n : Node) : (raiseAt c f n).spdmVdm = n.spdmVdm := rfl
@[simp] theorem raiseAt_fns (c f : Nat) (n : Node) : (raiseAt c f n).fns = vmod n.fns f (fun x => { x with attn := x.attn ||| BitVec.ofNat 16 (2 ^ c), attnSeq := x.attnSeq + 1 }) := rfl
@[simp] theorem raiseAt_numVfs (c f : Nat) (n : Node) : (raiseAt c f n).numVfs = n.numVfs := rfl
@[simp] theorem raiseAt_totalVfs (c f : Nat) (n : Node) : (raiseAt c f n).totalVfs = n.totalVfs := rfl
@[simp] theorem raiseAt_aptr (c f : Nat) (n : Node) : (raiseAt c f n).aptr = n.aptr := rfl
@[simp] theorem raiseAt_alast (c f : Nat) (n : Node) : (raiseAt c f n).alast = n.alast := rfl
@[simp] theorem raiseAt_ptns (c f : Nat) (n : Node) : (raiseAt c f n).ptns = n.ptns := rfl
@[simp] theorem raiseAt_cores (c f : Nat) (n : Node) : (raiseAt c f n).cores = n.cores := rfl
@[simp] theorem raiseAt_reserve (c f : Nat) (n : Node) : (raiseAt c f n).reserve = n.reserve := rfl
@[simp] theorem raiseAt_bankLvl (c f : Nat) (n : Node) : (raiseAt c f n).bankLvl = n.bankLvl := rfl
@[simp] theorem raiseAt_mem (c f : Nat) (n : Node) : (raiseAt c f n).mem = n.mem := rfl
@[simp] theorem raiseAt_flash (c f : Nat) (n : Node) : (raiseAt c f n).flash = n.flash := rfl
@[simp] theorem raiseAt_lnk (c f : Nat) (n : Node) : (raiseAt c f n).lnk = n.lnk := rfl
@[simp] theorem raiseAt_pwr (c f : Nat) (n : Node) : (raiseAt c f n).pwr = n.pwr := rfl
@[simp] theorem raiseAt_serial (c f : Nat) (n : Node) : (raiseAt c f n).serial = n.serial := rfl
@[simp] theorem raiseAt_free (c f : Nat) (n : Node) : (raiseAt c f n).free = n.free := rfl
@[simp] theorem raiseAt_hbAt (c f : Nat) (n : Node) : (raiseAt c f n).hbAt = n.hbAt := rfl
@[simp] theorem raiseAt_out (c f : Nat) (n : Node) : (raiseAt c f n).out = n.out := rfl

/-! ### `count` -/

@[simp] theorem count_pins (p : Nat) (c : PtnCtr) (k : Nat) (n : Node) : (count p c k n).pins = n.pins := rfl
@[simp] theorem count_boot (p : Nat) (c : PtnCtr) (k : Nat) (n : Node) : (count p c k n).boot = n.boot := rfl
@[simp] theorem count_bflash (p : Nat) (c : PtnCtr) (k : Nat) (n : Node) : (count p c k n).bflash = n.bflash := rfl
@[simp] theorem count_spdmI3c (p : Nat) (c : PtnCtr) (k : Nat) (n : Node) : (count p c k n).spdmI3c = n.spdmI3c := rfl
@[simp] theorem count_spdmVdm (p : Nat) (c : PtnCtr) (k : Nat) (n : Node) : (count p c k n).spdmVdm = n.spdmVdm := rfl
@[simp] theorem count_fns (p : Nat) (c : PtnCtr) (k : Nat) (n : Node) : (count p c k n).fns = n.fns := rfl
@[simp] theorem count_numVfs (p : Nat) (c : PtnCtr) (k : Nat) (n : Node) : (count p c k n).numVfs = n.numVfs := rfl
@[simp] theorem count_totalVfs (p : Nat) (c : PtnCtr) (k : Nat) (n : Node) : (count p c k n).totalVfs = n.totalVfs := rfl
@[simp] theorem count_aptr (p : Nat) (c : PtnCtr) (k : Nat) (n : Node) : (count p c k n).aptr = n.aptr := rfl
@[simp] theorem count_alast (p : Nat) (c : PtnCtr) (k : Nat) (n : Node) : (count p c k n).alast = n.alast := rfl
@[simp] theorem count_ptns (p : Nat) (c : PtnCtr) (k : Nat) (n : Node) : (count p c k n).ptns = vmod n.ptns p (fun x => { x with ctrs := vmod x.ctrs c.idx (· + BitVec.ofNat 64 k) }) := rfl
@[simp] theorem count_cores (p : Nat) (c : PtnCtr) (k : Nat) (n : Node) : (count p c k n).cores = n.cores := rfl
@[simp] theorem count_reserve (p : Nat) (c : PtnCtr) (k : Nat) (n : Node) : (count p c k n).reserve = n.reserve := rfl
@[simp] theorem count_bankLvl (p : Nat) (c : PtnCtr) (k : Nat) (n : Node) : (count p c k n).bankLvl = n.bankLvl := rfl
@[simp] theorem count_mem (p : Nat) (c : PtnCtr) (k : Nat) (n : Node) : (count p c k n).mem = n.mem := rfl
@[simp] theorem count_flash (p : Nat) (c : PtnCtr) (k : Nat) (n : Node) : (count p c k n).flash = n.flash := rfl
@[simp] theorem count_lnk (p : Nat) (c : PtnCtr) (k : Nat) (n : Node) : (count p c k n).lnk = n.lnk := rfl
@[simp] theorem count_pwr (p : Nat) (c : PtnCtr) (k : Nat) (n : Node) : (count p c k n).pwr = n.pwr := rfl
@[simp] theorem count_serial (p : Nat) (c : PtnCtr) (k : Nat) (n : Node) : (count p c k n).serial = n.serial := rfl
@[simp] theorem count_free (p : Nat) (c : PtnCtr) (k : Nat) (n : Node) : (count p c k n).free = n.free := rfl
@[simp] theorem count_hbAt (p : Nat) (c : PtnCtr) (k : Nat) (n : Node) : (count p c k n).hbAt = n.hbAt := rfl
@[simp] theorem count_out (p : Nat) (c : PtnCtr) (k : Nat) (n : Node) : (count p c k n).out = n.out := rfl

/-! ### `modC` -/

@[simp] theorem modC_pins (p c : Nat) (g : Coll → Coll) (n : Node) : (modC p c g n).pins = n.pins := rfl
@[simp] theorem modC_boot (p c : Nat) (g : Coll → Coll) (n : Node) : (modC p c g n).boot = n.boot := rfl
@[simp] theorem modC_bflash (p c : Nat) (g : Coll → Coll) (n : Node) : (modC p c g n).bflash = n.bflash := rfl
@[simp] theorem modC_spdmI3c (p c : Nat) (g : Coll → Coll) (n : Node) : (modC p c g n).spdmI3c = n.spdmI3c := rfl
@[simp] theorem modC_spdmVdm (p c : Nat) (g : Coll → Coll) (n : Node) : (modC p c g n).spdmVdm = n.spdmVdm := rfl
@[simp] theorem modC_fns (p c : Nat) (g : Coll → Coll) (n : Node) : (modC p c g n).fns = n.fns := rfl
@[simp] theorem modC_numVfs (p c : Nat) (g : Coll → Coll) (n : Node) : (modC p c g n).numVfs = n.numVfs := rfl
@[simp] theorem modC_totalVfs (p c : Nat) (g : Coll → Coll) (n : Node) : (modC p c g n).totalVfs = n.totalVfs := rfl
@[simp] theorem modC_aptr (p c : Nat) (g : Coll → Coll) (n : Node) : (modC p c g n).aptr = n.aptr := rfl
@[simp] theorem modC_alast (p c : Nat) (g : Coll → Coll) (n : Node) : (modC p c g n).alast = n.alast := rfl
@[simp] theorem modC_ptns (p c : Nat) (g : Coll → Coll) (n : Node) : (modC p c g n).ptns = vmod n.ptns p (fun x => { x with colls := mmod x.colls c g }) := rfl
@[simp] theorem modC_cores (p c : Nat) (g : Coll → Coll) (n : Node) : (modC p c g n).cores = n.cores := rfl
@[simp] theorem modC_reserve (p c : Nat) (g : Coll → Coll) (n : Node) : (modC p c g n).reserve = n.reserve := rfl
@[simp] theorem modC_bankLvl (p c : Nat) (g : Coll → Coll) (n : Node) : (modC p c g n).bankLvl = n.bankLvl := rfl
@[simp] theorem modC_mem (p c : Nat) (g : Coll → Coll) (n : Node) : (modC p c g n).mem = n.mem := rfl
@[simp] theorem modC_flash (p c : Nat) (g : Coll → Coll) (n : Node) : (modC p c g n).flash = n.flash := rfl
@[simp] theorem modC_lnk (p c : Nat) (g : Coll → Coll) (n : Node) : (modC p c g n).lnk = n.lnk := rfl
@[simp] theorem modC_pwr (p c : Nat) (g : Coll → Coll) (n : Node) : (modC p c g n).pwr = n.pwr := rfl
@[simp] theorem modC_serial (p c : Nat) (g : Coll → Coll) (n : Node) : (modC p c g n).serial = n.serial := rfl
@[simp] theorem modC_free (p c : Nat) (g : Coll → Coll) (n : Node) : (modC p c g n).free = n.free := rfl
@[simp] theorem modC_hbAt (p c : Nat) (g : Coll → Coll) (n : Node) : (modC p c g n).hbAt = n.hbAt := rfl
@[simp] theorem modC_out (p c : Nat) (g : Coll → Coll) (n : Node) : (modC p c g n).out = n.out := rfl

/-! ### `modT` -/

@[simp] theorem modT_pins (p t : Nat) (g : Tbl → Tbl) (n : Node) : (modT p t g n).pins = n.pins := rfl
@[simp] theorem modT_boot (p t : Nat) (g : Tbl → Tbl) (n : Node) : (modT p t g n).boot = n.boot := rfl
@[simp] theorem modT_bflash (p t : Nat) (g : Tbl → Tbl) (n : Node) : (modT p t g n).bflash = n.bflash := rfl
@[simp] theorem modT_spdmI3c (p t : Nat) (g : Tbl → Tbl) (n : Node) : (modT p t g n).spdmI3c = n.spdmI3c := rfl
@[simp] theorem modT_spdmVdm (p t : Nat) (g : Tbl → Tbl) (n : Node) : (modT p t g n).spdmVdm = n.spdmVdm := rfl
@[simp] theorem modT_fns (p t : Nat) (g : Tbl → Tbl) (n : Node) : (modT p t g n).fns = n.fns := rfl
@[simp] theorem modT_numVfs (p t : Nat) (g : Tbl → Tbl) (n : Node) : (modT p t g n).numVfs = n.numVfs := rfl
@[simp] theorem modT_totalVfs (p t : Nat) (g : Tbl → Tbl) (n : Node) : (modT p t g n).totalVfs = n.totalVfs := rfl
@[simp] theorem modT_aptr (p t : Nat) (g : Tbl → Tbl) (n : Node) : (modT p t g n).aptr = n.aptr := rfl
@[simp] theorem modT_alast (p t : Nat) (g : Tbl → Tbl) (n : Node) : (modT p t g n).alast = n.alast := rfl
@[simp] theorem modT_ptns (p t : Nat) (g : Tbl → Tbl) (n : Node) : (modT p t g n).ptns = vmod n.ptns p (fun x => { x with tbls := mmod x.tbls t g }) := rfl
@[simp] theorem modT_cores (p t : Nat) (g : Tbl → Tbl) (n : Node) : (modT p t g n).cores = n.cores := rfl
@[simp] theorem modT_reserve (p t : Nat) (g : Tbl → Tbl) (n : Node) : (modT p t g n).reserve = n.reserve := rfl
@[simp] theorem modT_bankLvl (p t : Nat) (g : Tbl → Tbl) (n : Node) : (modT p t g n).bankLvl = n.bankLvl := rfl
@[simp] theorem modT_mem (p t : Nat) (g : Tbl → Tbl) (n : Node) : (modT p t g n).mem = n.mem := rfl
@[simp] theorem modT_flash (p t : Nat) (g : Tbl → Tbl) (n : Node) : (modT p t g n).flash = n.flash := rfl
@[simp] theorem modT_lnk (p t : Nat) (g : Tbl → Tbl) (n : Node) : (modT p t g n).lnk = n.lnk := rfl
@[simp] theorem modT_pwr (p t : Nat) (g : Tbl → Tbl) (n : Node) : (modT p t g n).pwr = n.pwr := rfl
@[simp] theorem modT_serial (p t : Nat) (g : Tbl → Tbl) (n : Node) : (modT p t g n).serial = n.serial := rfl
@[simp] theorem modT_free (p t : Nat) (g : Tbl → Tbl) (n : Node) : (modT p t g n).free = n.free := rfl
@[simp] theorem modT_hbAt (p t : Nat) (g : Tbl → Tbl) (n : Node) : (modT p t g n).hbAt = n.hbAt := rfl
@[simp] theorem modT_out (p t : Nat) (g : Tbl → Tbl) (n : Node) : (modT p t g n).out = n.out := rfl

/-! ### `modRail` -/

@[simp] theorem modRail_pins (r : Nat) (g : Rail → Rail) (n : Node) : (modRail r g n).pins = n.pins := rfl
@[simp] theorem modRail_boot (r : Nat) (g : Rail → Rail) (n : Node) : (modRail r g n).boot = n.boot := rfl
@[simp] theorem modRail_bflash (r : Nat) (g : Rail → Rail) (n : Node) : (modRail r g n).bflash = n.bflash := rfl
@[simp] theorem modRail_spdmI3c (r : Nat) (g : Rail → Rail) (n : Node) : (modRail r g n).spdmI3c = n.spdmI3c := rfl
@[simp] theorem modRail_spdmVdm (r : Nat) (g : Rail → Rail) (n : Node) : (modRail r g n).spdmVdm = n.spdmVdm := rfl
@[simp] theorem modRail_fns (r : Nat) (g : Rail → Rail) (n : Node) : (modRail r g n).fns = n.fns := rfl
@[simp] theorem modRail_numVfs (r : Nat) (g : Rail → Rail) (n : Node) : (modRail r g n).numVfs = n.numVfs := rfl
@[simp] theorem modRail_totalVfs (r : Nat) (g : Rail → Rail) (n : Node) : (modRail r g n).totalVfs = n.totalVfs := rfl
@[simp] theorem modRail_aptr (r : Nat) (g : Rail → Rail) (n : Node) : (modRail r g n).aptr = n.aptr := rfl
@[simp] theorem modRail_alast (r : Nat) (g : Rail → Rail) (n : Node) : (modRail r g n).alast = n.alast := rfl
@[simp] theorem modRail_ptns (r : Nat) (g : Rail → Rail) (n : Node) : (modRail r g n).ptns = n.ptns := rfl
@[simp] theorem modRail_cores (r : Nat) (g : Rail → Rail) (n : Node) : (modRail r g n).cores = n.cores := rfl
@[simp] theorem modRail_reserve (r : Nat) (g : Rail → Rail) (n : Node) : (modRail r g n).reserve = n.reserve := rfl
@[simp] theorem modRail_bankLvl (r : Nat) (g : Rail → Rail) (n : Node) : (modRail r g n).bankLvl = n.bankLvl := rfl
@[simp] theorem modRail_mem (r : Nat) (g : Rail → Rail) (n : Node) : (modRail r g n).mem = n.mem := rfl
@[simp] theorem modRail_flash (r : Nat) (g : Rail → Rail) (n : Node) : (modRail r g n).flash = n.flash := rfl
@[simp] theorem modRail_lnk (r : Nat) (g : Rail → Rail) (n : Node) : (modRail r g n).lnk = n.lnk := rfl
@[simp] theorem modRail_pwr (r : Nat) (g : Rail → Rail) (n : Node) : (modRail r g n).pwr = { n.pwr with rails := vmod n.pwr.rails r g } := rfl
@[simp] theorem modRail_serial (r : Nat) (g : Rail → Rail) (n : Node) : (modRail r g n).serial = n.serial := rfl
@[simp] theorem modRail_free (r : Nat) (g : Rail → Rail) (n : Node) : (modRail r g n).free = n.free := rfl
@[simp] theorem modRail_hbAt (r : Nat) (g : Rail → Rail) (n : Node) : (modRail r g n).hbAt = n.hbAt := rfl
@[simp] theorem modRail_out (r : Nat) (g : Rail → Rail) (n : Node) : (modRail r g n).out = n.out := rfl

/-! ### `modL` -/

@[simp] theorem modL_pins (l : Nat) (g : Link → Link) (n : Node) : (modL l g n).pins = n.pins := rfl
@[simp] theorem modL_boot (l : Nat) (g : Link → Link) (n : Node) : (modL l g n).boot = n.boot := rfl
@[simp] theorem modL_bflash (l : Nat) (g : Link → Link) (n : Node) : (modL l g n).bflash = n.bflash := rfl
@[simp] theorem modL_spdmI3c (l : Nat) (g : Link → Link) (n : Node) : (modL l g n).spdmI3c = n.spdmI3c := rfl
@[simp] theorem modL_spdmVdm (l : Nat) (g : Link → Link) (n : Node) : (modL l g n).spdmVdm = n.spdmVdm := rfl
@[simp] theorem modL_fns (l : Nat) (g : Link → Link) (n : Node) : (modL l g n).fns = n.fns := rfl
@[simp] theorem modL_numVfs (l : Nat) (g : Link → Link) (n : Node) : (modL l g n).numVfs = n.numVfs := rfl
@[simp] theorem modL_totalVfs (l : Nat) (g : Link → Link) (n : Node) : (modL l g n).totalVfs = n.totalVfs := rfl
@[simp] theorem modL_aptr (l : Nat) (g : Link → Link) (n : Node) : (modL l g n).aptr = n.aptr := rfl
@[simp] theorem modL_alast (l : Nat) (g : Link → Link) (n : Node) : (modL l g n).alast = n.alast := rfl
@[simp] theorem modL_ptns (l : Nat) (g : Link → Link) (n : Node) : (modL l g n).ptns = n.ptns := rfl
@[simp] theorem modL_cores (l : Nat) (g : Link → Link) (n : Node) : (modL l g n).cores = n.cores := rfl
@[simp] theorem modL_reserve (l : Nat) (g : Link → Link) (n : Node) : (modL l g n).reserve = n.reserve := rfl
@[simp] theorem modL_bankLvl (l : Nat) (g : Link → Link) (n : Node) : (modL l g n).bankLvl = n.bankLvl := rfl
@[simp] theorem modL_mem (l : Nat) (g : Link → Link) (n : Node) : (modL l g n).mem = n.mem := rfl
@[simp] theorem modL_flash (l : Nat) (g : Link → Link) (n : Node) : (modL l g n).flash = n.flash := rfl
@[simp] theorem modL_lnk (l : Nat) (g : Link → Link) (n : Node) : (modL l g n).lnk = { n.lnk with links := vmod n.lnk.links l g } := rfl
@[simp] theorem modL_pwr (l : Nat) (g : Link → Link) (n : Node) : (modL l g n).pwr = n.pwr := rfl
@[simp] theorem modL_serial (l : Nat) (g : Link → Link) (n : Node) : (modL l g n).serial = n.serial := rfl
@[simp] theorem modL_free (l : Nat) (g : Link → Link) (n : Node) : (modL l g n).free = n.free := rfl
@[simp] theorem modL_hbAt (l : Nat) (g : Link → Link) (n : Node) : (modL l g n).hbAt = n.hbAt := rfl
@[simp] theorem modL_out (l : Nat) (g : Link → Link) (n : Node) : (modL l g n).out = n.out := rfl

/-! ### `countLnk` -/

@[simp] theorem countLnk_pins (i k : Nat) (n : Node) : (countLnk i k n).pins = n.pins := rfl
@[simp] theorem countLnk_boot (i k : Nat) (n : Node) : (countLnk i k n).boot = n.boot := rfl
@[simp] theorem countLnk_bflash (i k : Nat) (n : Node) : (countLnk i k n).bflash = n.bflash := rfl
@[simp] theorem countLnk_spdmI3c (i k : Nat) (n : Node) : (countLnk i k n).spdmI3c = n.spdmI3c := rfl
@[simp] theorem countLnk_spdmVdm (i k : Nat) (n : Node) : (countLnk i k n).spdmVdm = n.spdmVdm := rfl
@[simp] theorem countLnk_fns (i k : Nat) (n : Node) : (countLnk i k n).fns = n.fns := rfl
@[simp] theorem countLnk_numVfs (i k : Nat) (n : Node) : (countLnk i k n).numVfs = n.numVfs := rfl
@[simp] theorem countLnk_totalVfs (i k : Nat) (n : Node) : (countLnk i k n).totalVfs = n.totalVfs := rfl
@[simp] theorem countLnk_aptr (i k : Nat) (n : Node) : (countLnk i k n).aptr = n.aptr := rfl
@[simp] theorem countLnk_alast (i k : Nat) (n : Node) : (countLnk i k n).alast = n.alast := rfl
@[simp] theorem countLnk_ptns (i k : Nat) (n : Node) : (countLnk i k n).ptns = n.ptns := rfl
@[simp] theorem countLnk_cores (i k : Nat) (n : Node) : (countLnk i k n).cores = n.cores := rfl
@[simp] theorem countLnk_reserve (i k : Nat) (n : Node) : (countLnk i k n).reserve = n.reserve := rfl
@[simp] theorem countLnk_bankLvl (i k : Nat) (n : Node) : (countLnk i k n).bankLvl = n.bankLvl := rfl
@[simp] theorem countLnk_mem (i k : Nat) (n : Node) : (countLnk i k n).mem = n.mem := rfl
@[simp] theorem countLnk_flash (i k : Nat) (n : Node) : (countLnk i k n).flash = n.flash := rfl
@[simp] theorem countLnk_lnk (i k : Nat) (n : Node) : (countLnk i k n).lnk = { n.lnk with counts := lmod n.lnk.counts i (· + k) } := rfl
@[simp] theorem countLnk_pwr (i k : Nat) (n : Node) : (countLnk i k n).pwr = n.pwr := rfl
@[simp] theorem countLnk_serial (i k : Nat) (n : Node) : (countLnk i k n).serial = n.serial := rfl
@[simp] theorem countLnk_free (i k : Nat) (n : Node) : (countLnk i k n).free = n.free := rfl
@[simp] theorem countLnk_hbAt (i k : Nat) (n : Node) : (countLnk i k n).hbAt = n.hbAt := rfl
@[simp] theorem countLnk_out (i k : Nat) (n : Node) : (countLnk i k n).out = n.out := rfl

/-! ### `modCart` -/

@[simp] theorem modCart_pins (s : Nat) (g : Cart → Cart) (n : Node) : (modCart s g n).pins = n.pins := rfl
@[simp] theorem modCart_boot (s : Nat) (g : Cart → Cart) (n : Node) : (modCart s g n).boot = n.boot := rfl
@[simp] theorem modCart_bflash (s : Nat) (g : Cart → Cart) (n : Node) : (modCart s g n).bflash = n.bflash := rfl
@[simp] theorem modCart_spdmI3c (s : Nat) (g : Cart → Cart) (n : Node) : (modCart s g n).spdmI3c = n.spdmI3c := rfl
@[simp] theorem modCart_spdmVdm (s : Nat) (g : Cart → Cart) (n : Node) : (modCart s g n).spdmVdm = n.spdmVdm := rfl
@[simp] theorem modCart_fns (s : Nat) (g : Cart → Cart) (n : Node) : (modCart s g n).fns = n.fns := rfl
@[simp] theorem modCart_numVfs (s : Nat) (g : Cart → Cart) (n : Node) : (modCart s g n).numVfs = n.numVfs := rfl
@[simp] theorem modCart_totalVfs (s : Nat) (g : Cart → Cart) (n : Node) : (modCart s g n).totalVfs = n.totalVfs := rfl
@[simp] theorem modCart_aptr (s : Nat) (g : Cart → Cart) (n : Node) : (modCart s g n).aptr = n.aptr := rfl
@[simp] theorem modCart_alast (s : Nat) (g : Cart → Cart) (n : Node) : (modCart s g n).alast = n.alast := rfl
@[simp] theorem modCart_ptns (s : Nat) (g : Cart → Cart) (n : Node) : (modCart s g n).ptns = n.ptns := rfl
@[simp] theorem modCart_cores (s : Nat) (g : Cart → Cart) (n : Node) : (modCart s g n).cores = n.cores := rfl
@[simp] theorem modCart_reserve (s : Nat) (g : Cart → Cart) (n : Node) : (modCart s g n).reserve = n.reserve := rfl
@[simp] theorem modCart_bankLvl (s : Nat) (g : Cart → Cart) (n : Node) : (modCart s g n).bankLvl = n.bankLvl := rfl
@[simp] theorem modCart_mem (s : Nat) (g : Cart → Cart) (n : Node) : (modCart s g n).mem = n.mem := rfl
@[simp] theorem modCart_flash (s : Nat) (g : Cart → Cart) (n : Node) : (modCart s g n).flash = { n.flash with carts := vmod n.flash.carts s g } := rfl
@[simp] theorem modCart_lnk (s : Nat) (g : Cart → Cart) (n : Node) : (modCart s g n).lnk = n.lnk := rfl
@[simp] theorem modCart_pwr (s : Nat) (g : Cart → Cart) (n : Node) : (modCart s g n).pwr = n.pwr := rfl
@[simp] theorem modCart_serial (s : Nat) (g : Cart → Cart) (n : Node) : (modCart s g n).serial = n.serial := rfl
@[simp] theorem modCart_free (s : Nat) (g : Cart → Cart) (n : Node) : (modCart s g n).free = n.free := rfl
@[simp] theorem modCart_hbAt (s : Nat) (g : Cart → Cart) (n : Node) : (modCart s g n).hbAt = n.hbAt := rfl
@[simp] theorem modCart_out (s : Nat) (g : Cart → Cart) (n : Node) : (modCart s g n).out = n.out := rfl

/-! ### `modPage` -/

@[simp] theorem modPage_pins (p : Nat) (g : Page → Page) (n : Node) : (modPage p g n).pins = n.pins := rfl
@[simp] theorem modPage_boot (p : Nat) (g : Page → Page) (n : Node) : (modPage p g n).boot = n.boot := rfl
@[simp] theorem modPage_bflash (p : Nat) (g : Page → Page) (n : Node) : (modPage p g n).bflash = n.bflash := rfl
@[simp] theorem modPage_spdmI3c (p : Nat) (g : Page → Page) (n : Node) : (modPage p g n).spdmI3c = n.spdmI3c := rfl
@[simp] theorem modPage_spdmVdm (p : Nat) (g : Page → Page) (n : Node) : (modPage p g n).spdmVdm = n.spdmVdm := rfl
@[simp] theorem modPage_fns (p : Nat) (g : Page → Page) (n : Node) : (modPage p g n).fns = n.fns := rfl
@[simp] theorem modPage_numVfs (p : Nat) (g : Page → Page) (n : Node) : (modPage p g n).numVfs = n.numVfs := rfl
@[simp] theorem modPage_totalVfs (p : Nat) (g : Page → Page) (n : Node) : (modPage p g n).totalVfs = n.totalVfs := rfl
@[simp] theorem modPage_aptr (p : Nat) (g : Page → Page) (n : Node) : (modPage p g n).aptr = n.aptr := rfl
@[simp] theorem modPage_alast (p : Nat) (g : Page → Page) (n : Node) : (modPage p g n).alast = n.alast := rfl
@[simp] theorem modPage_ptns (p : Nat) (g : Page → Page) (n : Node) : (modPage p g n).ptns = n.ptns := rfl
@[simp] theorem modPage_cores (p : Nat) (g : Page → Page) (n : Node) : (modPage p g n).cores = n.cores := rfl
@[simp] theorem modPage_reserve (p : Nat) (g : Page → Page) (n : Node) : (modPage p g n).reserve = n.reserve := rfl
@[simp] theorem modPage_bankLvl (p : Nat) (g : Page → Page) (n : Node) : (modPage p g n).bankLvl = n.bankLvl := rfl
@[simp] theorem modPage_mem (p : Nat) (g : Page → Page) (n : Node) : (modPage p g n).mem = { n.mem with pages := mmod n.mem.pages p g } := rfl
@[simp] theorem modPage_flash (p : Nat) (g : Page → Page) (n : Node) : (modPage p g n).flash = n.flash := rfl
@[simp] theorem modPage_lnk (p : Nat) (g : Page → Page) (n : Node) : (modPage p g n).lnk = n.lnk := rfl
@[simp] theorem modPage_pwr (p : Nat) (g : Page → Page) (n : Node) : (modPage p g n).pwr = n.pwr := rfl
@[simp] theorem modPage_serial (p : Nat) (g : Page → Page) (n : Node) : (modPage p g n).serial = n.serial := rfl
@[simp] theorem modPage_free (p : Nat) (g : Page → Page) (n : Node) : (modPage p g n).free = n.free := rfl
@[simp] theorem modPage_hbAt (p : Nat) (g : Page → Page) (n : Node) : (modPage p g n).hbAt = n.hbAt := rfl
@[simp] theorem modPage_out (p : Nat) (g : Page → Page) (n : Node) : (modPage p g n).out = n.out := rfl

/-! ### `modChan` -/

@[simp] theorem modChan_pins (c : Nat) (g : Chan → Chan) (n : Node) : (modChan c g n).pins = n.pins := rfl
@[simp] theorem modChan_boot (c : Nat) (g : Chan → Chan) (n : Node) : (modChan c g n).boot = n.boot := rfl
@[simp] theorem modChan_bflash (c : Nat) (g : Chan → Chan) (n : Node) : (modChan c g n).bflash = n.bflash := rfl
@[simp] theorem modChan_spdmI3c (c : Nat) (g : Chan → Chan) (n : Node) : (modChan c g n).spdmI3c = n.spdmI3c := rfl
@[simp] theorem modChan_spdmVdm (c : Nat) (g : Chan → Chan) (n : Node) : (modChan c g n).spdmVdm = n.spdmVdm := rfl
@[simp] theorem modChan_fns (c : Nat) (g : Chan → Chan) (n : Node) : (modChan c g n).fns = n.fns := rfl
@[simp] theorem modChan_numVfs (c : Nat) (g : Chan → Chan) (n : Node) : (modChan c g n).numVfs = n.numVfs := rfl
@[simp] theorem modChan_totalVfs (c : Nat) (g : Chan → Chan) (n : Node) : (modChan c g n).totalVfs = n.totalVfs := rfl
@[simp] theorem modChan_aptr (c : Nat) (g : Chan → Chan) (n : Node) : (modChan c g n).aptr = n.aptr := rfl
@[simp] theorem modChan_alast (c : Nat) (g : Chan → Chan) (n : Node) : (modChan c g n).alast = n.alast := rfl
@[simp] theorem modChan_ptns (c : Nat) (g : Chan → Chan) (n : Node) : (modChan c g n).ptns = n.ptns := rfl
@[simp] theorem modChan_cores (c : Nat) (g : Chan → Chan) (n : Node) : (modChan c g n).cores = n.cores := rfl
@[simp] theorem modChan_reserve (c : Nat) (g : Chan → Chan) (n : Node) : (modChan c g n).reserve = n.reserve := rfl
@[simp] theorem modChan_bankLvl (c : Nat) (g : Chan → Chan) (n : Node) : (modChan c g n).bankLvl = n.bankLvl := rfl
@[simp] theorem modChan_mem (c : Nat) (g : Chan → Chan) (n : Node) : (modChan c g n).mem = { n.mem with chans := vmod n.mem.chans c g } := rfl
@[simp] theorem modChan_flash (c : Nat) (g : Chan → Chan) (n : Node) : (modChan c g n).flash = n.flash := rfl
@[simp] theorem modChan_lnk (c : Nat) (g : Chan → Chan) (n : Node) : (modChan c g n).lnk = n.lnk := rfl
@[simp] theorem modChan_pwr (c : Nat) (g : Chan → Chan) (n : Node) : (modChan c g n).pwr = n.pwr := rfl
@[simp] theorem modChan_serial (c : Nat) (g : Chan → Chan) (n : Node) : (modChan c g n).serial = n.serial := rfl
@[simp] theorem modChan_free (c : Nat) (g : Chan → Chan) (n : Node) : (modChan c g n).free = n.free := rfl
@[simp] theorem modChan_hbAt (c : Nat) (g : Chan → Chan) (n : Node) : (modChan c g n).hbAt = n.hbAt := rfl
@[simp] theorem modChan_out (c : Nat) (g : Chan → Chan) (n : Node) : (modChan c g n).out = n.out := rfl

/-! ### `endsWith`, `endsBoot` -/

@[simp] theorem endsWith_pending (e : Env) (s : State) (n : Node) : (endsWith e s n).pending = s.pending := rfl
@[simp] theorem endsWith_clk (e : Env) (s : State) (n : Node) : (endsWith e s n).clk = clkOf e s := rfl
@[simp] theorem endsWith_host (e : Env) (s : State) (n : Node) : (endsWith e s n).host = deliver (hostOf e s) n.out := rfl
@[simp] theorem endsWith_node (e : Env) (s : State) (n : Node) : (endsWith e s n).node = n := rfl
@[simp] theorem endsBoot_pending (e : Env) (s : State) (n : Node) : (endsBoot e s n).pending = s.pending := rfl
@[simp] theorem endsBoot_clk (e : Env) (s : State) (n : Node) : (endsBoot e s n).clk = bootFix (clkOf e s) n := rfl
@[simp] theorem endsBoot_host (e : Env) (s : State) (n : Node) : (endsBoot e s n).host = deliver (hostOf e s) n.out := rfl
@[simp] theorem endsBoot_node (e : Env) (s : State) (n : Node) : (endsBoot e s n).node = n := rfl

/-! ### Reads of parts that an update does not touch -/

@[simp] theorem getP_modFn (f : Nat) (g : Fn → Fn) (n : Node) (j : Nat) : getP (modFn f g n) j = getP n j := rfl
@[simp] theorem getL_modFn (f : Nat) (g : Fn → Fn) (n : Node) (j : Nat) : getL (modFn f g n) j = getL n j := rfl
@[simp] theorem getRail_modFn (f : Nat) (g : Fn → Fn) (n : Node) (j : Nat) : getRail (modFn f g n) j = getRail n j := rfl
@[simp] theorem getCart_modFn (f : Nat) (g : Fn → Fn) (n : Node) (j : Nat) : getCart (modFn f g n) j = getCart n j := rfl
@[simp] theorem getPage_modFn (f : Nat) (g : Fn → Fn) (n : Node) (j : Nat) : getPage (modFn f g n) j = getPage n j := rfl
@[simp] theorem getFn_modP (p : Nat) (g : Ptn → Ptn) (n : Node) (j : Nat) : getFn (modP p g n) j = getFn n j := rfl
@[simp] theorem getL_modP (p : Nat) (g : Ptn → Ptn) (n : Node) (j : Nat) : getL (modP p g n) j = getL n j := rfl
@[simp] theorem getRail_modP (p : Nat) (g : Ptn → Ptn) (n : Node) (j : Nat) : getRail (modP p g n) j = getRail n j := rfl
@[simp] theorem getCart_modP (p : Nat) (g : Ptn → Ptn) (n : Node) (j : Nat) : getCart (modP p g n) j = getCart n j := rfl
@[simp] theorem getPage_modP (p : Nat) (g : Ptn → Ptn) (n : Node) (j : Nat) : getPage (modP p g n) j = getPage n j := rfl
@[simp] theorem getFn_modPwr (g : Power → Power) (n : Node) (j : Nat) : getFn (modPwr g n) j = getFn n j := rfl
@[simp] theorem getP_modPwr (g : Power → Power) (n : Node) (j : Nat) : getP (modPwr g n) j = getP n j := rfl
@[simp] theorem getL_modPwr (g : Power → Power) (n : Node) (j : Nat) : getL (modPwr g n) j = getL n j := rfl
@[simp] theorem getCart_modPwr (g : Power → Power) (n : Node) (j : Nat) : getCart (modPwr g n) j = getCart n j := rfl
@[simp] theorem getPage_modPwr (g : Power → Power) (n : Node) (j : Nat) : getPage (modPwr g n) j = getPage n j := rfl
@[simp] theorem getFn_modLnk (g : LinkBlk → LinkBlk) (n : Node) (j : Nat) : getFn (modLnk g n) j = getFn n j := rfl
@[simp] theorem getP_modLnk (g : LinkBlk → LinkBlk) (n : Node) (j : Nat) : getP (modLnk g n) j = getP n j := rfl
@[simp] theorem getRail_modLnk (g : LinkBlk → LinkBlk) (n : Node) (j : Nat) : getRail (modLnk g n) j = getRail n j := rfl
@[simp] theorem getCart_modLnk (g : LinkBlk → LinkBlk) (n : Node) (j : Nat) : getCart (modLnk g n) j = getCart n j := rfl
@[simp] theorem getPage_modLnk (g : LinkBlk → LinkBlk) (n : Node) (j : Nat) : getPage (modLnk g n) j = getPage n j := rfl
@[simp] theorem getFn_modBoot (g : Boot → Boot) (n : Node) (j : Nat) : getFn (modBoot g n) j = getFn n j := rfl
@[simp] theorem getP_modBoot (g : Boot → Boot) (n : Node) (j : Nat) : getP (modBoot g n) j = getP n j := rfl
@[simp] theorem getL_modBoot (g : Boot → Boot) (n : Node) (j : Nat) : getL (modBoot g n) j = getL n j := rfl
@[simp] theorem getRail_modBoot (g : Boot → Boot) (n : Node) (j : Nat) : getRail (modBoot g n) j = getRail n j := rfl
@[simp] theorem getCart_modBoot (g : Boot → Boot) (n : Node) (j : Nat) : getCart (modBoot g n) j = getCart n j := rfl
@[simp] theorem getPage_modBoot (g : Boot → Boot) (n : Node) (j : Nat) : getPage (modBoot g n) j = getPage n j := rfl
@[simp] theorem getFn_modMem (g : MemSt → MemSt) (n : Node) (j : Nat) : getFn (modMem g n) j = getFn n j := rfl
@[simp] theorem getP_modMem (g : MemSt → MemSt) (n : Node) (j : Nat) : getP (modMem g n) j = getP n j := rfl
@[simp] theorem getL_modMem (g : MemSt → MemSt) (n : Node) (j : Nat) : getL (modMem g n) j = getL n j := rfl
@[simp] theorem getRail_modMem (g : MemSt → MemSt) (n : Node) (j : Nat) : getRail (modMem g n) j = getRail n j := rfl
@[simp] theorem getCart_modMem (g : MemSt → MemSt) (n : Node) (j : Nat) : getCart (modMem g n) j = getCart n j := rfl
@[simp] theorem getFn_modFls (g : FlashSt → FlashSt) (n : Node) (j : Nat) : getFn (modFls g n) j = getFn n j := rfl
@[simp] theorem getP_modFls (g : FlashSt → FlashSt) (n : Node) (j : Nat) : getP (modFls g n) j = getP n j := rfl
@[simp] theorem getL_modFls (g : FlashSt → FlashSt) (n : Node) (j : Nat) : getL (modFls g n) j = getL n j := rfl
@[simp] theorem getRail_modFls (g : FlashSt → FlashSt) (n : Node) (j : Nat) : getRail (modFls g n) j = getRail n j := rfl
@[simp] theorem getPage_modFls (g : FlashSt → FlashSt) (n : Node) (j : Nat) : getPage (modFls g n) j = getPage n j := rfl
@[simp] theorem getFn_modKey (s : Nat) (g : KeySlot → KeySlot) (n : Node) (j : Nat) : getFn (modKey s g n) j = getFn n j := rfl
@[simp] theorem getP_modKey (s : Nat) (g : KeySlot → KeySlot) (n : Node) (j : Nat) : getP (modKey s g n) j = getP n j := rfl
@[simp] theorem getL_modKey (s : Nat) (g : KeySlot → KeySlot) (n : Node) (j : Nat) : getL (modKey s g n) j = getL n j := rfl
@[simp] theorem getRail_modKey (s : Nat) (g : KeySlot → KeySlot) (n : Node) (j : Nat) : getRail (modKey s g n) j = getRail n j := rfl
@[simp] theorem getCart_modKey (s : Nat) (g : KeySlot → KeySlot) (n : Node) (j : Nat) : getCart (modKey s g n) j = getCart n j := rfl
@[simp] theorem getPage_modKey (s : Nat) (g : KeySlot → KeySlot) (n : Node) (j : Nat) : getPage (modKey s g n) j = getPage n j := rfl
@[simp] theorem getFn_modCore (i : Nat) (g : PCore → PCore) (n : Node) (j : Nat) : getFn (modCore i g n) j = getFn n j := rfl
@[simp] theorem getP_modCore (i : Nat) (g : PCore → PCore) (n : Node) (j : Nat) : getP (modCore i g n) j = getP n j := rfl
@[simp] theorem getL_modCore (i : Nat) (g : PCore → PCore) (n : Node) (j : Nat) : getL (modCore i g n) j = getL n j := rfl
@[simp] theorem getRail_modCore (i : Nat) (g : PCore → PCore) (n : Node) (j : Nat) : getRail (modCore i g n) j = getRail n j := rfl
@[simp] theorem getCart_modCore (i : Nat) (g : PCore → PCore) (n : Node) (j : Nat) : getCart (modCore i g n) j = getCart n j := rfl
@[simp] theorem getPage_modCore (i : Nat) (g : PCore → PCore) (n : Node) (j : Nat) : getPage (modCore i g n) j = getPage n j := rfl
@[simp] theorem getFn_emit (o : Out) (n : Node) (j : Nat) : getFn (emit o n) j = getFn n j := rfl
@[simp] theorem getP_emit (o : Out) (n : Node) (j : Nat) : getP (emit o n) j = getP n j := rfl
@[simp] theorem getL_emit (o : Out) (n : Node) (j : Nat) : getL (emit o n) j = getL n j := rfl
@[simp] theorem getRail_emit (o : Out) (n : Node) (j : Nat) : getRail (emit o n) j = getRail n j := rfl
@[simp] theorem getCart_emit (o : Out) (n : Node) (j : Nat) : getCart (emit o n) j = getCart n j := rfl
@[simp] theorem getPage_emit (o : Out) (n : Node) (j : Nat) : getPage (emit o n) j = getPage n j := rfl
@[simp] theorem getP_modQ (f q : Nat) (g : Queue → Queue) (n : Node) (j : Nat) : getP (modQ f q g n) j = getP n j := rfl
@[simp] theorem getL_modQ (f q : Nat) (g : Queue → Queue) (n : Node) (j : Nat) : getL (modQ f q g n) j = getL n j := rfl
@[simp] theorem getRail_modQ (f q : Nat) (g : Queue → Queue) (n : Node) (j : Nat) : getRail (modQ f q g n) j = getRail n j := rfl
@[simp] theorem getCart_modQ (f q : Nat) (g : Queue → Queue) (n : Node) (j : Nat) : getCart (modQ f q g n) j = getCart n j := rfl
@[simp] theorem getPage_modQ (f q : Nat) (g : Queue → Queue) (n : Node) (j : Nat) : getPage (modQ f q g n) j = getPage n j := rfl
@[simp] theorem getP_raiseAt (c f : Nat) (n : Node) (j : Nat) : getP (raiseAt c f n) j = getP n j := rfl
@[simp] theorem getL_raiseAt (c f : Nat) (n : Node) (j : Nat) : getL (raiseAt c f n) j = getL n j := rfl
@[simp] theorem getRail_raiseAt (c f : Nat) (n : Node) (j : Nat) : getRail (raiseAt c f n) j = getRail n j := rfl
@[simp] theorem getCart_raiseAt (c f : Nat) (n : Node) (j : Nat) : getCart (raiseAt c f n) j = getCart n j := rfl
@[simp] theorem getPage_raiseAt (c f : Nat) (n : Node) (j : Nat) : getPage (raiseAt c f n) j = getPage n j := rfl
@[simp] theorem getFn_count (p : Nat) (c : PtnCtr) (k : Nat) (n : Node) (j : Nat) : getFn (count p c k n) j = getFn n j := rfl
@[simp] theorem getL_count (p : Nat) (c : PtnCtr) (k : Nat) (n : Node) (j : Nat) : getL (count p c k n) j = getL n j := rfl
@[simp] theorem getRail_count (p : Nat) (c : PtnCtr) (k : Nat) (n : Node) (j : Nat) : getRail (count p c k n) j = getRail n j := rfl
@[simp] theorem getCart_count (p : Nat) (c : PtnCtr) (k : Nat) (n : Node) (j : Nat) : getCart (count p c k n) j = getCart n j := rfl
@[simp] theorem getPage_count (p : Nat) (c : PtnCtr) (k : Nat) (n : Node) (j : Nat) : getPage (count p c k n) j = getPage n j := rfl
@[simp] theorem getFn_modC (p c : Nat) (g : Coll → Coll) (n : Node) (j : Nat) : getFn (modC p c g n) j = getFn n j := rfl
@[simp] theorem getL_modC (p c : Nat) (g : Coll → Coll) (n : Node) (j : Nat) : getL (modC p c g n) j = getL n j := rfl
@[simp] theorem getRail_modC (p c : Nat) (g : Coll → Coll) (n : Node) (j : Nat) : getRail (modC p c g n) j = getRail n j := rfl
@[simp] theorem getCart_modC (p c : Nat) (g : Coll → Coll) (n : Node) (j : Nat) : getCart (modC p c g n) j = getCart n j := rfl
@[simp] theorem getPage_modC (p c : Nat) (g : Coll → Coll) (n : Node) (j : Nat) : getPage (modC p c g n) j = getPage n j := rfl
@[simp] theorem getFn_modT (p t : Nat) (g : Tbl → Tbl) (n : Node) (j : Nat) : getFn (modT p t g n) j = getFn n j := rfl
@[simp] theorem getL_modT (p t : Nat) (g : Tbl → Tbl) (n : Node) (j : Nat) : getL (modT p t g n) j = getL n j := rfl
@[simp] theorem getRail_modT (p t : Nat) (g : Tbl → Tbl) (n : Node) (j : Nat) : getRail (modT p t g n) j = getRail n j := rfl
@[simp] theorem getCart_modT (p t : Nat) (g : Tbl → Tbl) (n : Node) (j : Nat) : getCart (modT p t g n) j = getCart n j := rfl
@[simp] theorem getPage_modT (p t : Nat) (g : Tbl → Tbl) (n : Node) (j : Nat) : getPage (modT p t g n) j = getPage n j := rfl
@[simp] theorem getFn_modRail (r : Nat) (g : Rail → Rail) (n : Node) (j : Nat) : getFn (modRail r g n) j = getFn n j := rfl
@[simp] theorem getP_modRail (r : Nat) (g : Rail → Rail) (n : Node) (j : Nat) : getP (modRail r g n) j = getP n j := rfl
@[simp] theorem getL_modRail (r : Nat) (g : Rail → Rail) (n : Node) (j : Nat) : getL (modRail r g n) j = getL n j := rfl
@[simp] theorem getCart_modRail (r : Nat) (g : Rail → Rail) (n : Node) (j : Nat) : getCart (modRail r g n) j = getCart n j := rfl
@[simp] theorem getPage_modRail (r : Nat) (g : Rail → Rail) (n : Node) (j : Nat) : getPage (modRail r g n) j = getPage n j := rfl
@[simp] theorem getFn_modL (l : Nat) (g : Link → Link) (n : Node) (j : Nat) : getFn (modL l g n) j = getFn n j := rfl
@[simp] theorem getP_modL (l : Nat) (g : Link → Link) (n : Node) (j : Nat) : getP (modL l g n) j = getP n j := rfl
@[simp] theorem getRail_modL (l : Nat) (g : Link → Link) (n : Node) (j : Nat) : getRail (modL l g n) j = getRail n j := rfl
@[simp] theorem getCart_modL (l : Nat) (g : Link → Link) (n : Node) (j : Nat) : getCart (modL l g n) j = getCart n j := rfl
@[simp] theorem getPage_modL (l : Nat) (g : Link → Link) (n : Node) (j : Nat) : getPage (modL l g n) j = getPage n j := rfl
@[simp] theorem getFn_countLnk (i k : Nat) (n : Node) (j : Nat) : getFn (countLnk i k n) j = getFn n j := rfl
@[simp] theorem getP_countLnk (i k : Nat) (n : Node) (j : Nat) : getP (countLnk i k n) j = getP n j := rfl
@[simp] theorem getRail_countLnk (i k : Nat) (n : Node) (j : Nat) : getRail (countLnk i k n) j = getRail n j := rfl
@[simp] theorem getCart_countLnk (i k : Nat) (n : Node) (j : Nat) : getCart (countLnk i k n) j = getCart n j := rfl
@[simp] theorem getPage_countLnk (i k : Nat) (n : Node) (j : Nat) : getPage (countLnk i k n) j = getPage n j := rfl
@[simp] theorem getFn_modCart (s : Nat) (g : Cart → Cart) (n : Node) (j : Nat) : getFn (modCart s g n) j = getFn n j := rfl
@[simp] theorem getP_modCart (s : Nat) (g : Cart → Cart) (n : Node) (j : Nat) : getP (modCart s g n) j = getP n j := rfl
@[simp] theorem getL_modCart (s : Nat) (g : Cart → Cart) (n : Node) (j : Nat) : getL (modCart s g n) j = getL n j := rfl
@[simp] theorem getRail_modCart (s : Nat) (g : Cart → Cart) (n : Node) (j : Nat) : getRail (modCart s g n) j = getRail n j := rfl
@[simp] theorem getPage_modCart (s : Nat) (g : Cart → Cart) (n : Node) (j : Nat) : getPage (modCart s g n) j = getPage n j := rfl
@[simp] theorem getFn_modPage (p : Nat) (g : Page → Page) (n : Node) (j : Nat) : getFn (modPage p g n) j = getFn n j := rfl
@[simp] theorem getP_modPage (p : Nat) (g : Page → Page) (n : Node) (j : Nat) : getP (modPage p g n) j = getP n j := rfl
@[simp] theorem getL_modPage (p : Nat) (g : Page → Page) (n : Node) (j : Nat) : getL (modPage p g n) j = getL n j := rfl
@[simp] theorem getRail_modPage (p : Nat) (g : Page → Page) (n : Node) (j : Nat) : getRail (modPage p g n) j = getRail n j := rfl
@[simp] theorem getCart_modPage (p : Nat) (g : Page → Page) (n : Node) (j : Nat) : getCart (modPage p g n) j = getCart n j := rfl
@[simp] theorem getFn_modChan (c : Nat) (g : Chan → Chan) (n : Node) (j : Nat) : getFn (modChan c g n) j = getFn n j := rfl
@[simp] theorem getP_modChan (c : Nat) (g : Chan → Chan) (n : Node) (j : Nat) : getP (modChan c g n) j = getP n j := rfl
@[simp] theorem getL_modChan (c : Nat) (g : Chan → Chan) (n : Node) (j : Nat) : getL (modChan c g n) j = getL n j := rfl
@[simp] theorem getRail_modChan (c : Nat) (g : Chan → Chan) (n : Node) (j : Nat) : getRail (modChan c g n) j = getRail n j := rfl
@[simp] theorem getCart_modChan (c : Nat) (g : Chan → Chan) (n : Node) (j : Nat) : getCart (modChan c g n) j = getCart n j := rfl

end Sys2Proof.Machine
end

