-- ==== Sys2Proof/Laws/Links.lean ====
section
/-! SUPPORT. What sending changes: a pump changes its own link's transmit side and the outputs, nothing of what the link is or has received. -/

namespace Sys2Proof.Machine

/-- A pump leaves a link's state, level, reason, peer and receive side. -/
theorem pumpFlits_keeps (now : Nat) (tc : W64) (l : Nat) : ∀ (k : Nat) (x : Link) (d : List Out),
   (pumpFlits now tc l k x d).1.st = x.st ∧ (pumpFlits now tc l k x d).1.level = x.level ∧ (pumpFlits now tc l k x d).1.why = x.why ∧ (pumpFlits now tc l k x d).1.peer = x.peer ∧
   (pumpFlits now tc l k x d).1.rxSeq = x.rxSeq ∧ (pumpFlits now tc l k x d).1.asm_ = x.asm_ := by
  intro k
  induction k with
  | zero => intro x d; simp [pumpFlits]
  | succ k ih =>
    intro x d
    have hn : ∀ c y, nextClass tc x = some (c, y) → y.st = x.st ∧ y.level = x.level ∧ y.why = x.why ∧ y.peer = x.peer ∧ y.rxSeq = x.rxSeq ∧ y.asm_ = x.asm_ := by
      intro c y h
      unfold nextClass at h
      split at h
      · simp at h; obtain ⟨rfl, rfl⟩ := h; simp
      split at h
      · simp at h; obtain ⟨rfl, rfl⟩ := h; simp
      dsimp only at h
      split at h
      · simp at h
      split at h
      · simp at h
      · simp only [Option.some.injEq, Prod.mk.injEq] at h
        obtain ⟨rfl, rfl⟩ := h
        split <;> simp
    rw [pumpFlits]
    split
    · simp
    split
    · simp
    rename_i c y hy
    obtain ⟨h1, h2, h3, h4, h5, h6⟩ := hn _ _ hy
    split
    · exact ⟨h1, h2, h3, h4, h5, h6⟩
    split
    · exact ⟨h1, h2, h3, h4, h5, h6⟩
    dsimp only
    have := ih
    rename_i e _
    refine ⟨?_, ?_, ?_, ?_, ?_, ?_⟩ <;> simp only [(ih _ _).1, (ih _ _).2.1, (ih _ _).2.2.1, (ih _ _).2.2.2.1, (ih _ _).2.2.2.2.1, (ih _ _).2.2.2.2.2, h1, h2, h3, h4, h5, h6]
theorem emits_frame (done : List Out) (n : Node) : foldNode done emit n = { n with out := n.out ++ done } := by
  unfold foldNode
  induction done generalizing n with
  | nil => simp
  | cons x xs ih => rw [List.foldl_cons, ih]; simp [emit]
/-- A pump changes its link and adds flits and messages to the outputs. -/
theorem pump_eq (clk : Clock) (l : Nat) (n : Node) : pump clk l n = { modL l (fun _ => (pumpFlits clk.node n.lnk.tcCfg l 2048 (getL n l) []).1) n with
    out := n.out ++ (pumpFlits clk.node n.lnk.tcCfg l 2048 (getL n l) []).2 } := by
  unfold pump
  generalize pumpFlits clk.node n.lnk.tcCfg l 2048 (getL n l) [] = r
  obtain ⟨x, d⟩ := r
  simp only [emits_frame]; rfl
theorem getL_pump_self (clk : Clock) {l : Nat} (n : Node) (h : l < 36) : getL (pump clk l n) l = (pumpFlits clk.node n.lnk.tcCfg l 2048 (getL n l) []).1 := by
  rw [pump_eq]; exact getL_modL_self n _ h
theorem pump_ptns (clk l n) : (pump clk l n).ptns = n.ptns := by rw [pump_eq]; rfl
theorem settleLink_getL {l : Nat} (n : Node) (h : l < 36) : (getL (settleLink l n) l).st = (getL n l).st ∧ (getL (settleLink l n) l).level = (getL n l).level ∧ (getL (settleLink l n) l).why = (getL n l).why ∧
   (getL (settleLink l n) l).peer = (getL n l).peer ∧ (settleLink l n).ptns = n.ptns := by
  unfold settleLink
  dsimp only
  split
  · simp
  · split
    · simp [getL_modL_self _ _ h]
    · simp [getL_modL_self _ _ h]

end Sys2Proof.Machine
end

