-- ==== Sys2Proof/Laws/Mem.lean ====
section
/-! SUPPORT. Maps by key and the byte memory: a read after a write to the same place gives what was written, a write leaves every other place alone, and every operation keeps the canonical form. -/

namespace Sys2Proof.Machine

/-! ### Maps -/

/-- Keys strictly rising, all at least `k`. -/
def keysFrom {α : Type} : Nat → List (Nat × α) → Prop
  | _, [] => True
  | k, x :: xs => k ≤ x.1 ∧ keysFrom (x.1 + 1) xs
theorem keysFrom_mono {α : Type} : ∀ (m : List (Nat × α)) {j k : Nat}, j ≤ k → keysFrom k m → keysFrom j m
  | [], _, _, _, _ => trivial
  | _ :: _, _, _, h, ⟨h1, h2⟩ => ⟨Nat.le_trans h h1, h2⟩
theorem mget_none_of_lt {α : Type} : ∀ (m : List (Nat × α)) {j k : Nat}, keysFrom k m → j < k → mget m j = none
  | [], _, _, _, _ => rfl
  | (a, x) :: m, j, k, ⟨h1, h2⟩, h => by
    have ha : k ≤ a := h1
    have hne : (a == j) = false := by simp; omega
    have := mget_none_of_lt m h2 (show j < a + 1 by omega)
    simp only [mget, List.find?, hne] at this ⊢; exact this
theorem mget_cons {α : Type} (a : Nat) (x : α) (m : List (Nat × α)) (j : Nat) : mget ((a, x) :: m) j = if a = j then some x else mget m j := by
  by_cases h : a = j
  · simp [mget, List.find?, h]
  · have : (a == j) = false := by simpa using h
    simp only [mget, List.find?, this, h, if_false]
theorem keysFrom_mset {α : Type} : ∀ (m : List (Nat × α)) {k a : Nat} (v : α), keysFrom k m → k ≤ a → keysFrom k (mset m a v)
  | [], _, _, _, _, h => ⟨h, trivial⟩
  | (b, x) :: m, k, a, v, ⟨h1, h2⟩, h => by
    simp only [mset]
    split
    · exact ⟨h, by omega, h2⟩
    · split
      · exact ⟨h, keysFrom_mono m (by omega) h2⟩
      · exact ⟨h1, keysFrom_mset m v h2 (by omega)⟩
theorem mget_mset {α : Type} : ∀ (m : List (Nat × α)) {k : Nat} (a : Nat) (v : α) (j : Nat), keysFrom k m → mget (mset m a v) j = if a = j then some v else mget m j
  | [], _, a, v, j, _ => by simp [mset, mget_cons]
  | (b, x) :: m, k, a, v, j, ⟨h1, h2⟩ => by
    simp only [mset]
    split
    · simp [mget_cons]
    · split
      · rename_i h; subst h; simp only [mget_cons]; split <;> rfl
      · rw [mget_cons, mget_mset m a v j h2, mget_cons]; split <;> split <;> first | rfl | omega
theorem keysFrom_filter {α : Type} (f : Nat × α → Bool) : ∀ (m : List (Nat × α)) {k : Nat}, keysFrom k m → keysFrom k (m.filter f)
  | [], _, _ => trivial
  | x :: m, k, ⟨h1, h2⟩ => by
    simp only [List.filter]
    split
    · exact ⟨h1, keysFrom_filter f m h2⟩
    · exact keysFrom_mono _ (Nat.le_trans h1 (Nat.le_succ _)) (keysFrom_filter f m h2)
theorem mget_mdel {α : Type} : ∀ (m : List (Nat × α)) (a j : Nat), mget (mdel m a) j = if a = j then none else mget m j
  | [], _, _ => by simp [mdel, mget]
  | (b, x) :: m, a, j => by
    have ih := mget_mdel m a j
    simp only [mdel, List.filter] at ih ⊢
    by_cases h : b = a
    · subst h; simp only [bne_self_eq_false, ih, mget_cons]; split <;> rfl
    · simp only [bne_iff_ne.2 h, mget_cons, ih]; split <;> split <;> first | rfl | omega
theorem keysFrom_mdel {α : Type} (m : List (Nat × α)) {k : Nat} (a : Nat) (h : keysFrom k m) : keysFrom k (mdel m a) := keysFrom_filter _ m h

/-! ### The byte memory -/

theorem risingFrom_iff : ∀ (m : Mem) (k : Nat), risingFrom k m = true ↔ keysFrom k m
  | [], _ => by simp [risingFrom, keysFrom]
  | c :: cs, k => by simp [risingFrom, keysFrom, risingFrom_iff cs]
theorem wf_iff (m : Mem) : Mem.wf m = true ↔ keysFrom 0 m ∧ ∀ c ∈ m, c.2 ≠ 0 := by
  simp [Mem.wf, risingFrom_iff]
theorem mem_mset {α : Type} : ∀ (m : List (Nat × α)) (a : Nat) (v : α) (c : Nat × α), c ∈ mset m a v → c = (a, v) ∨ c ∈ m
  | [], _, _, _, h => by simpa [mset] using h
  | (b, x) :: m, a, v, c, h => by
    simp only [mset] at h
    split at h
    · simpa using h
    · split at h
      · rcases List.mem_cons.1 h with h | h
        · exact .inl h
        · exact .inr (List.mem_cons_of_mem _ h)
      · rcases List.mem_cons.1 h with h | h
        · exact .inr (h ▸ List.mem_cons_self)
        · exact (mem_mset m a v c h).imp id (List.mem_cons_of_mem _)
/-- A write keeps the canonical form. -/
theorem Mem.write_wf (m : Mem) (a : Nat) (b : Byte) (h : Mem.wf m = true) : Mem.wf (Mem.write m a b) = true := by
  obtain ⟨h1, h2⟩ := (wf_iff m).1 h
  refine (wf_iff _).2 ?_
  unfold Mem.write
  split
  · exact ⟨keysFrom_mdel m a h1, fun c hc => h2 c (List.mem_filter.1 hc).1⟩
  · rename_i hb
    refine ⟨keysFrom_mset m b h1 (Nat.zero_le a), fun c hc => ?_⟩
    rcases mem_mset m a b c hc with rfl | hc
    · exact hb
    · exact h2 c hc
/-- A read after a write. -/
theorem Mem.read_write (m : Mem) (a j : Nat) (b : Byte) (h : Mem.wf m = true) : Mem.read (Mem.write m a b) j = if a = j then b else Mem.read m j := by
  obtain ⟨h1, _⟩ := (wf_iff m).1 h
  unfold Mem.read Mem.write
  by_cases hb : b = 0
  · subst hb; simp only [if_true, mget_mdel]; split <;> rfl
  · simp only [hb, if_false, mget_mset m a b j h1]; split <;> rfl
/-- Writes of several bytes keep the canonical form. -/
theorem Mem.writeN_wf : ∀ (bs : List Byte) (m : Mem) (a : Nat), Mem.wf m = true → Mem.wf (Mem.writeN m a bs) = true
  | [], _, _, h => h
  | b :: bs, m, a, h => Mem.writeN_wf bs _ (a + 1) (Mem.write_wf m a b h)
/-- The host's stores keep the canonical form. -/
theorem storeAll_wf : ∀ (l : List (Nat × List Byte)) (m : Mem), Mem.wf m = true → Mem.wf (storeAll m l) = true
  | [], _, h => h
  | x :: l, m, h => storeAll_wf l (Mem.writeN m x.1 x.2) (Mem.writeN_wf x.2 m x.1 h)
/-- So do the node's writes. -/
theorem deliver_wf : ∀ (l : List Out) (m : Mem), Mem.wf m = true → Mem.wf (deliver m l) = true
  | [], _, h => h
  | o :: l, m, h => by
    refine deliver_wf l _ ?_
    cases o <;> first | exact Mem.writeN_wf _ _ _ h | exact h

end Sys2Proof.Machine
end

