-- ==== Sys2Proof/Laws/Ops.lean ====
section
/-! SUPPORT. Everything the shared operations can change, said once: completions, attention, faults, the end of a gate, requests to a rail, the fetch. -/

namespace Sys2Proof.Machine

/-- What changes when an MSI-X message leaves or pends: `fns`, `out`. -/
theorem raiseVec_frame (f v : Nat) (h : Bool) (n : Node) : raiseVec f v h n = { n with fns := (raiseVec f v h n).fns, out := (raiseVec f v h n).out } := by
  unfold raiseVec; dsimp only; split
  · rfl
  · split <;> rfl
@[simp] theorem raiseVec_pins (f v : Nat) (h : Bool) (n : Node) : (raiseVec f v h n).pins = n.pins := by rw [raiseVec_frame]
@[simp] theorem raiseVec_boot (f v : Nat) (h : Bool) (n : Node) : (raiseVec f v h n).boot = n.boot := by rw [raiseVec_frame]
@[simp] theorem raiseVec_bflash (f v : Nat) (h : Bool) (n : Node) : (raiseVec f v h n).bflash = n.bflash := by rw [raiseVec_frame]
@[simp] theorem raiseVec_spdmI3c (f v : Nat) (h : Bool) (n : Node) : (raiseVec f v h n).spdmI3c = n.spdmI3c := by rw [raiseVec_frame]
@[simp] theorem raiseVec_spdmVdm (f v : Nat) (h : Bool) (n : Node) : (raiseVec f v h n).spdmVdm = n.spdmVdm := by rw [raiseVec_frame]
@[simp] theorem raiseVec_numVfs (f v : Nat) (h : Bool) (n : Node) : (raiseVec f v h n).numVfs = n.numVfs := by rw [raiseVec_frame]
@[simp] theorem raiseVec_totalVfs (f v : Nat) (h : Bool) (n : Node) : (raiseVec f v h n).totalVfs = n.totalVfs := by rw [raiseVec_frame]
@[simp] theorem raiseVec_aptr (f v : Nat) (h : Bool) (n : Node) : (raiseVec f v h n).aptr = n.aptr := by rw [raiseVec_frame]
@[simp] theorem raiseVec_alast (f v : Nat) (h : Bool) (n : Node) : (raiseVec f v h n).alast = n.alast := by rw [raiseVec_frame]
@[simp] theorem raiseVec_ptns (f v : Nat) (h : Bool) (n : Node) : (raiseVec f v h n).ptns = n.ptns := by rw [raiseVec_frame]
@[simp] theorem raiseVec_cores (f v : Nat) (h : Bool) (n : Node) : (raiseVec f v h n).cores = n.cores := by rw [raiseVec_frame]
@[simp] theorem raiseVec_reserve (f v : Nat) (h : Bool) (n : Node) : (raiseVec f v h n).reserve = n.reserve := by rw [raiseVec_frame]
@[simp] theorem raiseVec_bankLvl (f v : Nat) (h : Bool) (n : Node) : (raiseVec f v h n).bankLvl = n.bankLvl := by rw [raiseVec_frame]
@[simp] theorem raiseVec_mem (f v : Nat) (h : Bool) (n : Node) : (raiseVec f v h n).mem = n.mem := by rw [raiseVec_frame]
@[simp] theorem raiseVec_flash (f v : Nat) (h : Bool) (n : Node) : (raiseVec f v h n).flash = n.flash := by rw [raiseVec_frame]
@[simp] theorem raiseVec_lnk (f v : Nat) (h : Bool) (n : Node) : (raiseVec f v h n).lnk = n.lnk := by rw [raiseVec_frame]
@[simp] theorem raiseVec_pwr (f v : Nat) (h : Bool) (n : Node) : (raiseVec f v h n).pwr = n.pwr := by rw [raiseVec_frame]
@[simp] theorem raiseVec_serial (f v : Nat) (h : Bool) (n : Node) : (raiseVec f v h n).serial = n.serial := by rw [raiseVec_frame]
@[simp] theorem raiseVec_free (f v : Nat) (h : Bool) (n : Node) : (raiseVec f v h n).free = n.free := by rw [raiseVec_frame]
@[simp] theorem raiseVec_hbAt (f v : Nat) (h : Bool) (n : Node) : (raiseVec f v h n).hbAt = n.hbAt := by rw [raiseVec_frame]

/-- What changes when the vector of a completion queue is raised: `fns`, `out`. -/
theorem signal_frame (f q : Nat) (n : Node) : signal f q n = { n with fns := (signal f q n).fns, out := (signal f q n).out } := by
  unfold signal; split
  · rfl
  · rw [raiseVec_frame]; rfl
@[simp] theorem signal_pins (f q : Nat) (n : Node) : (signal f q n).pins = n.pins := by rw [signal_frame]
@[simp] theorem signal_boot (f q : Nat) (n : Node) : (signal f q n).boot = n.boot := by rw [signal_frame]
@[simp] theorem signal_bflash (f q : Nat) (n : Node) : (signal f q n).bflash = n.bflash := by rw [signal_frame]
@[simp] theorem signal_spdmI3c (f q : Nat) (n : Node) : (signal f q n).spdmI3c = n.spdmI3c := by rw [signal_frame]
@[simp] theorem signal_spdmVdm (f q : Nat) (n : Node) : (signal f q n).spdmVdm = n.spdmVdm := by rw [signal_frame]
@[simp] theorem signal_numVfs (f q : Nat) (n : Node) : (signal f q n).numVfs = n.numVfs := by rw [signal_frame]
@[simp] theorem signal_totalVfs (f q : Nat) (n : Node) : (signal f q n).totalVfs = n.totalVfs := by rw [signal_frame]
@[simp] theorem signal_aptr (f q : Nat) (n : Node) : (signal f q n).aptr = n.aptr := by rw [signal_frame]
@[simp] theorem signal_alast (f q : Nat) (n : Node) : (signal f q n).alast = n.alast := by rw [signal_frame]
@[simp] theorem signal_ptns (f q : Nat) (n : Node) : (signal f q n).ptns = n.ptns := by rw [signal_frame]
@[simp] theorem signal_cores (f q : Nat) (n : Node) : (signal f q n).cores = n.cores := by rw [signal_frame]
@[simp] theorem signal_reserve (f q : Nat) (n : Node) : (signal f q n).reserve = n.reserve := by rw [signal_frame]
@[simp] theorem signal_bankLvl (f q : Nat) (n : Node) : (signal f q n).bankLvl = n.bankLvl := by rw [signal_frame]
@[simp] theorem signal_mem (f q : Nat) (n : Node) : (signal f q n).mem = n.mem := by rw [signal_frame]
@[simp] theorem signal_flash (f q : Nat) (n : Node) : (signal f q n).flash = n.flash := by rw [signal_frame]
@[simp] theorem signal_lnk (f q : Nat) (n : Node) : (signal f q n).lnk = n.lnk := by rw [signal_frame]
@[simp] theorem signal_pwr (f q : Nat) (n : Node) : (signal f q n).pwr = n.pwr := by rw [signal_frame]
@[simp] theorem signal_serial (f q : Nat) (n : Node) : (signal f q n).serial = n.serial := by rw [signal_frame]
@[simp] theorem signal_free (f q : Nat) (n : Node) : (signal f q n).free = n.free := by rw [signal_frame]
@[simp] theorem signal_hbAt (f q : Nat) (n : Node) : (signal f q n).hbAt = n.hbAt := by rw [signal_frame]

/-- What changes when a completion entry is written: `fns`, `out`. -/
theorem putCqe_frame (clk : Clock) (f q h : Nat) (hb : Bool) (cid : Nat) (d : Bool) (st r : Nat) (n : Node) : putCqe clk f q h hb cid d st r n = { n with fns := (putCqe clk f q h hb cid d st r n).fns, out := (putCqe clk f q h hb cid d st r n).out } := by
  unfold putCqe; split
  · rfl
  · dsimp only; split
    · split
      · rfl
      · rw [raiseVec_frame]; rfl
    · split
      · rw [signal_frame]; rfl
      · rfl
@[simp] theorem putCqe_pins (clk : Clock) (f q h : Nat) (hb : Bool) (cid : Nat) (d : Bool) (st r : Nat) (n : Node) : (putCqe clk f q h hb cid d st r n).pins = n.pins := by rw [putCqe_frame]
@[simp] theorem putCqe_boot (clk : Clock) (f q h : Nat) (hb : Bool) (cid : Nat) (d : Bool) (st r : Nat) (n : Node) : (putCqe clk f q h hb cid d st r n).boot = n.boot := by rw [putCqe_frame]
@[simp] theorem putCqe_bflash (clk : Clock) (f q h : Nat) (hb : Bool) (cid : Nat) (d : Bool) (st r : Nat) (n : Node) : (putCqe clk f q h hb cid d st r n).bflash = n.bflash := by rw [putCqe_frame]
@[simp] theorem putCqe_spdmI3c (clk : Clock) (f q h : Nat) (hb : Bool) (cid : Nat) (d : Bool) (st r : Nat) (n : Node) : (putCqe clk f q h hb cid d st r n).spdmI3c = n.spdmI3c := by rw [putCqe_frame]
@[simp] theorem putCqe_spdmVdm (clk : Clock) (f q h : Nat) (hb : Bool) (cid : Nat) (d : Bool) (st r : Nat) (n : Node) : (putCqe clk f q h hb cid d st r n).spdmVdm = n.spdmVdm := by rw [putCqe_frame]
@[simp] theorem putCqe_numVfs (clk : Clock) (f q h : Nat) (hb : Bool) (cid : Nat) (d : Bool) (st r : Nat) (n : Node) : (putCqe clk f q h hb cid d st r n).numVfs = n.numVfs := by rw [putCqe_frame]
@[simp] theorem putCqe_totalVfs (clk : Clock) (f q h : Nat) (hb : Bool) (cid : Nat) (d : Bool) (st r : Nat) (n : Node) : (putCqe clk f q h hb cid d st r n).totalVfs = n.totalVfs := by rw [putCqe_frame]
@[simp] theorem putCqe_aptr (clk : Clock) (f q h : Nat) (hb : Bool) (cid : Nat) (d : Bool) (st r : Nat) (n : Node) : (putCqe clk f q h hb cid d st r n).aptr = n.aptr := by rw [putCqe_frame]
@[simp] theorem putCqe_alast (clk : Clock) (f q h : Nat) (hb : Bool) (cid : Nat) (d : Bool) (st r : Nat) (n : Node) : (putCqe clk f q h hb cid d st r n).alast = n.alast := by rw [putCqe_frame]
@[simp] theorem putCqe_ptns (clk : Clock) (f q h : Nat) (hb : Bool) (cid : Nat) (d : Bool) (st r : Nat) (n : Node) : (putCqe clk f q h hb cid d st r n).ptns = n.ptns := by rw [putCqe_frame]
@[simp] theorem putCqe_cores (clk : Clock) (f q h : Nat) (hb : Bool) (cid : Nat) (d : Bool) (st r : Nat) (n : Node) : (putCqe clk f q h hb cid d st r n).cores = n.cores := by rw [putCqe_frame]
@[simp] theorem putCqe_reserve (clk : Clock) (f q h : Nat) (hb : Bool) (cid : Nat) (d : Bool) (st r : Nat) (n : Node) : (putCqe clk f q h hb cid d st r n).reserve = n.reserve := by rw [putCqe_frame]
@[simp] theorem putCqe_bankLvl (clk : Clock) (f q h : Nat) (hb : Bool) (cid : Nat) (d : Bool) (st r : Nat) (n : Node) : (putCqe clk f q h hb cid d st r n).bankLvl = n.bankLvl := by rw [putCqe_frame]
@[simp] theorem putCqe_mem (clk : Clock) (f q h : Nat) (hb : Bool) (cid : Nat) (d : Bool) (st r : Nat) (n : Node) : (putCqe clk f q h hb cid d st r n).mem = n.mem := by rw [putCqe_frame]
@[simp] theorem putCqe_flash (clk : Clock) (f q h : Nat) (hb : Bool) (cid : Nat) (d : Bool) (st r : Nat) (n : Node) : (putCqe clk f q h hb cid d st r n).flash = n.flash := by rw [putCqe_frame]
@[simp] theorem putCqe_lnk (clk : Clock) (f q h : Nat) (hb : Bool) (cid : Nat) (d : Bool) (st r : Nat) (n : Node) : (putCqe clk f q h hb cid d st r n).lnk = n.lnk := by rw [putCqe_frame]
@[simp] theorem putCqe_pwr (clk : Clock) (f q h : Nat) (hb : Bool) (cid : Nat) (d : Bool) (st r : Nat) (n : Node) : (putCqe clk f q h hb cid d st r n).pwr = n.pwr := by rw [putCqe_frame]
@[simp] theorem putCqe_serial (clk : Clock) (f q h : Nat) (hb : Bool) (cid : Nat) (d : Bool) (st r : Nat) (n : Node) : (putCqe clk f q h hb cid d st r n).serial = n.serial := by rw [putCqe_frame]
@[simp] theorem putCqe_free (clk : Clock) (f q h : Nat) (hb : Bool) (cid : Nat) (d : Bool) (st r : Nat) (n : Node) : (putCqe clk f q h hb cid d st r n).free = n.free := by rw [putCqe_frame]
@[simp] theorem putCqe_hbAt (clk : Clock) (f q h : Nat) (hb : Bool) (cid : Nat) (d : Bool) (st r : Nat) (n : Node) : (putCqe clk f q h hb cid d st r n).hbAt = n.hbAt := by rw [putCqe_frame]

/-- What changes when a partition was active: `ptns`. -/
theorem touch_frame (f : Nat) (n : Node) : touch f n = { n with ptns := (touch f n).ptns } := by
  unfold touch; split <;> rfl
@[simp] theorem touch_pins (f : Nat) (n : Node) : (touch f n).pins = n.pins := by rw [touch_frame]
@[simp] theorem touch_boot (f : Nat) (n : Node) : (touch f n).boot = n.boot := by rw [touch_frame]
@[simp] theorem touch_bflash (f : Nat) (n : Node) : (touch f n).bflash = n.bflash := by rw [touch_frame]
@[simp] theorem touch_spdmI3c (f : Nat) (n : Node) : (touch f n).spdmI3c = n.spdmI3c := by rw [touch_frame]
@[simp] theorem touch_spdmVdm (f : Nat) (n : Node) : (touch f n).spdmVdm = n.spdmVdm := by rw [touch_frame]
@[simp] theorem touch_fns (f : Nat) (n : Node) : (touch f n).fns = n.fns := by rw [touch_frame]
@[simp] theorem touch_numVfs (f : Nat) (n : Node) : (touch f n).numVfs = n.numVfs := by rw [touch_frame]
@[simp] theorem touch_totalVfs (f : Nat) (n : Node) : (touch f n).totalVfs = n.totalVfs := by rw [touch_frame]
@[simp] theorem touch_aptr (f : Nat) (n : Node) : (touch f n).aptr = n.aptr := by rw [touch_frame]
@[simp] theorem touch_alast (f : Nat) (n : Node) : (touch f n).alast = n.alast := by rw [touch_frame]
@[simp] theorem touch_cores (f : Nat) (n : Node) : (touch f n).cores = n.cores := by rw [touch_frame]
@[simp] theorem touch_reserve (f : Nat) (n : Node) : (touch f n).reserve = n.reserve := by rw [touch_frame]
@[simp] theorem touch_bankLvl (f : Nat) (n : Node) : (touch f n).bankLvl = n.bankLvl := by rw [touch_frame]
@[simp] theorem touch_mem (f : Nat) (n : Node) : (touch f n).mem = n.mem := by rw [touch_frame]
@[simp] theorem touch_flash (f : Nat) (n : Node) : (touch f n).flash = n.flash := by rw [touch_frame]
@[simp] theorem touch_lnk (f : Nat) (n : Node) : (touch f n).lnk = n.lnk := by rw [touch_frame]
@[simp] theorem touch_pwr (f : Nat) (n : Node) : (touch f n).pwr = n.pwr := by rw [touch_frame]
@[simp] theorem touch_serial (f : Nat) (n : Node) : (touch f n).serial = n.serial := by rw [touch_frame]
@[simp] theorem touch_free (f : Nat) (n : Node) : (touch f n).free = n.free := by rw [touch_frame]
@[simp] theorem touch_hbAt (f : Nat) (n : Node) : (touch f n).hbAt = n.hbAt := by rw [touch_frame]
@[simp] theorem touch_out (f : Nat) (n : Node) : (touch f n).out = n.out := by rw [touch_frame]

/-- What changes when a function's shut-down may end: `fns`, `pwr`. -/
theorem settleD_frame (f : Nat) (n : Node) : settleD f n = { n with fns := (settleD f n).fns, pwr := (settleD f n).pwr } := by
  unfold settleD; dsimp only; split
  · rfl
  · split <;> rfl
@[simp] theorem settleD_pins (f : Nat) (n : Node) : (settleD f n).pins = n.pins := by rw [settleD_frame]
@[simp] theorem settleD_boot (f : Nat) (n : Node) : (settleD f n).boot = n.boot := by rw [settleD_frame]
@[simp] theorem settleD_bflash (f : Nat) (n : Node) : (settleD f n).bflash = n.bflash := by rw [settleD_frame]
@[simp] theorem settleD_spdmI3c (f : Nat) (n : Node) : (settleD f n).spdmI3c = n.spdmI3c := by rw [settleD_frame]
@[simp] theorem settleD_spdmVdm (f : Nat) (n : Node) : (settleD f n).spdmVdm = n.spdmVdm := by rw [settleD_frame]
@[simp] theorem settleD_numVfs (f : Nat) (n : Node) : (settleD f n).numVfs = n.numVfs := by rw [settleD_frame]
@[simp] theorem settleD_totalVfs (f : Nat) (n : Node) : (settleD f n).totalVfs = n.totalVfs := by rw [settleD_frame]
@[simp] theorem settleD_aptr (f : Nat) (n : Node) : (settleD f n).aptr = n.aptr := by rw [settleD_frame]
@[simp] theorem settleD_alast (f : Nat) (n : Node) : (settleD f n).alast = n.alast := by rw [settleD_frame]
@[simp] theorem settleD_ptns (f : Nat) (n : Node) : (settleD f n).ptns = n.ptns := by rw [settleD_frame]
@[simp] theorem settleD_cores (f : Nat) (n : Node) : (settleD f n).cores = n.cores := by rw [settleD_frame]
@[simp] theorem settleD_reserve (f : Nat) (n : Node) : (settleD f n).reserve = n.reserve := by rw [settleD_frame]
@[simp] theorem settleD_bankLvl (f : Nat) (n : Node) : (settleD f n).bankLvl = n.bankLvl := by rw [settleD_frame]
@[simp] theorem settleD_mem (f : Nat) (n : Node) : (settleD f n).mem = n.mem := by rw [settleD_frame]
@[simp] theorem settleD_flash (f : Nat) (n : Node) : (settleD f n).flash = n.flash := by rw [settleD_frame]
@[simp] theorem settleD_lnk (f : Nat) (n : Node) : (settleD f n).lnk = n.lnk := by rw [settleD_frame]
@[simp] theorem settleD_serial (f : Nat) (n : Node) : (settleD f n).serial = n.serial := by rw [settleD_frame]
@[simp] theorem settleD_free (f : Nat) (n : Node) : (settleD f n).free = n.free := by rw [settleD_frame]
@[simp] theorem settleD_hbAt (f : Nat) (n : Node) : (settleD f n).hbAt = n.hbAt := by rw [settleD_frame]
@[simp] theorem settleD_out (f : Nat) (n : Node) : (settleD f n).out = n.out := by rw [settleD_frame]

/-- What changes when a command completes: `fns`, `ptns`, `pwr`, `out`. -/
theorem post_frame (clk : Clock) (t : Tok) (st r : Nat) (n : Node) : post clk t st r n = { n with fns := (post clk t st r n).fns, ptns := (post clk t st r n).ptns, pwr := (post clk t st r n).pwr, out := (post clk t st r n).out } := by
  unfold post; split
  · rfl
  · split
    · rfl
    · dsimp only; rw [settleD_frame, touch_frame, putCqe_frame]; rfl
@[simp] theorem post_pins (clk : Clock) (t : Tok) (st r : Nat) (n : Node) : (post clk t st r n).pins = n.pins := by rw [post_frame]
@[simp] theorem post_boot (clk : Clock) (t : Tok) (st r : Nat) (n : Node) : (post clk t st r n).boot = n.boot := by rw [post_frame]
@[simp] theorem post_bflash (clk : Clock) (t : Tok) (st r : Nat) (n : Node) : (post clk t st r n).bflash = n.bflash := by rw [post_frame]
@[simp] theorem post_spdmI3c (clk : Clock) (t : Tok) (st r : Nat) (n : Node) : (post clk t st r n).spdmI3c = n.spdmI3c := by rw [post_frame]
@[simp] theorem post_spdmVdm (clk : Clock) (t : Tok) (st r : Nat) (n : Node) : (post clk t st r n).spdmVdm = n.spdmVdm := by rw [post_frame]
@[simp] theorem post_numVfs (clk : Clock) (t : Tok) (st r : Nat) (n : Node) : (post clk t st r n).numVfs = n.numVfs := by rw [post_frame]
@[simp] theorem post_totalVfs (clk : Clock) (t : Tok) (st r : Nat) (n : Node) : (post clk t st r n).totalVfs = n.totalVfs := by rw [post_frame]
@[simp] theorem post_aptr (clk : Clock) (t : Tok) (st r : Nat) (n : Node) : (post clk t st r n).aptr = n.aptr := by rw [post_frame]
@[simp] theorem post_alast (clk : Clock) (t : Tok) (st r : Nat) (n : Node) : (post clk t st r n).alast = n.alast := by rw [post_frame]
@[simp] theorem post_cores (clk : Clock) (t : Tok) (st r : Nat) (n : Node) : (post clk t st r n).cores = n.cores := by rw [post_frame]
@[simp] theorem post_reserve (clk : Clock) (t : Tok) (st r : Nat) (n : Node) : (post clk t st r n).reserve = n.reserve := by rw [post_frame]
@[simp] theorem post_bankLvl (clk : Clock) (t : Tok) (st r : Nat) (n : Node) : (post clk t st r n).bankLvl = n.bankLvl := by rw [post_frame]
@[simp] theorem post_mem (clk : Clock) (t : Tok) (st r : Nat) (n : Node) : (post clk t st r n).mem = n.mem := by rw [post_frame]
@[simp] theorem post_flash (clk : Clock) (t : Tok) (st r : Nat) (n : Node) : (post clk t st r n).flash = n.flash := by rw [post_frame]
@[simp] theorem post_lnk (clk : Clock) (t : Tok) (st r : Nat) (n : Node) : (post clk t st r n).lnk = n.lnk := by rw [post_frame]
@[simp] theorem post_serial (clk : Clock) (t : Tok) (st r : Nat) (n : Node) : (post clk t st r n).serial = n.serial := by rw [post_frame]
@[simp] theorem post_free (clk : Clock) (t : Tok) (st r : Nat) (n : Node) : (post clk t st r n).free = n.free := by rw [post_frame]
@[simp] theorem post_hbAt (clk : Clock) (t : Tok) (st r : Nat) (n : Node) : (post clk t st r n).hbAt = n.hbAt := by rw [post_frame]

/-- What changes when the same of a command that may be absent: `fns`, `ptns`, `pwr`, `out`. -/
theorem postO_frame (clk : Clock) (t : Option Tok) (st r : Nat) (n : Node) : postO clk t st r n = { n with fns := (postO clk t st r n).fns, ptns := (postO clk t st r n).ptns, pwr := (postO clk t st r n).pwr, out := (postO clk t st r n).out } := by
  unfold postO; split
  · exact post_frame _ _ _ _ _
  · rfl
@[simp] theorem postO_pins (clk : Clock) (t : Option Tok) (st r : Nat) (n : Node) : (postO clk t st r n).pins = n.pins := by rw [postO_frame]
@[simp] theorem postO_boot (clk : Clock) (t : Option Tok) (st r : Nat) (n : Node) : (postO clk t st r n).boot = n.boot := by rw [postO_frame]
@[simp] theorem postO_bflash (clk : Clock) (t : Option Tok) (st r : Nat) (n : Node) : (postO clk t st r n).bflash = n.bflash := by rw [postO_frame]
@[simp] theorem postO_spdmI3c (clk : Clock) (t : Option Tok) (st r : Nat) (n : Node) : (postO clk t st r n).spdmI3c = n.spdmI3c := by rw [postO_frame]
@[simp] theorem postO_spdmVdm (clk : Clock) (t : Option Tok) (st r : Nat) (n : Node) : (postO clk t st r n).spdmVdm = n.spdmVdm := by rw [postO_frame]
@[simp] theorem postO_numVfs (clk : Clock) (t : Option Tok) (st r : Nat) (n : Node) : (postO clk t st r n).numVfs = n.numVfs := by rw [postO_frame]
@[simp] theorem postO_totalVfs (clk : Clock) (t : Option Tok) (st r : Nat) (n : Node) : (postO clk t st r n).totalVfs = n.totalVfs := by rw [postO_frame]
@[simp] theorem postO_aptr (clk : Clock) (t : Option Tok) (st r : Nat) (n : Node) : (postO clk t st r n).aptr = n.aptr := by rw [postO_frame]
@[simp] theorem postO_alast (clk : Clock) (t : Option Tok) (st r : Nat) (n : Node) : (postO clk t st r n).alast = n.alast := by rw [postO_frame]
@[simp] theorem postO_cores (clk : Clock) (t : Option Tok) (st r : Nat) (n : Node) : (postO clk t st r n).cores = n.cores := by rw [postO_frame]
@[simp] theorem postO_reserve (clk : Clock) (t : Option Tok) (st r : Nat) (n : Node) : (postO clk t st r n).reserve = n.reserve := by rw [postO_frame]
@[simp] theorem postO_bankLvl (clk : Clock) (t : Option Tok) (st r : Nat) (n : Node) : (postO clk t st r n).bankLvl = n.bankLvl := by rw [postO_frame]
@[simp] theorem postO_mem (clk : Clock) (t : Option Tok) (st r : Nat) (n : Node) : (postO clk t st r n).mem = n.mem := by rw [postO_frame]
@[simp] theorem postO_flash (clk : Clock) (t : Option Tok) (st r : Nat) (n : Node) : (postO clk t st r n).flash = n.flash := by rw [postO_frame]
@[simp] theorem postO_lnk (clk : Clock) (t : Option Tok) (st r : Nat) (n : Node) : (postO clk t st r n).lnk = n.lnk := by rw [postO_frame]
@[simp] theorem postO_serial (clk : Clock) (t : Option Tok) (st r : Nat) (n : Node) : (postO clk t st r n).serial = n.serial := by rw [postO_frame]
@[simp] theorem postO_free (clk : Clock) (t : Option Tok) (st r : Nat) (n : Node) : (postO clk t st r n).free = n.free := by rw [postO_frame]
@[simp] theorem postO_hbAt (clk : Clock) (t : Option Tok) (st r : Nat) (n : Node) : (postO clk t st r n).hbAt = n.hbAt := by rw [postO_frame]

/-- What changes when a command is refused for a field: `fns`, `ptns`, `pwr`, `out`. -/
theorem invalid_frame (clk : Clock) (t : Tok) (off w : Nat) (n : Node) : invalid clk t off w n = { n with fns := (invalid clk t off w n).fns, ptns := (invalid clk t off w n).ptns, pwr := (invalid clk t off w n).pwr, out := (invalid clk t off w n).out } := by
  exact post_frame _ _ _ _ _
@[simp] theorem invalid_pins (clk : Clock) (t : Tok) (off w : Nat) (n : Node) : (invalid clk t off w n).pins = n.pins := by rw [invalid_frame]
@[simp] theorem invalid_boot (clk : Clock) (t : Tok) (off w : Nat) (n : Node) : (invalid clk t off w n).boot = n.boot := by rw [invalid_frame]
@[simp] theorem invalid_bflash (clk : Clock) (t : Tok) (off w : Nat) (n : Node) : (invalid clk t off w n).bflash = n.bflash := by rw [invalid_frame]
@[simp] theorem invalid_spdmI3c (clk : Clock) (t : Tok) (off w : Nat) (n : Node) : (invalid clk t off w n).spdmI3c = n.spdmI3c := by rw [invalid_frame]
@[simp] theorem invalid_spdmVdm (clk : Clock) (t : Tok) (off w : Nat) (n : Node) : (invalid clk t off w n).spdmVdm = n.spdmVdm := by rw [invalid_frame]
@[simp] theorem invalid_numVfs (clk : Clock) (t : Tok) (off w : Nat) (n : Node) : (invalid clk t off w n).numVfs = n.numVfs := by rw [invalid_frame]
@[simp] theorem invalid_totalVfs (clk : Clock) (t : Tok) (off w : Nat) (n : Node) : (invalid clk t off w n).totalVfs = n.totalVfs := by rw [invalid_frame]
@[simp] theorem invalid_aptr (clk : Clock) (t : Tok) (off w : Nat) (n : Node) : (invalid clk t off w n).aptr = n.aptr := by rw [invalid_frame]
@[simp] theorem invalid_alast (clk : Clock) (t : Tok) (off w : Nat) (n : Node) : (invalid clk t off w n).alast = n.alast := by rw [invalid_frame]
@[simp] theorem invalid_cores (clk : Clock) (t : Tok) (off w : Nat) (n : Node) : (invalid clk t off w n).cores = n.cores := by rw [invalid_frame]
@[simp] theorem invalid_reserve (clk : Clock) (t : Tok) (off w : Nat) (n : Node) : (invalid clk t off w n).reserve = n.reserve := by rw [invalid_frame]
@[simp] theorem invalid_bankLvl (clk : Clock) (t : Tok) (off w : Nat) (n : Node) : (invalid clk t off w n).bankLvl = n.bankLvl := by rw [invalid_frame]
@[simp] theorem invalid_mem (clk : Clock) (t : Tok) (off w : Nat) (n : Node) : (invalid clk t off w n).mem = n.mem := by rw [invalid_frame]
@[simp] theorem invalid_flash (clk : Clock) (t : Tok) (off w : Nat) (n : Node) : (invalid clk t off w n).flash = n.flash := by rw [invalid_frame]
@[simp] theorem invalid_lnk (clk : Clock) (t : Tok) (off w : Nat) (n : Node) : (invalid clk t off w n).lnk = n.lnk := by rw [invalid_frame]
@[simp] theorem invalid_serial (clk : Clock) (t : Tok) (off w : Nat) (n : Node) : (invalid clk t off w n).serial = n.serial := by rw [invalid_frame]
@[simp] theorem invalid_free (clk : Clock) (t : Tok) (off w : Nat) (n : Node) : (invalid clk t off w n).free = n.free := by rw [invalid_frame]
@[simp] theorem invalid_hbAt (clk : Clock) (t : Tok) (off w : Nat) (n : Node) : (invalid clk t off w n).hbAt = n.hbAt := by rw [invalid_frame]

/-- What changes when attention is raised: `fns`. -/
theorem raisePtn_frame (c p : Nat) (n : Node) : raisePtn c p n = { n with fns := (raisePtn c p n).fns } := by
  unfold raisePtn foldNode; generalize nubNat (0 :: fnsOf n p) = l; induction l generalizing n with
  | nil => rfl
  | cons a l ih => rw [List.foldl_cons, ih (raiseAt c a n)]; rfl
@[simp] theorem raisePtn_pins (c p : Nat) (n : Node) : (raisePtn c p n).pins = n.pins := by rw [raisePtn_frame]
@[simp] theorem raisePtn_boot (c p : Nat) (n : Node) : (raisePtn c p n).boot = n.boot := by rw [raisePtn_frame]
@[simp] theorem raisePtn_bflash (c p : Nat) (n : Node) : (raisePtn c p n).bflash = n.bflash := by rw [raisePtn_frame]
@[simp] theorem raisePtn_spdmI3c (c p : Nat) (n : Node) : (raisePtn c p n).spdmI3c = n.spdmI3c := by rw [raisePtn_frame]
@[simp] theorem raisePtn_spdmVdm (c p : Nat) (n : Node) : (raisePtn c p n).spdmVdm = n.spdmVdm := by rw [raisePtn_frame]
@[simp] theorem raisePtn_numVfs (c p : Nat) (n : Node) : (raisePtn c p n).numVfs = n.numVfs := by rw [raisePtn_frame]
@[simp] theorem raisePtn_totalVfs (c p : Nat) (n : Node) : (raisePtn c p n).totalVfs = n.totalVfs := by rw [raisePtn_frame]
@[simp] theorem raisePtn_aptr (c p : Nat) (n : Node) : (raisePtn c p n).aptr = n.aptr := by rw [raisePtn_frame]
@[simp] theorem raisePtn_alast (c p : Nat) (n : Node) : (raisePtn c p n).alast = n.alast := by rw [raisePtn_frame]
@[simp] theorem raisePtn_ptns (c p : Nat) (n : Node) : (raisePtn c p n).ptns = n.ptns := by rw [raisePtn_frame]
@[simp] theorem raisePtn_cores (c p : Nat) (n : Node) : (raisePtn c p n).cores = n.cores := by rw [raisePtn_frame]
@[simp] theorem raisePtn_reserve (c p : Nat) (n : Node) : (raisePtn c p n).reserve = n.reserve := by rw [raisePtn_frame]
@[simp] theorem raisePtn_bankLvl (c p : Nat) (n : Node) : (raisePtn c p n).bankLvl = n.bankLvl := by rw [raisePtn_frame]
@[simp] theorem raisePtn_mem (c p : Nat) (n : Node) : (raisePtn c p n).mem = n.mem := by rw [raisePtn_frame]
@[simp] theorem raisePtn_flash (c p : Nat) (n : Node) : (raisePtn c p n).flash = n.flash := by rw [raisePtn_frame]
@[simp] theorem raisePtn_lnk (c p : Nat) (n : Node) : (raisePtn c p n).lnk = n.lnk := by rw [raisePtn_frame]
@[simp] theorem raisePtn_pwr (c p : Nat) (n : Node) : (raisePtn c p n).pwr = n.pwr := by rw [raisePtn_frame]
@[simp] theorem raisePtn_serial (c p : Nat) (n : Node) : (raisePtn c p n).serial = n.serial := by rw [raisePtn_frame]
@[simp] theorem raisePtn_free (c p : Nat) (n : Node) : (raisePtn c p n).free = n.free := by rw [raisePtn_frame]
@[simp] theorem raisePtn_hbAt (c p : Nat) (n : Node) : (raisePtn c p n).hbAt = n.hbAt := by rw [raisePtn_frame]
@[simp] theorem raisePtn_out (c p : Nat) (n : Node) : (raisePtn c p n).out = n.out := by rw [raisePtn_frame]

/-- What changes when a fault record is written: `ptns`. -/
theorem addFault_frame (clk : Clock) (p : Nat) (x : FaultRec) (n : Node) : addFault clk p x n = { n with ptns := (addFault clk p x n).ptns } := by
  rfl
@[simp] theorem addFault_pins (clk : Clock) (p : Nat) (x : FaultRec) (n : Node) : (addFault clk p x n).pins = n.pins := by rw [addFault_frame]
@[simp] theorem addFault_boot (clk : Clock) (p : Nat) (x : FaultRec) (n : Node) : (addFault clk p x n).boot = n.boot := by rw [addFault_frame]
@[simp] theorem addFault_bflash (clk : Clock) (p : Nat) (x : FaultRec) (n : Node) : (addFault clk p x n).bflash = n.bflash := by rw [addFault_frame]
@[simp] theorem addFault_spdmI3c (clk : Clock) (p : Nat) (x : FaultRec) (n : Node) : (addFault clk p x n).spdmI3c = n.spdmI3c := by rw [addFault_frame]
@[simp] theorem addFault_spdmVdm (clk : Clock) (p : Nat) (x : FaultRec) (n : Node) : (addFault clk p x n).spdmVdm = n.spdmVdm := by rw [addFault_frame]
@[simp] theorem addFault_fns (clk : Clock) (p : Nat) (x : FaultRec) (n : Node) : (addFault clk p x n).fns = n.fns := by rw [addFault_frame]
@[simp] theorem addFault_numVfs (clk : Clock) (p : Nat) (x : FaultRec) (n : Node) : (addFault clk p x n).numVfs = n.numVfs := by rw [addFault_frame]
@[simp] theorem addFault_totalVfs (clk : Clock) (p : Nat) (x : FaultRec) (n : Node) : (addFault clk p x n).totalVfs = n.totalVfs := by rw [addFault_frame]
@[simp] theorem addFault_aptr (clk : Clock) (p : Nat) (x : FaultRec) (n : Node) : (addFault clk p x n).aptr = n.aptr := by rw [addFault_frame]
@[simp] theorem addFault_alast (clk : Clock) (p : Nat) (x : FaultRec) (n : Node) : (addFault clk p x n).alast = n.alast := by rw [addFault_frame]
@[simp] theorem addFault_cores (clk : Clock) (p : Nat) (x : FaultRec) (n : Node) : (addFault clk p x n).cores = n.cores := by rw [addFault_frame]
@[simp] theorem addFault_reserve (clk : Clock) (p : Nat) (x : FaultRec) (n : Node) : (addFault clk p x n).reserve = n.reserve := by rw [addFault_frame]
@[simp] theorem addFault_bankLvl (clk : Clock) (p : Nat) (x : FaultRec) (n : Node) : (addFault clk p x n).bankLvl = n.bankLvl := by rw [addFault_frame]
@[simp] theorem addFault_mem (clk : Clock) (p : Nat) (x : FaultRec) (n : Node) : (addFault clk p x n).mem = n.mem := by rw [addFault_frame]
@[simp] theorem addFault_flash (clk : Clock) (p : Nat) (x : FaultRec) (n : Node) : (addFault clk p x n).flash = n.flash := by rw [addFault_frame]
@[simp] theorem addFault_lnk (clk : Clock) (p : Nat) (x : FaultRec) (n : Node) : (addFault clk p x n).lnk = n.lnk := by rw [addFault_frame]
@[simp] theorem addFault_pwr (clk : Clock) (p : Nat) (x : FaultRec) (n : Node) : (addFault clk p x n).pwr = n.pwr := by rw [addFault_frame]
@[simp] theorem addFault_serial (clk : Clock) (p : Nat) (x : FaultRec) (n : Node) : (addFault clk p x n).serial = n.serial := by rw [addFault_frame]
@[simp] theorem addFault_free (clk : Clock) (p : Nat) (x : FaultRec) (n : Node) : (addFault clk p x n).free = n.free := by rw [addFault_frame]
@[simp] theorem addFault_hbAt (clk : Clock) (p : Nat) (x : FaultRec) (n : Node) : (addFault clk p x n).hbAt = n.hbAt := by rw [addFault_frame]
@[simp] theorem addFault_out (clk : Clock) (p : Nat) (x : FaultRec) (n : Node) : (addFault clk p x n).out = n.out := by rw [addFault_frame]

/-- What changes when the node is in Run or IDLE by R327: `pwr`. -/
theorem settleIdle_frame (n : Node) : settleIdle n = { n with pwr := (settleIdle n).pwr } := by
  unfold settleIdle; dsimp only; split
  · rfl
  · split <;> rfl
@[simp] theorem settleIdle_pins (n : Node) : (settleIdle n).pins = n.pins := by rw [settleIdle_frame]
@[simp] theorem settleIdle_boot (n : Node) : (settleIdle n).boot = n.boot := by rw [settleIdle_frame]
@[simp] theorem settleIdle_bflash (n : Node) : (settleIdle n).bflash = n.bflash := by rw [settleIdle_frame]
@[simp] theorem settleIdle_spdmI3c (n : Node) : (settleIdle n).spdmI3c = n.spdmI3c := by rw [settleIdle_frame]
@[simp] theorem settleIdle_spdmVdm (n : Node) : (settleIdle n).spdmVdm = n.spdmVdm := by rw [settleIdle_frame]
@[simp] theorem settleIdle_fns (n : Node) : (settleIdle n).fns = n.fns := by rw [settleIdle_frame]
@[simp] theorem settleIdle_numVfs (n : Node) : (settleIdle n).numVfs = n.numVfs := by rw [settleIdle_frame]
@[simp] theorem settleIdle_totalVfs (n : Node) : (settleIdle n).totalVfs = n.totalVfs := by rw [settleIdle_frame]
@[simp] theorem settleIdle_aptr (n : Node) : (settleIdle n).aptr = n.aptr := by rw [settleIdle_frame]
@[simp] theorem settleIdle_alast (n : Node) : (settleIdle n).alast = n.alast := by rw [settleIdle_frame]
@[simp] theorem settleIdle_ptns (n : Node) : (settleIdle n).ptns = n.ptns := by rw [settleIdle_frame]
@[simp] theorem settleIdle_cores (n : Node) : (settleIdle n).cores = n.cores := by rw [settleIdle_frame]
@[simp] theorem settleIdle_reserve (n : Node) : (settleIdle n).reserve = n.reserve := by rw [settleIdle_frame]
@[simp] theorem settleIdle_bankLvl (n : Node) : (settleIdle n).bankLvl = n.bankLvl := by rw [settleIdle_frame]
@[simp] theorem settleIdle_mem (n : Node) : (settleIdle n).mem = n.mem := by rw [settleIdle_frame]
@[simp] theorem settleIdle_flash (n : Node) : (settleIdle n).flash = n.flash := by rw [settleIdle_frame]
@[simp] theorem settleIdle_lnk (n : Node) : (settleIdle n).lnk = n.lnk := by rw [settleIdle_frame]
@[simp] theorem settleIdle_serial (n : Node) : (settleIdle n).serial = n.serial := by rw [settleIdle_frame]
@[simp] theorem settleIdle_free (n : Node) : (settleIdle n).free = n.free := by rw [settleIdle_frame]
@[simp] theorem settleIdle_hbAt (n : Node) : (settleIdle n).hbAt = n.hbAt := by rw [settleIdle_frame]
@[simp] theorem settleIdle_out (n : Node) : (settleIdle n).out = n.out := by rw [settleIdle_frame]

/-- What changes when a gated partition goes on: `ptns`, `pwr`. -/
theorem ungate_frame (p : Nat) (n : Node) : ungate p n = { n with ptns := (ungate p n).ptns, pwr := (ungate p n).pwr } := by
  unfold ungate; split
  · rw [settleIdle_frame]; rfl
  · rfl
@[simp] theorem ungate_pins (p : Nat) (n : Node) : (ungate p n).pins = n.pins := by rw [ungate_frame]
@[simp] theorem ungate_boot (p : Nat) (n : Node) : (ungate p n).boot = n.boot := by rw [ungate_frame]
@[simp] theorem ungate_bflash (p : Nat) (n : Node) : (ungate p n).bflash = n.bflash := by rw [ungate_frame]
@[simp] theorem ungate_spdmI3c (p : Nat) (n : Node) : (ungate p n).spdmI3c = n.spdmI3c := by rw [ungate_frame]
@[simp] theorem ungate_spdmVdm (p : Nat) (n : Node) : (ungate p n).spdmVdm = n.spdmVdm := by rw [ungate_frame]
@[simp] theorem ungate_fns (p : Nat) (n : Node) : (ungate p n).fns = n.fns := by rw [ungate_frame]
@[simp] theorem ungate_numVfs (p : Nat) (n : Node) : (ungate p n).numVfs = n.numVfs := by rw [ungate_frame]
@[simp] theorem ungate_totalVfs (p : Nat) (n : Node) : (ungate p n).totalVfs = n.totalVfs := by rw [ungate_frame]
@[simp] theorem ungate_aptr (p : Nat) (n : Node) : (ungate p n).aptr = n.aptr := by rw [ungate_frame]
@[simp] theorem ungate_alast (p : Nat) (n : Node) : (ungate p n).alast = n.alast := by rw [ungate_frame]
@[simp] theorem ungate_cores (p : Nat) (n : Node) : (ungate p n).cores = n.cores := by rw [ungate_frame]
@[simp] theorem ungate_reserve (p : Nat) (n : Node) : (ungate p n).reserve = n.reserve := by rw [ungate_frame]
@[simp] theorem ungate_bankLvl (p : Nat) (n : Node) : (ungate p n).bankLvl = n.bankLvl := by rw [ungate_frame]
@[simp] theorem ungate_mem (p : Nat) (n : Node) : (ungate p n).mem = n.mem := by rw [ungate_frame]
@[simp] theorem ungate_flash (p : Nat) (n : Node) : (ungate p n).flash = n.flash := by rw [ungate_frame]
@[simp] theorem ungate_lnk (p : Nat) (n : Node) : (ungate p n).lnk = n.lnk := by rw [ungate_frame]
@[simp] theorem ungate_serial (p : Nat) (n : Node) : (ungate p n).serial = n.serial := by rw [ungate_frame]
@[simp] theorem ungate_free (p : Nat) (n : Node) : (ungate p n).free = n.free := by rw [ungate_frame]
@[simp] theorem ungate_hbAt (p : Nat) (n : Node) : (ungate p n).hbAt = n.hbAt := by rw [ungate_frame]
@[simp] theorem ungate_out (p : Nat) (n : Node) : (ungate p n).out = n.out := by rw [ungate_frame]

/-- What changes when a rail is asked for a voltage: `pwr`, `out`. -/
theorem requestMv_frame (clk : Clock) (r mv : Nat) (n : Node) : requestMv clk r mv n = { n with pwr := (requestMv clk r mv n).pwr, out := (requestMv clk r mv n).out } := by
  unfold requestMv; dsimp only; split
  · rfl
  · split <;> rfl
@[simp] theorem requestMv_pins (clk : Clock) (r mv : Nat) (n : Node) : (requestMv clk r mv n).pins = n.pins := by rw [requestMv_frame]
@[simp] theorem requestMv_boot (clk : Clock) (r mv : Nat) (n : Node) : (requestMv clk r mv n).boot = n.boot := by rw [requestMv_frame]
@[simp] theorem requestMv_bflash (clk : Clock) (r mv : Nat) (n : Node) : (requestMv clk r mv n).bflash = n.bflash := by rw [requestMv_frame]
@[simp] theorem requestMv_spdmI3c (clk : Clock) (r mv : Nat) (n : Node) : (requestMv clk r mv n).spdmI3c = n.spdmI3c := by rw [requestMv_frame]
@[simp] theorem requestMv_spdmVdm (clk : Clock) (r mv : Nat) (n : Node) : (requestMv clk r mv n).spdmVdm = n.spdmVdm := by rw [requestMv_frame]
@[simp] theorem requestMv_fns (clk : Clock) (r mv : Nat) (n : Node) : (requestMv clk r mv n).fns = n.fns := by rw [requestMv_frame]
@[simp] theorem requestMv_numVfs (clk : Clock) (r mv : Nat) (n : Node) : (requestMv clk r mv n).numVfs = n.numVfs := by rw [requestMv_frame]
@[simp] theorem requestMv_totalVfs (clk : Clock) (r mv : Nat) (n : Node) : (requestMv clk r mv n).totalVfs = n.totalVfs := by rw [requestMv_frame]
@[simp] theorem requestMv_aptr (clk : Clock) (r mv : Nat) (n : Node) : (requestMv clk r mv n).aptr = n.aptr := by rw [requestMv_frame]
@[simp] theorem requestMv_alast (clk : Clock) (r mv : Nat) (n : Node) : (requestMv clk r mv n).alast = n.alast := by rw [requestMv_frame]
@[simp] theorem requestMv_ptns (clk : Clock) (r mv : Nat) (n : Node) : (requestMv clk r mv n).ptns = n.ptns := by rw [requestMv_frame]
@[simp] theorem requestMv_cores (clk : Clock) (r mv : Nat) (n : Node) : (requestMv clk r mv n).cores = n.cores := by rw [requestMv_frame]
@[simp] theorem requestMv_reserve (clk : Clock) (r mv : Nat) (n : Node) : (requestMv clk r mv n).reserve = n.reserve := by rw [requestMv_frame]
@[simp] theorem requestMv_bankLvl (clk : Clock) (r mv : Nat) (n : Node) : (requestMv clk r mv n).bankLvl = n.bankLvl := by rw [requestMv_frame]
@[simp] theorem requestMv_mem (clk : Clock) (r mv : Nat) (n : Node) : (requestMv clk r mv n).mem = n.mem := by rw [requestMv_frame]
@[simp] theorem requestMv_flash (clk : Clock) (r mv : Nat) (n : Node) : (requestMv clk r mv n).flash = n.flash := by rw [requestMv_frame]
@[simp] theorem requestMv_lnk (clk : Clock) (r mv : Nat) (n : Node) : (requestMv clk r mv n).lnk = n.lnk := by rw [requestMv_frame]
@[simp] theorem requestMv_serial (clk : Clock) (r mv : Nat) (n : Node) : (requestMv clk r mv n).serial = n.serial := by rw [requestMv_frame]
@[simp] theorem requestMv_free (clk : Clock) (r mv : Nat) (n : Node) : (requestMv clk r mv n).free = n.free := by rw [requestMv_frame]
@[simp] theorem requestMv_hbAt (clk : Clock) (r mv : Nat) (n : Node) : (requestMv clk r mv n).hbAt = n.hbAt := by rw [requestMv_frame]

/-- The fetch changes the pair, and the count of commands. -/
theorem takeEntry_frame (clk : Clock) (host : Mem) (q : QRef) (y : Queue) (n : Node) : (takeEntry clk host q y n).2 = { n with fns := (takeEntry clk host q y n).2.fns, serial := n.serial + 1 } := rfl
/-- A completion changes no more of a partition than how long it has been idle. -/
theorem getP_post (clk : Clock) (t : Tok) (st r p : Nat) (n : Node) : ∃ i, getP (post clk t st r n) p = { getP n p with idleFor := i } := by
  unfold post
  split
  · exact ⟨_, rfl⟩
  · split
    · exact ⟨_, rfl⟩
    · dsimp only
      have h1 : ∀ f m, getP (settleD f m) p = getP m p := fun f m => by unfold getP; rw [settleD_ptns]
      have h2 : ∀ f m, ∃ i, getP (touch f m) p = { getP m p with idleFor := i } := fun f m => by
        unfold touch; split
        · rename_i k _
          by_cases hk : k = p
          · by_cases h8 : p < 8
            · subst hk; exact ⟨0, getP_modP_self _ _ h8⟩
            · refine ⟨(getP m p).idleFor, ?_⟩; unfold getP modP; simp [vget_vmod, h8]
          · exact ⟨(getP m p).idleFor, getP_modP_ne _ _ hk⟩
        · exact ⟨_, rfl⟩
      rw [h1]
      obtain ⟨i, hi⟩ := h2 t.fn (putCqe clk t.fn t.qid _ false _ _ _ _ (modQ t.fn t.qid _ n))
      refine ⟨i, hi.trans ?_⟩
      unfold getP; rw [putCqe_ptns]; rfl

end Sys2Proof.Machine
end

