-- ==== Sys2Proof/Laws/PerInstr.lean ====
section
/-! SUPPORT. Per command: a well-formed command's host stores lie within the host's 64-bit addresses, whatever its other operands are. -/

namespace Sys2Proof.Laws.Timed

/-- What passed outside before the command. -/
def envOf (i : Instr) : Env :=
  match i with
  | .perstNAssert e => e
  | .perstNDeassert e _ => e
  | .vrPgRise e _ => e
  | .vrPgTimeout e _ => e
  | .vrPgFall e _ => e
  | .imageReadDone e => e
  | .imageVerified e => e
  | .repairMapApplied e => e
  | .nodeSectionApplied e => e
  | .tier1Trained e => e
  | .tier2Trained e _ => e
  | .repairTestEnd e _ => e
  | .readyStep e => e
  | .trialTimeout e => e
  | .collectionMount e _ _ _ => e
  | .queueCreate e _ => e
  | .queueDelete e _ => e
  | .queueReset e _ => e
  | .queueResetDone e _ => e
  | .sessionOpenPhase0 e _ => e
  | .sessionOpenPhase1 e _ => e
  | .sessionLockoutEnd e _ => e
  | .sessionClose e _ => e
  | .sessionKeySet e _ => e
  | .sessionKeyErase e _ => e
  | .attnAck e _ => e
  | .imageWrite e _ _ => e
  | .imageVerify e _ => e
  | .imageSelect e _ => e
  | .imageCommit e _ => e
  | .partitionImageLoad e _ => e
  | .liveLoadDrainEnd e _ => e
  | .drainLimit e _ => e
  | .spdmGetVersion e _ => e
  | .spdmGetCapabilities e _ => e
  | .spdmNegotiateAlgorithms e _ _ => e
  | .spdmGetDigests e _ => e
  | .spdmGetCertificate e _ _ _ => e
  | .spdmChallenge e _ _ => e
  | .spdmGetMeasurements e _ _ _ => e
  | .collectionCreate e _ => e
  | .collectionDrop e _ => e
  | .generationLoad e _ _ => e
  | .generationSwap e _ => e
  | .swapFreeze e _ _ => e
  | .swapCommit e _ _ => e
  | .swapLimit e _ _ => e
  | .generationDiscard e _ => e
  | .shardExport e _ => e
  | .insertCmd e _ => e
  | .deleteCmd e _ => e
  | .upsertCmd e _ => e
  | .commitPoint e _ _ _ => e
  | .recordRestore e _ _ _ => e
  | .search e _ => e
  | .audit e _ => e
  | .routeExpansion e _ _ => e
  | .gatherDeadline e _ => e
  | .passLaunch e _ _ => e
  | .passEnd e _ _ => e
  | .pressUnit e _ _ _ _ => e
  | .selectTop e _ _ => e
  | .fanout e _ _ => e
  | .partialResult e _ _ => e
  | .mergeWaitExpiry e _ _ => e
  | .closure e _ _ => e
  | .modelBatchLaunch e _ _ => e
  | .modelLayerFetched e _ _ => e
  | .modelBatchEnd e _ _ => e
  | .modelLoad e _ => e
  | .tableCreate e _ => e
  | .tableDrop e _ => e
  | .tableWrite e _ => e
  | .tableRead e _ => e
  | .poolCmd e _ => e
  | .updateCmd e _ => e
  | .addApplied e _ _ => e
  | .migrationCopyWritten e _ _ _ => e
  | .migrationCutover e _ _ _ => e
  | .hotRowBackoffMove e _ _ _ => e
  | .objectAlloc e _ => e
  | .objectFree e _ => e
  | .objectPolicy e _ => e
  | .objectWrite e _ => e
  | .objectRead e _ => e
  | .heatAge e => e
  | .pageMigrationCutover e _ => e
  | .patrolScrub e _ => e
  | .heldAccess e _ => e
  | .stackBudgetWindow e _ _ => e
  | .darnerBackoff e _ _ => e
  | .cartPresent e _ => e
  | .cartIdentified e _ _ => e
  | .cartRemoved e _ => e
  | .lifeRecordWrite e _ => e
  | .cartRelease e _ => e
  | .cartAdopt e _ => e
  | .flashAlloc e _ => e
  | .flashFree e _ => e
  | .flashWrite e _ => e
  | .flashRead e _ => e
  | .mapPageRead e _ _ => e
  | .mapPageWriteback e _ _ => e
  | .writeStageFlush e _ _ _ => e
  | .programDone e _ => e
  | .programFailure e _ _ => e
  | .fold e _ _ => e
  | .foldRemap e _ _ => e
  | .wringer e _ _ _ => e
  | .eraseFailure e _ _ _ => e
  | .discard e _ => e
  | .secureDiscard e _ => e
  | .doorbell e _ _ _ => e
  | .aqEnable e _ => e
  | .aqDisable e _ => e
  | .functionLevelReset e _ => e
  | .vfEnable e _ => e
  | .d3hotEntry e _ => e
  | .d0Entry e _ => e
  | .hostReadFailure e _ _ => e
  | .cqVectorTimer e _ => e
  | .heartbeat e => e
  | .functionMap e _ => e
  | .threadWatchdog e _ _ => e
  | .coreWatchdog e _ _ _ => e
  | .queueWatchdog e _ _ => e
  | .coreFault e _ _ _ _ => e
  | .laneFailure e _ _ _ => e
  | .partitionReset e _ => e
  | .partitionResetEnd e _ => e
  | .partitionRestore e _ => e
  | .restoreEnd e _ => e
  | .faultLogRead e _ => e
  | .spareEngage e _ => e
  | .coreSwap e _ => e
  | .coreSwapBlockRestart e _ => e
  | .coreSwapCutover e _ => e
  | .bankSpare e _ _ => e
  | .bankSpareCutover e _ => e
  | .ownershipRelease e _ => e
  | .ownershipClaim e _ => e
  | .claimTimeout e _ _ _ => e
  | .ownershipResolve e _ => e
  | .ownRelease e _ _ => e
  | .ownClaim e _ _ => e
  | .ownState e _ _ => e
  | .epochBoundary e _ => e
  | .mirrorSendTimer e _ _ => e
  | .durabilityHold e _ _ => e
  | .mirrorWrite e _ _ => e
  | .snapshotTake e _ => e
  | .snapshotTakeRestore e _ => e
  | .snapChunk e _ _ => e
  | .recoverRead e _ _ => e
  | .recoverData e _ _ => e
  | .ackMsg e _ _ => e
  | .resendTimeout e _ => e
  | .levelReject e _ _ => e
  | .ping e _ _ => e
  | .pingReply e _ _ => e
  | .lnkPing e _ _ => e
  | .pingTimeout e => e
  | .messageForward e _ _ => e
  | .flit e _ _ => e
  | .replayTimeout e _ => e
  | .retrainTimeout e _ => e
  | .creditStall e _ _ _ => e
  | .laneFailed e _ _ => e
  | .capabilityRecord e _ _ => e
  | .trainTimeout e _ => e
  | .linkDownRetry e _ => e
  | .lnkNodeId e _ _ => e
  | .refillInstant e => e
  | .wheelSlotDue e _ _ _ => e
  | .powerSet e _ => e
  | .partitionPower e _ => e
  | .entryDrainLimit e _ => e
  | .entryCommit e _ => e
  | .partitionGate e _ => e
  | .wake e _ => e
  | .bmcWakeMessage e => e
  | .wakeHold e => e
  | .wakeFailure e => e
  | .pwrPadRelease e _ => e
  | .autoRelease e => e
  | .partitionWakeDone e _ => e
  | .powerSample e _ => e
  | .junctionSample e _ _ _ => e
  | .thermalTrip e _ => e
  | .avsAdjust e _ _ => e
  | .avsResponse e _ _ => e
  | .avsSettleTimeout e _ => e
  | .lockLost e => e
  | .registerWrite e _ _ _ _ _ => e
  | .collectiveDefine e _ => e
  | .hostLinkUp e => e.toEnv
  | .linkTrained e _ => e
  | .linkTrainingLost e _ => e
  | .linkEnable e _ _ _ => e
  | .ptnBuddy e _ _ _ => e
  | .vfDisable e _ => e
  | .rootPllRelock e => e
  | .wakeComplete e => e
  | .powerLoss e => e
  | .eraseDone e _ _ => e

/-- The statement for one command. -/
def Statement (i : Instr) : Prop := wellFormed i = true → (envOf i).wf = true

theorem first {a b : Bool} (h : (a && b) = true) : a = true := by cases a <;> simp_all

theorem perstNAssert (e : Env) : Statement (.perstNAssert e) := fun h => h
theorem perstNDeassert (e : Env) (straps : BitVec 4) : Statement (.perstNDeassert e straps) := fun h => h
theorem vrPgRise (e : Env) (rail : Nat) : Statement (.vrPgRise e rail) := fun h => first h
theorem vrPgTimeout (e : Env) (rail : Nat) : Statement (.vrPgTimeout e rail) := fun h => first h
theorem vrPgFall (e : Env) (rail : Nat) : Statement (.vrPgFall e rail) := fun h => first h
theorem imageReadDone (e : Env) : Statement (.imageReadDone e) := fun h => h
theorem imageVerified (e : Env) : Statement (.imageVerified e) := fun h => h
theorem repairMapApplied (e : Env) : Statement (.repairMapApplied e) := fun h => h
theorem nodeSectionApplied (e : Env) : Statement (.nodeSectionApplied e) := fun h => h
theorem tier1Trained (e : Env) : Statement (.tier1Trained e) := fun h => h
theorem tier2Trained (e : Env) (dimms : List Dimm) : Statement (.tier2Trained e dimms) := fun h => first h
theorem repairTestEnd (e : Env) (found : RepairMap) : Statement (.repairTestEnd e found) := fun h => h
theorem readyStep (e : Env) : Statement (.readyStep e) := fun h => h
theorem trialTimeout (e : Env) : Statement (.trialTimeout e) := fun h => h
theorem collectionMount (e : Env) (p c : Nat) (readable : Bool) : Statement (.collectionMount e p c readable) := fun h => first (first h)
theorem queueCreate (e : Env) (q : QRef) : Statement (.queueCreate e q) := fun h => first h
theorem queueDelete (e : Env) (q : QRef) : Statement (.queueDelete e q) := fun h => first h
theorem queueReset (e : Env) (q : QRef) : Statement (.queueReset e q) := fun h => first h
theorem queueResetDone (e : Env) (q : QRef) : Statement (.queueResetDone e q) := fun h => first h
theorem sessionOpenPhase0 (e : Env) (q : QRef) : Statement (.sessionOpenPhase0 e q) := fun h => first h
theorem sessionOpenPhase1 (e : Env) (q : QRef) : Statement (.sessionOpenPhase1 e q) := fun h => first h
theorem sessionLockoutEnd (e : Env) (slot : Nat) : Statement (.sessionLockoutEnd e slot) := fun h => first h
theorem sessionClose (e : Env) (q : QRef) : Statement (.sessionClose e q) := fun h => first h
theorem sessionKeySet (e : Env) (q : QRef) : Statement (.sessionKeySet e q) := fun h => first h
theorem sessionKeyErase (e : Env) (q : QRef) : Statement (.sessionKeyErase e q) := fun h => first h
theorem attnAck (e : Env) (q : QRef) : Statement (.attnAck e q) := fun h => first h
theorem imageWrite (e : Env) (q : QRef) (form : ImageForm) : Statement (.imageWrite e q form) := fun h => first h
theorem imageVerify (e : Env) (q : QRef) : Statement (.imageVerify e q) := fun h => first h
theorem imageSelect (e : Env) (q : QRef) : Statement (.imageSelect e q) := fun h => first h
theorem imageCommit (e : Env) (q : QRef) : Statement (.imageCommit e q) := fun h => first h
theorem partitionImageLoad (e : Env) (q : QRef) : Statement (.partitionImageLoad e q) := fun h => first h
theorem liveLoadDrainEnd (e : Env) (p : Nat) : Statement (.liveLoadDrainEnd e p) := fun h => first h
theorem drainLimit (e : Env) (p : Nat) : Statement (.drainLimit e p) := fun h => first h
theorem spdmGetVersion (e : Env) (tr : Transport) : Statement (.spdmGetVersion e tr) := fun h => h
theorem spdmGetCapabilities (e : Env) (tr : Transport) : Statement (.spdmGetCapabilities e tr) := fun h => h
theorem spdmNegotiateAlgorithms (e : Env) (tr : Transport) (algs : List SigAlg) : Statement (.spdmNegotiateAlgorithms e tr algs) := fun h => h
theorem spdmGetDigests (e : Env) (tr : Transport) : Statement (.spdmGetDigests e tr) := fun h => h
theorem spdmGetCertificate (e : Env) (tr : Transport) (off len : Nat) : Statement (.spdmGetCertificate e tr off len) := fun h => h
theorem spdmChallenge (e : Env) (tr : Transport) (nonce : List Byte) : Statement (.spdmChallenge e tr nonce) := fun h => h
theorem spdmGetMeasurements (e : Env) (tr : Transport) (index : Nat) (nonce : List Byte) : Statement (.spdmGetMeasurements e tr index nonce) := fun h => h
theorem collectionCreate (e : Env) (q : QRef) : Statement (.collectionCreate e q) := fun h => first h
theorem collectionDrop (e : Env) (q : QRef) : Statement (.collectionDrop e q) := fun h => first h
theorem generationLoad (e : Env) (q : QRef) (parts : List ListPart) : Statement (.generationLoad e q parts) := fun h => first h
theorem generationSwap (e : Env) (q : QRef) : Statement (.generationSwap e q) := fun h => first h
theorem swapFreeze (e : Env) (p c : Nat) : Statement (.swapFreeze e p c) := fun h => first (first h)
theorem swapCommit (e : Env) (p c : Nat) : Statement (.swapCommit e p c) := fun h => first (first h)
theorem swapLimit (e : Env) (p c : Nat) : Statement (.swapLimit e p c) := fun h => first (first h)
theorem generationDiscard (e : Env) (q : QRef) : Statement (.generationDiscard e q) := fun h => first h
theorem shardExport (e : Env) (q : QRef) : Statement (.shardExport e q) := fun h => first h
theorem insertCmd (e : Env) (q : QRef) : Statement (.insertCmd e q) := fun h => first h
theorem deleteCmd (e : Env) (q : QRef) : Statement (.deleteCmd e q) := fun h => first h
theorem upsertCmd (e : Env) (q : QRef) : Statement (.upsertCmd e q) := fun h => first h
theorem commitPoint (e : Env) (p c seq : Nat) : Statement (.commitPoint e p c seq) := fun h => first (first h)
theorem recordRestore (e : Env) (p c : Nat) (r : RecRef) : Statement (.recordRestore e p c r) := fun h => first (first h)
theorem search (e : Env) (q : QRef) : Statement (.search e q) := fun h => first h
theorem audit (e : Env) (q : QRef) : Statement (.audit e q) := fun h => first h
theorem routeExpansion (e : Env) (p qy : Nat) : Statement (.routeExpansion e p qy) := fun h => first h
theorem gatherDeadline (e : Env) (p : Nat) : Statement (.gatherDeadline e p) := fun h => first h
theorem passLaunch (e : Env) (p core : Nat) : Statement (.passLaunch e p core) := fun h => first (first h)
theorem passEnd (e : Env) (p pass : Nat) : Statement (.passEnd e p pass) := fun h => first h
theorem pressUnit (e : Env) (p pass blk core : Nat) : Statement (.pressUnit e p pass blk core) := fun h => first (first h)
theorem selectTop (e : Env) (p qy : Nat) : Statement (.selectTop e p qy) := fun h => first h
theorem fanout (e : Env) (link : Nat) (m : Msg) : Statement (.fanout e link m) := fun h => first (first h)
theorem partialResult (e : Env) (link : Nat) (m : Msg) : Statement (.partialResult e link m) := fun h => first (first h)
theorem mergeWaitExpiry (e : Env) (p inst : Nat) : Statement (.mergeWaitExpiry e p inst) := fun h => first h
theorem closure (e : Env) (link : Nat) (m : Msg) : Statement (.closure e link m) := fun h => first (first h)
theorem modelBatchLaunch (e : Env) (p model : Nat) : Statement (.modelBatchLaunch e p model) := fun h => first (first h)
theorem modelLayerFetched (e : Env) (p model : Nat) : Statement (.modelLayerFetched e p model) := fun h => first (first h)
theorem modelBatchEnd (e : Env) (p batch : Nat) : Statement (.modelBatchEnd e p batch) := fun h => first h
theorem modelLoad (e : Env) (ph : LoadPhase) : Statement (.modelLoad e ph) := fun h => first h
theorem tableCreate (e : Env) (q : QRef) : Statement (.tableCreate e q) := fun h => first h
theorem tableDrop (e : Env) (q : QRef) : Statement (.tableDrop e q) := fun h => first h
theorem tableWrite (e : Env) (q : QRef) : Statement (.tableWrite e q) := fun h => first h
theorem tableRead (e : Env) (q : QRef) : Statement (.tableRead e q) := fun h => first h
theorem poolCmd (e : Env) (q : QRef) : Statement (.poolCmd e q) := fun h => first h
theorem updateCmd (e : Env) (q : QRef) : Statement (.updateCmd e q) := fun h => first h
theorem addApplied (e : Env) (p add : Nat) : Statement (.addApplied e p add) := fun h => first h
theorem migrationCopyWritten (e : Env) (p t row : Nat) : Statement (.migrationCopyWritten e p t row) := fun h => first (first h)
theorem migrationCutover (e : Env) (p t row : Nat) : Statement (.migrationCutover e p t row) := fun h => first (first h)
theorem hotRowBackoffMove (e : Env) (p t row : Nat) : Statement (.hotRowBackoffMove e p t row) := fun h => first (first h)
theorem objectAlloc (e : Env) (q : QRef) : Statement (.objectAlloc e q) := fun h => first h
theorem objectFree (e : Env) (q : QRef) : Statement (.objectFree e q) := fun h => first h
theorem objectPolicy (e : Env) (q : QRef) : Statement (.objectPolicy e q) := fun h => first h
theorem objectWrite (e : Env) (q : QRef) : Statement (.objectWrite e q) := fun h => first h
theorem objectRead (e : Env) (q : QRef) : Statement (.objectRead e q) := fun h => first h
theorem heatAge (e : Env) : Statement (.heatAge e) := fun h => h
theorem pageMigrationCutover (e : Env) (page : Nat) : Statement (.pageMigrationCutover e page) := fun h => h
theorem patrolScrub (e : Env) (finds : List Finding) : Statement (.patrolScrub e finds) := fun h => h
theorem heldAccess (e : Env) (p : Nat) : Statement (.heldAccess e p) := fun h => first h
theorem stackBudgetWindow (e : Env) (stack temp : Nat) : Statement (.stackBudgetWindow e stack temp) := fun h => first h
theorem darnerBackoff (e : Env) (chan waited : Nat) : Statement (.darnerBackoff e chan waited) := fun h => first h
theorem cartPresent (e : Env) (slot : Nat) : Statement (.cartPresent e slot) := fun h => first h
theorem cartIdentified (e : Env) (slot : Nat) (id : CartIdent) : Statement (.cartIdentified e slot id) := fun h => first h
theorem cartRemoved (e : Env) (slot : Nat) : Statement (.cartRemoved e slot) := fun h => first h
theorem lifeRecordWrite (e : Env) (slot : Nat) : Statement (.lifeRecordWrite e slot) := fun h => first h
theorem cartRelease (e : Env) (q : QRef) : Statement (.cartRelease e q) := fun h => first h
theorem cartAdopt (e : Env) (q : QRef) : Statement (.cartAdopt e q) := fun h => first h
theorem flashAlloc (e : Env) (q : QRef) : Statement (.flashAlloc e q) := fun h => first h
theorem flashFree (e : Env) (q : QRef) : Statement (.flashFree e q) := fun h => first h
theorem flashWrite (e : Env) (q : QRef) : Statement (.flashWrite e q) := fun h => first h
theorem flashRead (e : Env) (q : QRef) : Statement (.flashRead e q) := fun h => first h
theorem mapPageRead (e : Env) (slot page : Nat) : Statement (.mapPageRead e slot page) := fun h => first h
theorem mapPageWriteback (e : Env) (slot page : Nat) : Statement (.mapPageWriteback e slot page) := fun h => first h
theorem writeStageFlush (e : Env) (obj blk set : Nat) : Statement (.writeStageFlush e obj blk set) := fun h => first h
theorem programDone (e : Env) (prog : Nat) : Statement (.programDone e prog) := fun h => h
theorem programFailure (e : Env) (bad : OnPlane) (set : Nat) : Statement (.programFailure e bad set) := fun h => first (first h)
theorem fold (e : Env) (slot set : Nat) : Statement (.fold e slot set) := fun h => first (first h)
theorem foldRemap (e : Env) (slot set : Nat) : Statement (.foldRemap e slot set) := fun h => first (first h)
theorem wringer (e : Env) (slot die set : Nat) : Statement (.wringer e slot die set) := fun h => first (first (first h))
theorem eraseFailure (e : Env) (slot : Nat) (bad : OnPlane) (passes : Bool) : Statement (.eraseFailure e slot bad passes) := fun h => first (first (first h))
theorem discard (e : Env) (q : QRef) : Statement (.discard e q) := fun h => first h
theorem secureDiscard (e : Env) (q : QRef) : Statement (.secureDiscard e q) := fun h => first h
theorem doorbell (e : Env) (q : QRef) (sq cq : Option Nat) : Statement (.doorbell e q sq cq) := fun h => first h
theorem aqEnable (e : Env) (fn : Nat) : Statement (.aqEnable e fn) := fun h => first h
theorem aqDisable (e : Env) (fn : Nat) : Statement (.aqDisable e fn) := fun h => first h
theorem functionLevelReset (e : Env) (fn : Nat) : Statement (.functionLevelReset e fn) := fun h => first h
theorem vfEnable (e : Env) (num : Nat) : Statement (.vfEnable e num) := fun h => first h
theorem d3hotEntry (e : Env) (fn : Nat) : Statement (.d3hotEntry e fn) := fun h => first h
theorem d0Entry (e : Env) (fn : Nat) : Statement (.d0Entry e fn) := fun h => first h
theorem hostReadFailure (e : Env) (q : QRef) (what : ReadWhat) : Statement (.hostReadFailure e q what) := fun h => first h
theorem cqVectorTimer (e : Env) (q : QRef) : Statement (.cqVectorTimer e q) := fun h => first h
theorem heartbeat (e : Env) : Statement (.heartbeat e) := fun h => h
theorem functionMap (e : Env) (q : QRef) : Statement (.functionMap e q) := fun h => first h
theorem threadWatchdog (e : Env) (p ctx : Nat) : Statement (.threadWatchdog e p ctx) := fun h => first h
theorem coreWatchdog (e : Env) (p core ctx : Nat) : Statement (.coreWatchdog e p core ctx) := fun h => first (first h)
theorem queueWatchdog (e : Env) (p : Nat) (q : QRef) : Statement (.queueWatchdog e p q) := fun h => first (first h)
theorem coreFault (e : Env) (p core check : Nat) (context : Bool) : Statement (.coreFault e p core check context) := fun h => first (first h)
theorem laneFailure (e : Env) (core slice lane : Nat) : Statement (.laneFailure e core slice lane) := fun h => first (first (first h))
theorem partitionReset (e : Env) (q : QRef) : Statement (.partitionReset e q) := fun h => first h
theorem partitionResetEnd (e : Env) (p : Nat) : Statement (.partitionResetEnd e p) := fun h => first h
theorem partitionRestore (e : Env) (q : QRef) : Statement (.partitionRestore e q) := fun h => first h
theorem restoreEnd (e : Env) (p : Nat) : Statement (.restoreEnd e p) := fun h => first h
theorem faultLogRead (e : Env) (q : QRef) : Statement (.faultLogRead e q) := fun h => first h
theorem spareEngage (e : Env) (q : QRef) : Statement (.spareEngage e q) := fun h => first h
theorem coreSwap (e : Env) (c : CoreErrs) : Statement (.coreSwap e c) := fun h => first h
theorem coreSwapBlockRestart (e : Env) (pcore : Nat) : Statement (.coreSwapBlockRestart e pcore) := fun h => first h
theorem coreSwapCutover (e : Env) (pcore : Nat) : Statement (.coreSwapCutover e pcore) := fun h => first h
theorem bankSpare (e : Env) (chan pos : Nat) : Statement (.bankSpare e chan pos) := fun h => first (first h)
theorem bankSpareCutover (e : Env) (chan : Nat) : Statement (.bankSpareCutover e chan) := fun h => first h
theorem ownershipRelease (e : Env) (q : QRef) : Statement (.ownershipRelease e q) := fun h => first h
theorem ownershipClaim (e : Env) (q : QRef) : Statement (.ownershipClaim e q) := fun h => first h
theorem claimTimeout (e : Env) (p : Nat) (k : ObjKind) (c : Nat) : Statement (.claimTimeout e p k c) := fun h => first (first h)
theorem ownershipResolve (e : Env) (q : QRef) : Statement (.ownershipResolve e q) := fun h => first h
theorem ownRelease (e : Env) (link : Nat) (m : Msg) : Statement (.ownRelease e link m) := fun h => first (first h)
theorem ownClaim (e : Env) (link : Nat) (m : Msg) : Statement (.ownClaim e link m) := fun h => first (first h)
theorem ownState (e : Env) (link : Nat) (m : Msg) : Statement (.ownState e link m) := fun h => first (first h)
theorem epochBoundary (e : Env) (p : Nat) : Statement (.epochBoundary e p) := fun h => first h
theorem mirrorSendTimer (e : Env) (p c : Nat) : Statement (.mirrorSendTimer e p c) := fun h => first (first h)
theorem durabilityHold (e : Env) (p c : Nat) : Statement (.durabilityHold e p c) := fun h => first (first h)
theorem mirrorWrite (e : Env) (link : Nat) (m : Msg) : Statement (.mirrorWrite e link m) := fun h => first (first h)
theorem snapshotTake (e : Env) (q : QRef) : Statement (.snapshotTake e q) := fun h => first h
theorem snapshotTakeRestore (e : Env) (q : QRef) : Statement (.snapshotTakeRestore e q) := fun h => first h
theorem snapChunk (e : Env) (link : Nat) (m : Msg) : Statement (.snapChunk e link m) := fun h => first (first h)
theorem recoverRead (e : Env) (link : Nat) (m : Msg) : Statement (.recoverRead e link m) := fun h => first (first h)
theorem recoverData (e : Env) (link : Nat) (m : Msg) : Statement (.recoverData e link m) := fun h => first (first h)
theorem ackMsg (e : Env) (link : Nat) (m : Msg) : Statement (.ackMsg e link m) := fun h => first (first h)
theorem resendTimeout (e : Env) (seq : Nat) : Statement (.resendTimeout e seq) := fun h => h
theorem levelReject (e : Env) (link : Nat) (m : Msg) : Statement (.levelReject e link m) := fun h => first (first h)
theorem ping (e : Env) (link : Nat) (m : Msg) : Statement (.ping e link m) := fun h => first (first h)
theorem pingReply (e : Env) (link : Nat) (m : Msg) : Statement (.pingReply e link m) := fun h => first (first h)
theorem lnkPing (e : Env) (fn : Nat) (dst : W32) : Statement (.lnkPing e fn dst) := fun h => first h
theorem pingTimeout (e : Env) : Statement (.pingTimeout e) := fun h => h
theorem messageForward (e : Env) (link : Nat) (m : Msg) : Statement (.messageForward e link m) := fun h => first (first h)
theorem flit (e : Env) (link : Nat) (f : RxFlit) : Statement (.flit e link f) := fun h => first (first h)
theorem replayTimeout (e : Env) (link : Nat) : Statement (.replayTimeout e link) := fun h => first h
theorem retrainTimeout (e : Env) (link : Nat) : Statement (.retrainTimeout e link) := fun h => first h
theorem creditStall (e : Env) (link cls pool : Nat) : Statement (.creditStall e link cls pool) := fun h => first (first (first h))
theorem laneFailed (e : Env) (link lane : Nat) : Statement (.laneFailed e link lane) := fun h => first (first h)
theorem capabilityRecord (e : Env) (link : Nat) (rec : CapRec) : Statement (.capabilityRecord e link rec) := fun h => first h
theorem trainTimeout (e : Env) (link : Nat) : Statement (.trainTimeout e link) := fun h => first h
theorem linkDownRetry (e : Env) (link : Nat) : Statement (.linkDownRetry e link) := fun h => first h
theorem lnkNodeId (e : Env) (fn : Nat) (v : W64) : Statement (.lnkNodeId e fn v) := fun h => first h
theorem refillInstant (e : Env) : Statement (.refillInstant e) := fun h => h
theorem wheelSlotDue (e : Env) (link cls : Nat) (owner : Nat) : Statement (.wheelSlotDue e link cls owner) := fun h => first (first h)
theorem powerSet (e : Env) (q : QRef) : Statement (.powerSet e q) := fun h => first h
theorem partitionPower (e : Env) (q : QRef) : Statement (.partitionPower e q) := fun h => first h
theorem entryDrainLimit (e : Env) (en : EntryRef) : Statement (.entryDrainLimit e en) := fun h => first h
theorem entryCommit (e : Env) (en : EntryRef) : Statement (.entryCommit e en) := fun h => first h
theorem partitionGate (e : Env) (p : Nat) : Statement (.partitionGate e p) := fun h => first h
theorem wake (e : Env) (fn : Nat) : Statement (.wake e fn) := fun h => first h
theorem bmcWakeMessage (e : Env) : Statement (.bmcWakeMessage e) := fun h => h
theorem wakeHold (e : Env) : Statement (.wakeHold e) := fun h => h
theorem wakeFailure (e : Env) : Statement (.wakeFailure e) := fun h => h
theorem pwrPadRelease (e : Env) (fn : Nat) : Statement (.pwrPadRelease e fn) := fun h => first h
theorem autoRelease (e : Env) : Statement (.autoRelease e) := fun h => h
theorem partitionWakeDone (e : Env) (p : Nat) : Statement (.partitionWakeDone e p) := fun h => first h
theorem powerSample (e : Env) (watts : Nat) : Statement (.powerSample e watts) := fun h => h
theorem junctionSample (e : Env) (cmp0 cmp1 iod : Nat) : Statement (.junctionSample e cmp0 cmp1 iod) := fun h => h
theorem thermalTrip (e : Env) (temp : Nat) : Statement (.thermalTrip e temp) := fun h => h
theorem avsAdjust (e : Env) (rail temp : Nat) : Statement (.avsAdjust e rail temp) := fun h => first h
theorem avsResponse (e : Env) (rail : Nat) (r : AvsResp) : Statement (.avsResponse e rail r) := fun h => first h
theorem avsSettleTimeout (e : Env) (rail : Nat) : Statement (.avsSettleTimeout e rail) := fun h => first h
theorem lockLost (e : Env) : Statement (.lockLost e) := fun h => h
theorem registerWrite (e : Env) (fn : Nat) (bar : Bar) (off : Nat) (w : Width) (v : W64) : Statement (.registerWrite e fn bar off w v) := fun h => first (first h)
theorem collectiveDefine (e : Env) (q : QRef) : Statement (.collectiveDefine e q) := fun h => first h
theorem hostLinkUp (e : LinkUp) : Statement (.hostLinkUp e) := fun h => first (first (first h))
theorem linkTrained (e : Env) (link : Nat) : Statement (.linkTrained e link) := fun h => first h
theorem linkTrainingLost (e : Env) (link : Nat) : Statement (.linkTrainingLost e link) := fun h => first h
theorem linkEnable (e : Env) (fn link : Nat) (v : Bool) : Statement (.linkEnable e fn link v) := fun h => first (first h)
theorem ptnBuddy (e : Env) (fn p : Nat) (v : W64) : Statement (.ptnBuddy e fn p v) := fun h => first (first h)
theorem vfDisable (e : Env) (num : Nat) : Statement (.vfDisable e num) := fun h => first h
theorem rootPllRelock (e : Env) : Statement (.rootPllRelock e) := fun h => h
theorem wakeComplete (e : Env) : Statement (.wakeComplete e) := fun h => h
theorem powerLoss (e : Env) : Statement (.powerLoss e) := fun h => h
theorem eraseDone (e : Env) (slot set : Nat) : Statement (.eraseDone e slot set) := fun h => first (first h)

end Sys2Proof.Laws.Timed
end

