-- ==== Sys2Proof/Laws/Step.lean ====
section
/-! SUPPORT. What a step can do, said once: every command ends in a next state made by `runClk`; a host command that its row takes runs its job; a message that is delivered runs its kind's rule. -/

namespace Sys2Proof.Machine

/-- Every command ends in a next state: time and the host's stores pass, a body changes the node, the node's writes land; the counters are corrected by nothing or by `bootFix`. -/
theorem exec_shape (i : Instr) (s : State) : ∃ (e : Env) (body : Clock → Mem → Node → Node), exec i s = .next (runClk (fun c _ => c) e body s) ∨ exec i s = .next (runClk bootFix e body s) := by
  cases i with
  | modelLoad e ph => cases ph <;> exact ⟨e, _, Or.inl rfl⟩
  | _ => first | exact ⟨_, _, Or.inl rfl⟩ | exact ⟨_, _, Or.inr rfl⟩
/-- A meaning made by `run`, while the clocks run: its body on what the command finds. -/
theorem run_ok {e s} {b : Clock → Mem → Node → Node} (h : alive (nodeOf e s) = true) : run e b s = .next (endsWith e s (b (clkOf e s) (hostOf e s) (nodeOf e s))) := by
  show Host.Outcome.next (runState e (fun clk host n => if alive n then b clk host n else n) s) = _
  unfold runState runClk endsWith
  show Host.Outcome.next _ = Host.Outcome.next _
  have : alive (nodeOf e s) = true := h
  simp only [nodeOf, clkOf] at this
  simp only [this, if_true]; rfl
/-- A meaning of the always-on domain: its body on what the command finds. -/
theorem aon_ok {e s} {b : Clock → Mem → Node → Node} : runAon e b s = .next (endsWith e s (b (clkOf e s) (hostOf e s) (nodeOf e s))) := rfl
/-- An accepted entry runs its job (R371). -/
theorem hostCmd_accepted {r : Row} {mine chk ptn job} {q : QRef} {e : Env} {s : State} {t x n}
    (ha : accepts r mine chk ptn q e s = true) (hf : fetch ptn q e s = some (t, x, n)) :
    hostCmd r mine chk ptn job q (clkOf e s) (hostOf e s) (nodeOf e s) = job (clkOf e s) (hostOf e s) t x n := by
  unfold accepts at ha
  rw [hf] at ha
  unfold fetch at hf
  unfold hostCmd
  dsimp only at ha hf ⊢
  split at hf
  · rename_i qu n1 hq hg
    try simp only [hq, hg]
    simp only [Option.some.injEq, Prod.mk.injEq] at hf
    obtain ⟨rfl, rfl, rfl⟩ := hf
    generalize hx : nextEntry (hostOf e s) qu = x at *
    simp only [Bool.and_eq_true] at ha
    obtain ⟨_, ⟨⟨⟨⟨⟨⟨⟨h1, h2⟩, h3⟩, h4⟩, h5⟩, h6⟩, h7⟩, h8⟩⟩ := ha
    have hb : (!opcodeOk q.fn q.qid x.opc || recovery (nodeOf e s) && !recoveryOpc x.opc) = false := by
      simp only [h3, Bool.not_true, Bool.false_or]
      revert h4; cases recovery (nodeOf e s) <;> cases recoveryOpc x.opc <;> simp
    simp only [hb, h1, h2]
    generalize hat : (if q.qid = 0 then ptn (nodeOf e s) q.fn x else (getFn (nodeOf e s) q.fn).map) = at_ at *
    have h6' : entryBad r x = none := by simpa using h6
    have h7' : chk (nodeOf e s) q.fn x = none := by simpa using h7
    have h5' : (r.s && (getFn (nodeOf e s) q.fn).session.isNone) = false := by
      revert h5; cases r.s <;> cases (getFn (nodeOf e s) q.fn).session <;> simp
    cases at_ with
    | none => simp [h6', h7', h5']
    | some p =>
      simp only [Bool.and_eq_true] at h8
      obtain ⟨ho, hw⟩ := h8
      have hw' : ((getP (nodeOf e s) p).st == PtnSt.withdrawn) = false := by
        revert hw; cases (getP (nodeOf e s) p).st <;> simp 
      have ho' : (q.qid == 0 && !false && ptnAsleep (nodeOf e s) p) = false := by
        revert ho; cases (q.qid == 0) <;> cases ptnAsleep (nodeOf e s) p <;> simp
      simp only [ho', hw', h6', h7', h5']
      simp
  · cases hf
/-- A row takes an entry only while the clocks run. -/
theorem taken_alive {r : Row} {mine chk ptn} {q : QRef} {e : Env} {s : State} {t x n} (h : Taken r mine chk ptn q e s t x n) : alive (nodeOf e s) = true := by
  have := h.1; unfold accepts at this; exact ((Bool.and_eq_true _ _).mp this).1
/-- A host command whose row takes the entry: its job on the node after the fetch. -/
theorem host_ok {r : Row} {mine chk ptn job} {q : QRef} {e : Env} {s : State} {t x n}
    (h : Taken r mine chk ptn q e s t x n) : run e (hostCmd r mine chk ptn job q) s = .next (endsWith e s (job (clkOf e s) (hostOf e s) t x n)) := by
  have ha := taken_alive h
  rw [run_ok ha, hostCmd_accepted h.1 h.2]
/-- A meaning made by `runBoot`. -/
theorem boot_ok {e s} {b : Clock → Node → Node} : runBoot e b s = .next (endsBoot e s (b (clkOf e s) (nodeOf e s))) := rfl
/-- A delivered message runs its kind's rule. -/
theorem msg_ok {kind l : Nat} {m : Msg} {rule : Clock → Node → Node} {e : Env} {s : State} {n : Node} (h : Delivered kind l m e s n) :
    run e (onMsg kind l m rule) s = .next (endsWith e s (rule (clkOf e s) n)) := by
  rw [run_ok h.1]; simp [onMsg, h.2]

end Sys2Proof.Machine
end

