-- ==== Sys2Proof/Tests/Slice0.lean ====
section
/-! SUPPORT. Small tests: the WellFormed smoke, checks against values that the spec gives, and for every statement a state and operands that meet its hypotheses, clause by clause. -/

namespace Sys2Proof.Tests

open Sys2Proof.Machine

set_option maxRecDepth 100000
set_option Elab.async false

/-! ### Helpers -/

/-- A node that runs the factory image: out of reset, every boot step complete, one partition over everything, the physical function with its admin pair, an I/O pair and a session. -/
def upNode : Node :=
  let n := State.reset.node
  let q (b w : Nat) : Queue := { sqBase := b, cqBase := b + 0x1000, sqSize := 7, cqSize := 7, cls := if w = 0 then 0 else 2, weight := w, ien := true, aggCount := 1 }
  { n with
    pins := { n.pins with perst := true, vrEn := 31, vrPg := 31 }
    boot := { n.boot with step := 10, ready := true, image := some factoryImage, done := [7, 8], mapRead := true, mapGood := true, hostUp := true, imgRead := true }
    fns := vmod n.fns 0 (fun x => { x with enabled := true, map := some 0, aqCtl := 3, session := some 0, queues := [(0, q 0x10000 0), (1, q 0x20000 1)] })
    ptns := vmod n.ptns 0 (fun x => { x with ent := { cores := 0xFFFFFFFFFFFFFFFF, stks := 0xFF, valid := true, t2 := 0xFFF, threads := 4194304 }, st := .inService, sec := factoryImage.parts.head?, share := 4194304 }) }
/-- The time of the tests, in CTL cycles. -/
abbrev now : Nat := 1000000000000
/-- A state with nothing pending. -/
def stateOf (host : Mem) (n : Node) : State := { pending := [], clk := { node := now, ptn := Vector.replicate 8 (some now) }, host := host, node := n }
def adm : QRef := { fn := 0, qid := 0 }
def io : QRef := { fn := 0, qid := 1 }
/-- An entry of Table 11-7. -/
def entry (opc flags target a0 a1 : Nat) (gs : List Nat) : List Byte :=
  toLe 1 opc ++ toLe 1 flags ++ toLe 2 7 ++ toLe 2 target ++ toLe 2 0 ++ toLe 8 a0 ++ toLe 8 a1 ++ toLe 8 (gs.getD 0 0) ++ toLe 8 (gs.getD 1 0) ++ toLe 8 (gs.getD 2 0) ++ toLe 8 (gs.getD 3 0) ++ toLe 8 0
/-- The node with that entry at the front of a pair, and the host's memory. -/
def with_ (q : QRef) (bs : List Byte) (mem : Mem) (n : Node) : State :=
  stateOf (Mem.writeN mem (0x10000 * (q.qid + 1)) bs) (modQ q.fn q.qid (fun x => { x with sqTail := (x.sqHead + 1) % 8 }) n)
/-- The row takes the entry, and what is fetched meets `k`. -/
def takes (r : Row) (mine : Sqe → Bool) (chk : Node → Nat → Sqe → Option Nat) (ptn : Node → Nat → Sqe → Option Nat) (q : QRef) (s : State) (k : Tok → Sqe → Node → Bool) : Bool :=
  match fetch ptn q {} s with
  | some (t, x, n) => accepts r mine chk ptn q {} s && k t x n
  | none => false
/-- The message is delivered, and the node after its checks meets `k`. -/
def delivered (kind l : Nat) (m : Msg) (s : State) (k : Node → Bool) : Bool := alive (nodeOf {} s) && (arrive (clkOf {} s) kind l m (nodeOf {} s)).2 && k (arrive (clkOf {} s) kind l m (nodeOf {} s)).1
/-- The node as a command without time or host stores finds it. -/
def seen (n : Node) (k : Node → Bool) : Bool := alive (nodeOf {} (stateOf [] n)) && k (nodeOf {} (stateOf [] n))
/-- The same where the clocks need not run. -/
def found (n : Node) (k : Node → Bool) : Bool := k (nodeOf {} (stateOf [] n))
def isNext (o : Host.Outcome State Fault Refusal) : Bool := match o with
  | .next _ => true
  | _ => false
/-- An option holds a value that meets `k`. -/
def has {α : Type} (o : Option α) (k : α → Bool) : Bool := match o with
  | some x => k x
  | none => false

/-! ### WellFormed refuses an ill-formed term for each check -/

theorem test_wellFormed_refuses : wellFormed (.vrPgRise {} 5) = false ∧ wellFormed (.collectionMount {} 8 0 true) = false ∧ wellFormed (.collectionMount {} 0 256 true) = false ∧ wellFormed (.queueCreate {} ⟨64, 0⟩) = false ∧
    wellFormed (.queueCreate {} ⟨0, 4097⟩) = false ∧ wellFormed (.queueCreate { host := [(2 ^ 64, [0])] } adm) = false ∧ wellFormed (.sessionLockoutEnd {} 8) = false ∧ wellFormed (.linkTrained {} 36) = false ∧
    wellFormed (.laneFailed {} 0 2) = false ∧ wellFormed (.registerWrite {} 0 .bar2 4 .full 0) = false ∧ wellFormed (.eraseDone {} 4 0) = false ∧ wellFormed (.eraseDone {} 0 (2 ^ 32)) = false ∧
    wellFormed (.ping {} 0 { dst := 0, src := 0, kind := 256, level := 3 }) = false ∧ wellFormed (.ping {} 0 { dst := 0, src := 0, kind := 0, level := 3, hops := 64 }) = false ∧
    wellFormed (.flit {} 0 { bytes := some (List.replicate 257 0) }) = false ∧ wellFormed (.queueCreate {} adm) = true := by decide

/-! ### Steps -/

theorem witness_EmptyQueueIdles : State.reset.pending = [] := by decide
theorem witness_CommandsLeaveTheQueue : isNext (exec (.powerLoss {}) State.reset) = true := by decide +kernel
theorem witness_HostMemoryStaysCanonical : ((stateOf (Mem.writeN [] 0x100 [1, 2]) upNode).memWf && isNext (step { stateOf (Mem.writeN [] 0x100 [1, 2]) upNode with pending := [.heartbeat { host := [(0x100, [0])] }] })) = true := by decide +kernel
theorem witness_CountersAreMonotonic : (!startsOver (.heartbeat { dt := 3 }) && isNext (exec (.heartbeat { dt := 3 }) (stateOf [] upNode))) = true := by decide +kernel

/-! ### Chapter 11 -/

theorem witness_QueueCommandsComplete :
    (takes Rows.queueCreate anyEntry queueCreateChk noPtn adm (with_ adm (entry 0x01 0 2 0x40000 0x50000 [7 + 7 * 65536 + 2 ^ 40]) [] upNode) (fun t _ n => (getFn n t.fn).map.isSome && decide (ioCount n < 4096)) &&
     takes Rows.queueDelete anyEntry ioChk noPtn adm (with_ adm (entry 0x02 0 1 0 0 []) [] upNode) (fun t x n => has (getQ n t.fn x.target) (fun y => y.cmds.isEmpty && y.st != .resetting)) &&
     takes Rows.queueReset anyEntry ioChk noPtn adm (with_ adm (entry 0x03 0 1 0 0 []) [] upNode) (fun t x n => has (getQ n t.fn x.target) (fun y => y.st != .resetting)) &&
     seen (modQ 0 1 (fun y => { y with st := .resetting, sqHead := 3, sqTail := 3, resetTo := 3 }) upNode) (fun n =>
       has (getQ (abortEntries (clkOf {} (stateOf [] upNode)) [] 0 1 n) 0 1) (fun y => y.st == .resetting && y.sqHead == y.resetTo && y.cmds.isEmpty))) = true := by decide +kernel
/-- Key slot 0 holds a key that opens function 0; the function has a nonce of it. -/
def keyed : Node := modFn 0 (fun f => { f with nonce := some { value := 5, slot := 0, at_ := now - 1 } }) (modKey 0 (fun k => { k with key := some (List.replicate 32 1), mask := 1 }) upNode)
theorem witness_SessionCommandsComplete :
    (takes Rows.sessionOpen (fun x => !x.arg0.testBit 8) noChk noPtn adm (with_ adm (entry 0x04 0 0 0x40000 0 []) [] keyed) (fun _ x n => !lockedAt { node := now } (getKey n (x.arg0 % 8)) && (getKey n (x.arg0 % 8)).key.isSome) &&
     takes Rows.sessionClose anyEntry noChk noPtn adm (with_ adm (entry 0x05 0 0 0 0 []) [] upNode) (fun _ _ _ => true) &&
     seen (modKey 7 (fun k => { k with locked := some now }) upNode) (fun n => has (getKey n 7).locked (fun k => decide (k ≤ now))) &&
     takes (keyRow (with_ adm (entry 0x06 0 0 0x40000 0 []) [] upNode).host adm (with_ adm (entry 0x06 0 0 0x40000 0 []) [] upNode).node) (fun x => !x.arg0.testBit 8) noChk noPtn adm (with_ adm (entry 0x06 0 0 0x40000 0 []) [] upNode) (fun _ _ _ => true) &&
     takes Rows.sessionKeySet (fun x => x.arg0.testBit 8) noChk noPtn adm (with_ adm (entry 0x06 0 0 0x40000 0 [0x107]) [] keyed) (fun _ _ _ => true)) = true := by decide +kernel
theorem witness_SessionCommandsComplete_phase1 :
    takes Rows.sessionOpen (fun x => x.arg0.testBit 8) noChk noPtn adm
      (with_ adm (entry 0x04 0 0 0x40000 0x50000 [0x100]) (Mem.writeN (Mem.writeN [] 0x40000 (List.replicate 32 2)) 0x40020 (hmac384 (List.replicate 32 1) (sessionMsg tagSo 0 0 5 (List.replicate 32 2)))) keyed)
      (fun t x n => !lockedAt { node := now } (getKey n (x.arg0 % 8)) && (proofOk { node := now } n t.fn (x.arg0 % 8)
        (List.replicate 32 2 ++ hmac384 (List.replicate 32 1) (sessionMsg tagSo 0 0 5 (List.replicate 32 2)))).isSome) = true := by decide +kernel
/-- The physical function's admin registers hold depths and bases, `ENABLE` still clear. -/
def offAdmin (ctl sq : W64) : Node := modFn 0 (fun f => { f with aqCtl := ctl, aqSq := sq, aqCq := 0x2000, queues := [] }) upNode
theorem witness_AdminPairStartsAndStops :
    (found (offAdmin 0x0000000100010000 0x1000) (fun n => let f := getFn n 0; reach n && !aonOnly n && f.enabled && !aqEnabled f && decide (1 ≤ fld f.aqCtl 16 12) && decide (fld f.aqCtl 16 12 ≤ fld f.aqCtl 32 12) && fld f.aqSq 12 52 != 0 && fld f.aqCq 12 52 != 0) &&
     found (offAdmin 0x0000000100020000 0x1000) (fun n => let f := getFn n 0; reach n && !aonOnly n && f.enabled && !aqEnabled f && decide (fld f.aqCtl 32 12 < fld f.aqCtl 16 12)) &&
     found (offAdmin 0x0000000100010000 0) (fun n => let f := getFn n 0; reach n && !aonOnly n && f.enabled && !aqEnabled f && fld f.aqSq 12 52 == 0) &&
     found upNode (fun n => reach n && !aonOnly n && aqEnabled (getFn n 0))) = true := by decide +kernel
theorem witness_DoorbellsRing :
    (found upNode (fun n => reach n && (getFn n 0).enabled && has (getQ n 0 1) (fun y => y.sqSize == 7 && y.unreleased == 0) && (getFn n 0).map == some 0 && (getP n 0).pow == .on && n.pwr.st == .run) &&
     found (modQ 0 1 (fun y => { y with cqTail := 2 }) upNode) (fun n => has (getQ n 0 1) (fun y => decide ((2 + (y.cqSize + 1) - y.cqHead) % (y.cqSize + 1) ≤ y.unreleased) && decide (y.unreleased < (3 + (y.cqSize + 1) - y.cqHead) % (y.cqSize + 1))))) = true := by decide +kernel
/-- An image that allows virtual functions. -/
def vfNode (k : Nat) : Node := { modFn 1 (fun f => { f with enabled := true }) upNode with totalVfs := 63, numVfs := k }
theorem witness_FunctionEventsComplete :
    (found (vfNode 1) (fun n => reach n && (getFn n 1).enabled) &&
     found (vfNode 62) (fun n => reach n && n.boot.mode != 1 && decide (63 ≤ n.totalVfs) && decide (n.numVfs < 63) && n.boot.image.isSome) &&
     found (vfNode 1) (fun n => reach n && decide (0 < n.numVfs)) &&
     found upNode (fun n => reach n && (getFn n 0).enabled && (getFn n 0).dst != .d3hot) &&
     found (modFn 0 (fun f => { f with dst := .d3hot }) upNode) (fun n => reach n && (getFn n 0).enabled && (getFn n 0).dst == .d3hot)) = true := by decide +kernel
theorem witness_HostNotificationsComplete :
    (let n := nodeOf {} (with_ io (entry 0x80 0 0 0 0 []) [] upNode)
     alive n && has (getQ n 0 1) (fun y => y.st != .resetting) && (grant { node := now } io n).isSome &&
     seen (modQ 0 1 (fun y => { y with unsig := 1, unsigAt := some now }) upNode) (fun n => has (getQ n 0 1) (fun y => y.ien && y.unsig != 0 && has y.unsigAt (fun t => decide (t + 300 * y.aggUs ≤ now)))) &&
     takes Rows.attnAck anyEntry noChk noPtn adm (with_ adm (entry 0x07 0 0 0 0 [0xFFFF]) [] upNode) (fun t x n => x.arg0 / 65536 % 2 ^ 32 == (getFn n t.fn).attnSeq.toNat) &&
     takes Rows.attnAck anyEntry noChk noPtn adm (with_ adm (entry 0x07 0 0 0 0 [0x1FFFF]) [] upNode) (fun t x n => x.arg0 / 65536 % 2 ^ 32 != (getFn n t.fn).attnSeq.toNat)) = true := by decide +kernel
theorem witness_HostNotificationsComplete_beat :
    (let s : State := { stateOf [] upNode with clk := { node := 3000000, ptn := Vector.replicate 8 (some 3000000) } }
     let n := nodeOf {} s
     alive n && n.boot.ready && n.boot.mode != 1 && reach n && awake n && (clkOf {} s).node % 3000000 == 0 && n.hbAt != some (clkOf {} s).node) = true := by decide +kernel

/-! ### Chapter 14 -/

/-- `upNode` with its power block and its partition 0 changed. -/
def pw (g : Power → Power) (h : Ptn → Ptn) : Node := modPwr g (modP 0 h upNode)
/-- Every rail at 750 mV, reached (rail 5 and rail 4 in their own ranges). -/
def railsUp (w : Power) : Power := { w with rails := w.rails.mapIdx (fun i x => { x with mv := [750, 750, 800, 750, 800, 1100].getD i 0, target := [750, 750, 800, 750, 800, 1100].getD i 0 }) }
theorem witness_PowerEntriesComplete :
    (takes Rows.powerSet anyEntry powerSetChk noPtn adm (with_ adm (entry 0x50 0 0 0 0 [4]) [] upNode) (fun _ x n => n.pwr.st == .run && x.arg0 == 4) &&
     takes Rows.partitionPower anyEntry partitionPowerChk noPtn adm (with_ adm (entry 0x51 0 0 0 0 [2]) [] upNode) (fun _ x n => x.arg0 == 2 && n.pwr.st != .entering && (getP n x.target).st == .inService && (getP n x.target).pow == .on) &&
     seen (pw (fun w => { w with st := .entering, entryAt := 0 }) (fun x => { x with queries := [(0, default)] })) (fun n => n.pwr.st == .entering && !allDrained n && decide (n.pwr.entryAt + (300 + 300000 * fld n.pwr.ctl 24 8) ≤ now)) &&
     seen (pw id (fun x => { x with pow := .entering, shutAt := now - 61800 })) (fun n => (getP n 0).pow == .entering && n.pwr.st != .entering && drained n 0 && decide ((getP n 0).shutAt + 61800 ≤ now) && !(getP n 0).enPend) &&
     seen (pw id (fun x => { x with idleFor := 6000 })) (fun n => let x := getP n 0; x.st == .inService && x.pow == .on && !cmdsLeft n 0 && !workLeft n 0 && x.ctxs.isEmpty && n.pwr.st == .run && decide (300 * fld n.pwr.ctl 0 16 ≤ x.idleFor))) = true := by decide +kernel
theorem witness_WakesComplete :
    (found (pw (fun w => { w with st := .rest }) id) (fun n => reach n && n.pwr.st == .rest && !n.pwr.wakeFail) &&
     found (pw (fun w => { w with st := .sleep }) id) (fun n => n.pins.perst && !n.boot.stopped && n.pwr.st == .sleep && !n.pwr.wakeFail) &&
     [2, 3].all (fun k => found (pw (fun w => { railsUp w with st := .waking, padHeld := true, target := k }) id) (fun n => n.pwr.st == .waking && n.pwr.padHeld && !n.boot.stopped && railsBack n && n.pwr.target == k)) &&
     found (pw (fun w => { w with st := .waking, padHeld := true, target := 2, wakeTry := 1 }) id) (fun n => n.pwr.st == .waking && n.pwr.padHeld && !n.boot.stopped && n.pwr.target == 2 && n.pwr.wakeTry != 0) &&
     found (pw (fun w => { w with st := .wakeHold, padHeld := true }) id) (fun n => reach n && n.pwr.st == .wakeHold && n.pwr.padHeld) &&
     seen (pw (fun w => { w with st := .wakeHold, padHeld := true, holdAt := now - 3000000, ctl := put w.ctl 16 1 1 }) id) (fun n => bit n.pwr.ctl 16 && n.pwr.st == .wakeHold && n.pwr.padHeld && decide (n.pwr.holdAt + 3000000 ≤ now)) &&
     seen (pw (fun w => { w with st := .waking, target := 2 }) id) (fun n => n.pwr.st == .waking && !n.pwr.padHeld && n.pwr.target == 2) &&
     seen (pw railsUp (fun x => { x with pow := .waking, shutAt := now - 195000 })) (fun n => (getP n 0).pow == .waking && decide ((getP n 0).shutAt + 195000 ≤ now) && (railsOf (getP n 0)).all (railUp n) && n.pwr.st != .entering)) = true := by decide +kernel
theorem witness_LimitEventsComplete :
    (seen (pw railsUp id) (fun n => let x := getRail n 5; decide (railLow 5 ≤ x.target) && !retained n 5 && n.pwr.st == .run && decide (x.adjAt + 30000000 ≤ now)) &&
     found (pw (fun w => { w with rails := vmod w.rails 5 (fun x => { x with busy := some 1, acked := true }) }) id) (fun n => let x := getRail n 5; x.busy.isSome && x.acked && x.want == 0 && !n.boot.stopped) &&
     found (pw (fun w => { w with rails := vmod w.rails 5 (fun x => { x with busy := some (now - 60000), acked := true }) }) id) (fun n => let x := getRail n 5; x.busy == some (now - 60000) && x.acked && !n.boot.stopped && decide (now - 60000 + 300 * fld n.pwr.avsCfg 0 16 ≤ now)) &&
     seen upNode (fun _ => decide (980 < 981) && decide (max 109 (max 0 0) < 110)) && found upNode (fun n => n.pins.perst && !n.boot.stopped)) = true := by decide +kernel

/-! ### Registers -/

theorem witness_NodeIdReadsAsTheTableGives : (reach upNode && (getFn upNode 0).enabled && found upNode (fun n => !aonOnly n)) = true := by decide +kernel
theorem witness_SharesReadIn256ths : (0 < 256 ∧ 255 * 256 ≤ 256 * 255) ∧ (256 * 0 < 1) := by decide
/-- R368 at its ends. -/
theorem test_shares : in256 255 256 = 255 ∧ in256 256 256 = 255 ∧ in256 254 256 = 254 ∧ in256 1 257 = 0 := by decide
theorem witness_RegisterWritesFollowTheirAccessCodes : (decide (32 < 64) && !(fmask 0 32).getLsbD 32 && qryOk {} 0x000000001900FFFF && !qryOk {} 0) = true := by decide +kernel
/-- Two W1C bits set in this cycle. -/
def justSet : Node :=
  noteSet 0x50508 32 (noteSet 0x80020 12 (modPwr (fun w => { w with uncapp := true }) (modP 0 (fun x => { x with wdCfg := put x.wdCfg 32 1 1 }) upNode)))
theorem witness_SetsWinOverClearing :
    (found upNode (fun n => onBus 0 n && inSession 0 n && (getP n 0).st != .absent && !wdOk (merged .full 0 (getP n 0).wdCfg)) &&
     found justSet (fun n => reach n && !aonOnly n && (getFn n 0).enabled && n.pwr.w1cSets.contains (0x50508, 32) && (getP n 0).wdCfg.getLsbD 32 && n.pwr.w1cSets.contains (0x80020, 12) && n.pwr.uncapp) &&
     decide ((stateOf [] upNode).clk.node < (clkOf { dt := 1 } (stateOf [] upNode)).node)) = true := by decide +kernel
theorem witness_ConfigurationWritesReachTheirRegister : (onBus 0 upNode && (getP upNode 0).st != .absent && onBus 1 (vfNode 1) && (getFn (vfNode 1) 1).map != some 0) = true := by decide +kernel
theorem witness_WritesAreLostWhileTheNodeSleeps : found (pw (fun w => { w with st := .sleep }) id) (fun n => reach n && aonOnly n && (getFn n 0).enabled) = true := by decide +kernel
theorem witness_RegistersWithRowsOfTheirOwnComplete :
    (found upNode (fun n => onBus 0 n && inSession 0 n && fld 0xFFFFFFFE 0 32 != 0xFFFFFFFF && fld 0xFFFFFFFF 0 32 == 0xFFFFFFFF && (getL n 35).enable && (getP n 0).st != .absent && !mirrorOn (getP n 0) && !bit (getP n 0).durCfg 0) &&
     found (modL 35 (fun x => { x with enable := false }) upNode) (fun n => onBus 0 n && inSession 0 n && !(getL n 35).enable)) = true := by decide +kernel

/-! ### Chapter 12 -/

/-- Node 5, its link 35 in the state given. -/
def lk (g : Link → Link) : Node := modL 35 g (modLnk (fun b => { b with nodeId := 5, routes := [(9, 0x0000000900403580)] }) upNode)
def rec9 (id : W32) (proto min_ : Nat) : CapRec := { nodeId := id, link := 0, proto := proto, protoMin := min_, fmt := 4, fmtMin := 2, imageVer := 1 }
theorem witness_LinksTrain :
    (seen (lk (fun x => { x with st := .train, bad := [1] })) (fun n => (getL n 35).st == .train && decide ((getL n 35).bad.length < 2)) &&
     seen (lk (fun x => { x with st := .degraded })) (fun n => (getL n 35).carries) &&
     seen (lk (fun x => { x with st := .negotiate })) (fun n => (getL n 35).st == .negotiate && n.lnk.nodeId != 0 && (rec9 0 4 3).nodeId == 0 && n.lnk.nodeId == (rec9 5 4 3).nodeId && n.lnk.nodeId != (rec9 9 4 3).nodeId &&
       decide (min (imgProto n) (rec9 9 2 1).proto < max 3 (rec9 9 2 1).protoMin) && decide (max 3 (rec9 9 3 3).protoMin ≤ min (imgProto n) (rec9 9 3 3).proto)) &&
     seen (lk (fun x => { x with st := .train, since := now - 45000000 })) (fun n => (getL n 35).st == .train && decide ((getL n 35).since + 45000000 ≤ now)) &&
     seen (lk (fun x => { x with st := .retrain, since := now - 6000000 })) (fun n => (getL n 35).st == .retrain && decide ((getL n 35).since + 6000000 ≤ now)) &&
     seen (lk (fun x => { x with st := .down, since := now - 300000000 })) (fun n => (getL n 35).st == .down && decide ((getL n 35).since + 300000000 ≤ now) && decide ((getL n 35).bad.length < 2)) &&
     seen (lk (fun x => { x with st := .active })) (fun n => (getL n 35).bad.isEmpty && (getL n 35).st == .active && (List.range 6).all (fun i => !(getL n (30 + i)).spare)) &&
     seen (lk (fun x => { x with st := .active, spare := true })) (fun n => (getL n 35).bad.isEmpty && (getL n 35).st == .active && (getL n (30 + 5)).spare)) = true := by decide +kernel
/-- A flit of 240 bytes with its CRC: kind 1, class 0, sequence 4,095. -/
def flitBytes : List Byte := let b := toLe 2 4095 ++ toLe 3 0 ++ toLe 1 1 ++ List.replicate 234 0; b ++ toLe 4 (crc32c b).toNat
def msgTo (dst : W32) (kind hops : Nat) (body : List Byte) : Msg := { dst := dst, src := 9, kind := kind, level := 3, hops := hops, seq := 1, body := body }
theorem witness_FlitsMove :
    (seen (lk (fun x => { x with st := .active })) (fun n => (getL n 35).carries) &&
     seen (lk (fun x => { x with st := .active, rxSeq := 4095 })) (fun n => (getL n 35).carries && flitBytes.length == 244 && crc32c (flitBytes.take 240) == BitVec.ofNat 32 (leAt flitBytes 240 4) && leAt flitBytes 5 1 % 4 == 1 && leAt flitBytes 5 1 / 4 % 2 == 0 &&
       leAt flitBytes 0 2 % 4096 == (getL n 35).rxSeq) &&
     seen (lk (fun x => { x with st := .active, replay := [{ fseq := 0, mseq := 0, cls := 0, at_ := now - 2400, tries := 14 }] })) (fun n => (getL n 35).carries && has (getL n 35).replay.head? (fun f => decide (f.at_ + 2400 ≤ now) && decide (f.tries < 15))) &&
     seen (lk (fun x => { x with st := .active, credits := List.replicate 16 0, stallAt := List.replicate 16 (now - 30000000), waiting := [{ m := msgTo 9 mkPing 0 [], pool := 1, own := 0 }] })) (fun n => let x := getL n 35
       x.carries && x.waiting.any (fun g => msgClass g.m.kind == msgClass mkPing && g.pool == 1) && x.credits.getD (2 * msgClass mkPing + 1) 0 == 0 && decide (x.stallAt.getD (2 * msgClass mkPing + 1) 0 + 30000000 ≤ now) && decide (msgClass mkPing < 8)) &&
     seen (lk (fun x => { x with st := .active })) (fun n => (msgTo 9 mkPing 62 []).dst != n.lnk.nodeId && delivers n 35 && decide ((msgTo 9 mkPing 62 []).hops < 63) && (pickLink n (msgTo 9 mkPing 62 [])).isSome && (msgTo 9 mkPing 63 []).hops == 63 && (pickLink n (msgTo 9 mkPing 63 [])).isSome && (pickLink n (msgTo 10 mkPing 63 [])).isNone)) = true := by decide +kernel
/-- Node 5 waits for the acknowledgement of message 7 to node 9. -/
def waits (sends : Nat) (at_ : Nat) : Node := modLnk (fun b => { b with acks := [{ m := { dst := 9, src := 5, kind := mkSnap, level := 3, seq := 7 }, sends := sends, at_ := at_, for_ := .snap 0 .coll 0 0 0 }] }) (lk (fun x => { x with st := .active }))
theorem witness_MessagesAreAcknowledged :
    (delivered mkPing 35 (msgTo 5 mkPing 0 [1]) (stateOf [] (lk (fun x => { x with st := .active }))) (fun _ => true) &&
     delivered mkPingReply 35 (msgTo 5 mkPingReply 0 (toLe 8 3)) (stateOf [] (modLnk (fun b => { b with ping := some (9, 3) }) (lk (fun x => { x with st := .active })))) (fun n => n.lnk.ping == some (9, 3) && leAt (toLe 8 3) 0 8 == 3) &&
     seen (modLnk (fun b => { b with ping := some (9, now - 3000000) }) (lk id)) (fun n => has n.lnk.ping (fun p => decide (p.2 + 3000000 ≤ now))) &&
     delivered mkAck 35 (msgTo 5 mkAck 0 (toLe 8 7)) (stateOf [] (waits 1 0)) (fun n => (findAck n (leAt (toLe 8 7) 0 8) (some 9)).isSome) &&
     seen (waits 7 (now - 150000)) (fun n => has (findAck n 7 none) (fun a => decide (a.at_ + 300 * fld n.lnk.cfg 0 16 ≤ now) && (getP n a.m.srcPtn).st != .resetting && decide (a.sends < fld n.lnk.cfg 16 4))) &&
     seen (waits 8 (now - 150000)) (fun n => has (findAck n 7 none) (fun a => decide (a.at_ + 300 * fld n.lnk.cfg 0 16 ≤ now) && (getP n a.m.srcPtn).st != .resetting && decide (fld n.lnk.cfg 16 4 ≤ a.sends))) &&
     delivered mkReject 35 (msgTo 5 mkReject 0 (toLe 8 7 ++ [7, 3])) (stateOf [] (waits 1 0)) (fun n => has (findAck n 7 (some 9)) (fun a => decide (a.sends < fld n.lnk.cfg 16 4) && match a.for_ with
       | .mirror _ _ _ => false
       | _ => true))) = true := by decide +kernel
theorem witness_TrafficIsShaped :
    (let s : State := { stateOf [] upNode with clk := { node := 6144, ptn := Vector.replicate 8 (some 6144) } }
     alive (nodeOf {} s) && refillInstant (clkOf {} s).node && decide ((nodeOf {} s).lnk.refillAt < (clkOf {} s).node) &&
     seen (modLnk (fun b => { b with flows := [{ owner := 0, cls := 2, link := 35, slot := some (slotOf now) }] }) upNode) (fun n => has (n.lnk.flows.find? (sameFlow 0 2 35)) (fun f => has f.slot (fun k => decide (k ≤ slotOf now))))) = true := by decide +kernel

/-! ### Chapters 02, 13 and 15: boot, images, recovery -/

/-- A node out of reset with every rail up, at boot step 2, with its boot block changed. -/
def booted (g : Boot → Boot) : Node := { State.reset.node with pins := { State.reset.node.pins with perst := true, vrEn := 31, vrPg := 31 }, boot := g { State.reset.node.boot with step := 2 } }
/-- The pins of a node that powers up: which rails are enabled and which are good. -/
def rails (en pg : BitVec 5) (retry : Bool) : Node := { State.reset.node with pins := { State.reset.node.pins with perst := true, vrEn := en, vrPg := pg, vrRetry := retry } }
theorem witness_ResetPinsComplete :
    (found State.reset.node (fun n => n.pins.perst == false && n.bflash.suitable && n.bflash.trial == none) &&
     found { State.reset.node with bflash := { State.reset.node.bflash with trial := some 1 } } (fun n => n.pins.perst == false && n.bflash.suitable && n.bflash.trial == some 1) &&
     found (modBoot (fun b => { b with stopped := true }) (rails 8 0 false)) (fun n => n.pins.perst && n.boot.stopped && !n.pwr.rootLock && n.pins.thermtrip && n.pins.vrEn != 0 && !n.pins.straps.getLsbD 2 && n.bflash.suitable && n.bflash.trial == none)) = true := by decide +kernel
theorem witness_RailsSequence :
    (found (rails 8 0 false) (fun n => n.pins.perst && !n.boot.stopped && n.pins.vrEn.getLsbD 3 && !n.pins.vrPg.getLsbD 3 && decide (n.pins.vrAt ≤ now) && n.pins.vrPg ||| railBit 3 != 31) &&
     found (rails 31 15 false) (fun n => n.pins.perst && !n.boot.stopped && n.pins.vrEn.getLsbD 4 && !n.pins.vrPg.getLsbD 4 && decide (n.pins.vrAt ≤ now) && n.pins.vrPg ||| railBit 4 == 31 && !n.boot.hostUp) &&
     found (rails 8 0 false) (fun n => decide (n.pins.vrAt + 1500000 ≤ now) && n.pwr.st != .waking && !n.pins.vrRetry) &&
     found (rails 8 0 true) (fun n => decide (n.pins.vrAt + 1500000 ≤ now) && n.pwr.st != .waking && n.pins.vrRetry) &&
     found (rails 31 31 false) (fun n => n.pins.perst && !n.boot.stopped && n.pins.vrEn.getLsbD 0 && n.pins.vrPg.getLsbD 0) &&
     found upNode (fun n => n.pins.perst && !n.boot.stopped) && found (modPwr (fun w => { w with rootLock := true }) upNode) (fun n => n.pwr.rootLock)) = true := by decide +kernel
theorem witness_BootProceeds :
    (seen (booted id) (fun n => n.boot.step != 0 && n.pins.vrPg == 31 && booting n && !n.boot.imgRead) && [1, 2, 4, 8, 16].contains 16 &&
     seen (booted (fun b => { b with step := 0 })) (fun n => n.boot.step == 0) &&
     seen (booted (fun b => { b with imgRead := true })) (fun n => booting n && n.boot.imgRead && n.bflash.ctrAuth && checkImage n.bflash.counter (imgSlot n n.boot.trySlot).image == 0) &&
     seen { booted (fun b => { b with imgRead := true }) with bflash := { State.reset.node.bflash with counter := 2 } } (fun n => booting n && checkImage n.bflash.counter (imgSlot n n.boot.trySlot).image == 6 && !(n.boot.tried.contains (1 - n.boot.trySlot))) &&
     seen { booted (fun b => { b with imgRead := true, tried := [1] }) with bflash := { State.reset.node.bflash with counter := 2 } } (fun n => booting n && checkImage n.bflash.counter (imgSlot n n.boot.trySlot).image == 6 && n.boot.tried.contains (1 - n.boot.trySlot)) &&
     seen (booted (fun b => { b with image := some factoryImage })) (fun n => n.boot.image.isSome && !n.boot.mapRead) &&
     seen (booted (fun b => { b with image := some factoryImage, mapRead := true })) (fun n => n.boot.image == some factoryImage && n.boot.mapRead && decide (n.boot.step < 6)) &&
     seen (booted (fun b => { b with step := 6, image := some factoryImage, mapRead := true })) (fun n => decide (6 ≤ n.boot.step) && !n.boot.done.contains 7 && !n.boot.done.contains 8 && !n.boot.mapGood) &&
     seen (booted (fun b => { b with step := 6, testing := true })) (fun n => n.boot.testing)) = true := by decide +kernel
theorem witness_BootProceeds_end :
    (seen (booted (fun b => { b with step := 8, image := some factoryImage, mapRead := true, mapGood := true, done := [7, 8] })) (fun n => n.boot.image == some factoryImage && !n.boot.ready && decide (6 ≤ n.boot.step) && n.boot.done.contains 7 && n.boot.done.contains 8 &&
       !n.boot.testing && n.boot.mapGood && n.flash.carts.toList.all (fun c => c.st != .identifying)) &&
     seen (booted (fun b => { b with isTrial := true, trySlot := 1 })) (fun n => n.boot.isTrial && !n.boot.ready && !n.boot.testing && n.boot.trySlot == 1 && decide (n.boot.bootAt + n.boot.testCyc + 6000000000 ≤ now) && !n.pins.straps.getLsbD 2 && n.bflash.suitable &&
       n.bflash.trial == none)) = true := by decide +kernel
/-- `upNode` with an image in slot B, verified and staged or not. -/
def slotB (i : Option Image) (v : Bool) : Node := { upNode with bflash := { upNode.bflash with slotB := { image := i, verified := v, staged := v } } }
theorem witness_ImageCommandsComplete :
    (takes Rows.imageWrite anyEntry imageWriteChk noPtn adm (with_ adm (entry 0x10 0 0 0x40000 0 [1, 8, 16]) [] upNode) (fun _ _ _ => true) &&
     takes Rows.imageVerify anyEntry slotChk noPtn adm (with_ adm (entry 0x11 0 0 0 0 [1]) [] (slotB (some factoryImage) false)) (fun _ x n => n.bflash.ctrAuth && checkImage n.bflash.counter (imgSlot n x.arg0).image == 0) &&
     takes Rows.imageVerify anyEntry slotChk noPtn adm (with_ adm (entry 0x11 0 0 0 0 [1]) [] upNode) (fun _ x n => n.bflash.ctrAuth && checkImage n.bflash.counter (imgSlot n x.arg0).image != 0) &&
     takes Rows.imageSelect anyEntry slotChk noPtn adm (with_ adm (entry 0x12 0 0 0 0 [1]) [] (slotB (some factoryImage) true)) (fun _ x n => (imgSlot n x.arg0).verified) &&
     takes Rows.imageSelect anyEntry slotChk noPtn adm (with_ adm (entry 0x12 0 0 0 0 [1]) [] upNode) (fun _ x n => !(imgSlot n x.arg0).verified) &&
     takes Rows.imageCommit anyEntry noChk noPtn adm (with_ adm (entry 0x13 0 0 0 0 []) [] upNode) (fun _ _ n => n.boot.image == some factoryImage)) = true := by decide +kernel
/-- Partition 0 loads the factory's section. -/
def loading (q : Ptn → Ptn) : Node := modP 0 (fun x => q { x with st := .loading, load := some { slot := 1, sec := { ptn := 0 }, deadline := now } }) upNode
theorem witness_ImageCommandsComplete_live :
    (takes Rows.partitionImageLoad anyEntry slotChk noPtn adm (with_ adm (entry 0x14 0 0 0 0 [1, 1]) [] (slotB (some factoryImage) true)) (fun _ x n => (imgSlot n x.arg0).verified && (imgSlot n x.arg0).staged &&
       loadRefused n x.arg0 ((List.range 8).filter (fun p => x.arg1.testBit p)) == none && n.boot.liveTok == none) &&
     seen (loading id) (fun n => (getP n 0).load.isSome && (getP n 0).st == .loading && (getP n 0).run == none && liveDrained n 0) &&
     seen (loading (fun x => { x with queries := [(0, {})] })) (fun n => (getP n 0).load.isSome && (getP n 0).st == .loading && (getP n 0).run == none && !liveDrained n 0 && has (getP n 0).load (fun l => decide (l.deadline ≤ now)))) = true := by decide +kernel
theorem witness_AttestationAnswers :
    (seen { upNode with spdmI3c := { version := true, caps := true, alg := some .rsa } } (fun n => spdmUp n .i3c && spdmUp n .vdm && (getSpdm n .i3c).version && (getSpdm n .i3c).caps && (getSpdm n .i3c).alg == some .rsa)) = true := by decide +kernel
/-- Partition 0 holds one context, and its I/O pair one command. -/
def busy (c : Ctx) : Node := modQ 0 1 (fun y => { y with cmds := [{ serial := 9, cid := 3, opc := 0x80, entry := {}, sqHead := 1, at_ := 0 }] }) (modP 0 (fun x => { x with ctxs := [(4, c)], svc := now }) upNode)
theorem witness_WatchdogsFire :
    (seen (busy { kind := 1, st := 3, since := 0 }) (fun n => let x := getP n 0
       has (mget x.ctxs 4) (fun c => runsP x && c.st == 3 && !ctxHeld x 4 && decide (300000 * fld x.wdCfg 0 16 ≤ now - c.since))) &&
     seen (busy { kind := 1, st := 2, core := 0, since := 0 }) (fun n => let x := getP n 0
       has (mget x.ctxs 4) (fun c => runsP x && c.st == 2 && c.core == 0 && x.ent.cores.getLsbD 0 && x.ctxs.all (fun y => y.2.core != 0 || y.2.st != 2 || decide (c.since ≤ y.2.since)) &&
         decide (30000 * fld x.wdCfg 16 8 ≤ now - ((x.ctxs.filter (fun y => y.2.core == 0)).map (fun y => y.2.since)).foldl max c.since))) &&
     seen (busy { kind := 1, st := 2 }) (fun n => let x := getP n 0
       has (getQ n 0 1) (fun y => (getFn n 0).map == some 0 && runsP x && x.st == .inService && has y.cmds.head? (fun c => !notWatched n 0 { fn := 0, qid := 1, serial := c.serial } c && decide (max y.lastPost c.svcAt + 300000000 * fld x.wdCfg 24 8 ≤ x.svc)))) &&
     seen upNode (fun n => (getP n 0).st != .absent && (getP n 0).st != .withdrawn && (getP n 0).ent.cores.getLsbD 63 && (getP n 0).run == none && (getP n 0).pendReset == none && (getP n 0).st != .restoring && n.pwr.st != .entering &&
       (getP n 0).pow == .on && fkCounted fkCoreFault) &&
     (getP (modP 0 (fun x => { x with run := some { kind := 1, trigger := 0, at_ := 0 } }) upNode) 0).run.isSome) = true := by decide +kernel
theorem witness_PartitionsRecover :
    (takes Rows.partitionReset anyEntry ptnChk noPtn adm (with_ adm (entry 0x40 0 0 0 0 []) [] upNode) (fun _ x n => (getP n x.target).st == .inService && (getP n x.target).run == none && (getP n x.target).pendReset == none) &&
     seen (modP 0 (fun x => { x with st := .resetting, run := some { kind := 1, trigger := 0, at_ := 0 } }) upNode) (fun n => has (getP n 0).run (fun r => decide (r.at_ + resetLen (getP n 0) ≤ now) && !r.counted)) &&
     [0, 2].all (fun k => seen (modP 0 (fun x => { x with st := .resetting, escCfg := put (put x.escCfg 16 4 k) 20 1 0, run := some { kind := 1, trigger := 0, at_ := 0, counted := true } }) upNode) (fun n => let x := getP n 0
       has x.run (fun r => decide (r.at_ + resetLen x ≤ now) && r.counted && x.load == none && !bit x.escCfg 20 &&
         decide (((((r.trigger, r.lcore) :: x.hist).take 16).filter (fun h => decide (r.trigger - h.1 < window x))).length ≤ fld x.escCfg 16 4) == (k == 2)))) &&
     takes Rows.partitionReset anyEntry ptnChk noPtn adm (with_ adm (entry 0x40 0 0 0 0 []) [] (modP 0 (fun x => { x with st := .withdrawn }) upNode)) (fun _ x n => (getP n x.target).st == .withdrawn) &&
     takes Rows.partitionRestore anyEntry ptnChk noPtn adm (with_ adm (entry 0x41 0 0 0 0 []) [] (modP 0 (fun x => { x with st := .withdrawn }) upNode)) (fun _ x n => (getP n x.target).st == .withdrawn) &&
     seen (modP 0 (fun x => { x with st := .restoring, restore := some none }) upNode) (fun n => (getP n 0).restore == some none && (getP n 0).st == .restoring && decide ((getP n 0).restAt + restoreLen (getP n 0) ≤ now)) &&
     takes Rows.faultLogRead anyEntry faultLogChk noPtn adm (with_ adm (entry 0x44 0 0 0x40000 0 [4096, 0]) [] (modP 0 (fun x => { x with faults := [{ seq := 0, ctr := 0, kind := 1 }] }) upNode)) (fun t x n => (getP n x.target).st != .absent && t.fn == 0 &&
       !(((getP n x.target).faults.filter (fun r => decide (x.arg1 ≤ r.seq))).take x.arg0).isEmpty) &&
     takes Rows.functionMap anyEntry functionMapChk noPtn adm (with_ adm (entry 0x42 0 0 0 0 [1, 0]) [] (vfNode 1)) (fun _ x n => !(getFn n x.arg0).queues.any (fun y => y.1 != 0) && (getFn n x.arg0).map == none)) = true := by decide +kernel
/-- Core 0 runs logical core 0 of partition 0; core 33 of its die is a spare. -/
def twoCores (g : PCore → PCore) : Node := modCore 0 (fun c => g { c with st := .inService, ptn := 0, lcore := 0 }) upNode
/-- Core 0 has lost lane 1 of slice 0, and now loses lane 2 of it. -/
def lane2 (n : Node) : Node :=
  let c := vget n.cores 0
  spareCore { node := now, ptn := Vector.replicate 8 (some now) } (if c.ptn < 8 then c.ptn else 0) spLane (0 + 256 * 0 + 65536 * 2) c.lcore 0 { modCore 0 (fun c => { c with lanes := c.lanes ++ [(0, 2)] }) n with
    bflash := { n.bflash with map := { n.bflash.map with lanes := n.bflash.map.lanes ++ [(0, 0, 2)] } } }
theorem witness_SparesComeIn_lanes :
    (let bad (g : PCore → PCore) := twoCores (fun c => g { c with lanes := [(0, 1)] })
     let alone := fun n : Node => { n with cores := n.cores.mapIdx (fun i c => if i = 0 then c else { c with st := .retired }) }
     seen (bad id) (fun n => (vget n.cores 0).lanes == [(0, 1)] && (vget (lane2 n).cores 0).st == .inService && (startSwap (clkOf {} (stateOf [] n)) 0 none (lane2 n)).isSome) &&
     seen (alone (bad id)) (fun n => (vget (lane2 n).cores 0).st == .inService && (startSwap (clkOf {} (stateOf [] n)) 0 none (lane2 n)).isNone) &&
     seen (modCore 0 (fun c => { c with st := .spare, lanes := [(0, 1)] }) upNode) (fun n => (vget (lane2 n).cores 0).st == .spare) &&
     [63, 64].all (fun k => seen (twoCores id) (fun n =>
       let m := modCore 0 (fun c => { c with ce := sat 32 (c.ce + k), ceTimes := c.ceTimes ++ (List.replicate k 0).map (coreCtr (clkOf {} (stateOf [] n)) c - ·) }) n
       (vget n.cores 0).st != .retired && (vget m.cores 0).st == .inService && decide (64 ≤ ceInWindow m (clkOf {} (stateOf [] n)) (vget m.cores 0)) == (k == 64) && has (pickSpare m 0) (fun j => j != 0 && decide (j < 68))))) = true := by decide +kernel
theorem witness_SparesComeIn :
    (seen (twoCores id) (fun n => (vget n.cores 0).lanes.isEmpty && (vget n.cores 0).st == .inService && has (pickSpare n 0) (fun k => k != 0 && decide (k < 68))) &&
     seen (twoCores (fun c => { c with st := .draining, peer := 33, since := now - 300000 })) (fun n => (vget n.cores 0).st == .draining && !(vget n.cores 0).restarted && decide ((vget n.cores 0).since + 300000 ≤ now) && decide ((vget n.cores 0).peer < 68)) &&
     takes Rows.spareEngage anyEntry spareChk noPtn adm (with_ adm (entry 0x43 0 0 0 0 [1, 5]) [] upNode) (fun _ x n => x.arg0 == 1 && (vget n.mem.chans (x.arg1 % 128)).copying == none && !(vget n.mem.chans (x.arg1 % 128)).spare) &&
     takes Rows.spareEngage anyEntry spareChk noPtn adm (with_ adm (entry 0x43 0 0 0 0 [0, 0]) [] (twoCores id)) (fun _ x n => x.arg0 == 0 && (List.range 68).find? (fun i => (vget n.cores i).lcore == x.arg1 && (vget n.cores i).st != .retired) == some 0 &&
       (vget n.cores 0).st == .inService && (startSwap { node := now } 0 none n).isSome) &&
     takes Rows.spareEngage anyEntry spareChk noPtn adm (with_ adm (entry 0x43 0 0 0 0 [0, 0]) [] { twoCores id with cores := vmod (Vector.replicate 68 { st := .retired }) 0 (fun c => { c with st := .inService, ptn := 0, lcore := 0 }) }) (fun _ _ n => (pickSpare n 0).isNone) &&
     seen (modChan 5 (fun c => { c with rowsUsed := [(3, 8)] }) upNode) (fun n => !(vget n.mem.chans 5).spare && (vget n.mem.chans 5).copying == none && bankDue { node := now } (vget n.mem.chans 5) 3) &&
     seen (modChan 5 (fun c => { c with copying := some (3, none) }) upNode) (fun n => (vget n.mem.chans 5).copying == some (3, none))) = true := by decide +kernel

/-! ### Chapters 03 to 07 -/

def collD : CollDesc := { name := 0x41 :: List.replicate 63 0, dim := 32, metric := 0, collId := 7 }
/-- A generation of one empty list. -/
def aGen (g base : Nat) : Gen := { hdr := { magic := 0x4E454756, fmt := 2, skw := 0, metric := 0, nEntry := 1, gen := BitVec.ofNat 64 g, collId := 7, baseSeq := base, projSeed := 0, dim := 32, lists := 1, entries := 0, entryNode := [0, 0, 0, 0], digest := 0 }, lists := [(0, {})] }
/-- Partition 0 holds collection 3, serving generation 1; slot 0 holds an ACTIVE cartridge. -/
def withC (g : Coll → Coll) (h : Ptn → Ptn) : Node :=
  modCart 0 (fun c => { c with st := .active, present := true, known := true, power := true, serial := 11 }) (modP 0 (fun x => h { x with colls := [(3, g { desc := collD, st := .serving, cur := some (aGen 1 0), root := some (aGen 1 0) })] }) upNode)
def isC (n : Node) (t : Tok) (x : Sqe) (admin : Bool) (k : Coll → Bool) : Bool := collRef n t.fn admin x.target == some (0, 3) && has (getC n 0 3) k
def atC (n : Node) (k : Coll → Bool) : Bool := has (getC n 0 3) k
theorem witness_CollectionsComeAndGo :
    (takes Rows.collectionCreate anyEntry noChk fnPtn adm (with_ adm (entry 0x20 0 0 0x40000 0 []) (Mem.writeN [] 0x40000 ([0x42] ++ List.replicate 63 0 ++ toLe 2 32 ++ [0, 0, 2, 1] ++ toLe 2 4 ++ toLe 4 256 ++ toLe 4 0 ++ toLe 8 9 ++ toLe 8 8)) (withC id id))
       (fun t _ n => (getFn n t.fn).map == some 0 && descBad n (getP n 0) (descOf ([0x42] ++ List.replicate 63 0 ++ toLe 2 32 ++ [0, 0, 2, 1] ++ toLe 2 4 ++ toLe 4 256 ++ toLe 4 0 ++ toLe 8 9 ++ toLe 8 8)) == none && firstFree (getP n 0).colls 0 256 == some 0) &&
     takes Rows.collectionDrop anyEntry (collChk true) collPtn adm (with_ adm (entry 0x21 0 3 0 0 []) [] (withC id id)) (fun t x n => isC n t x true (fun y => y.drop == none)) &&
     seen (withC (fun c => { c with st := .mounting, cur := none, root := none }) id) (fun n => atC n (fun y => y.st == .mounting && y.root == none && y.own.st != .frozen)) &&
     seen (withC (fun c => { c with st := .mounting, cur := none }) id) (fun n => atC n (fun y => n.boot.ready && y.st == .mounting && (collObjs 0 3 y).all (fun o => (objSlots n o).all (fun k => !(getCart n k).sanHold)) && has y.root (fun g =>
       decide (g.hdr.fmt ≤ imgFmt n) && objWhole n g.store && has (replayAll y.desc (poolSize (getP n 0)) (usedChunks (getP n 0)) g (y.log.filter (fun r => decide (g.hdr.baseSeq < r.seq)))) (fun g2 =>
         (makeGen 0 3 (markLost y.desc g2 (readStore g2.store [] n).2) (modC 0 3 (fun z => { z with st := .serving, before := .serving, cur := some (markLost y.desc g2 (readStore g2.store [] n).2) }) (readStore g2.store [] n).1)).isSome))))) = true := by decide +kernel
/-- The generation of collection 3 lies in a flash object of one block, which reads as `ecc` says. -/
def stored (ecc : Nat) : Node :=
  modFls (fun f => { f with objs := [(0x90000000, { ptn := 0, blocks := 1, carts := [11], base := [0] })], copies := [{ cart := 0, set_ := 9, obj := 0x90000000, blk := 0, data := [1], onebit := true, mapped := true, ecc := ecc }] })
    (withC (fun c => { c with cur := some { aGen 1 0 with store := 0x90000000, parts := [(0, { node := 0 })] } }) id)
theorem witness_CollectionsComeAndGo_restore :
    ([0, 9].all (fun k => seen (stored k) (fun n => atC n (fun y => has (genNamed y 1) (fun g =>
      recBlocks y.desc g (.node 0) == [0] && !blkHeld n g.store 0 && (readStore g.store [0] n).2.isEmpty == (k == 0)))))) = true := by decide +kernel
/-- An update of collection 3 that waits. -/
def anUpd (kind : RecKind) : Upd := { tok := none, seq := 1, kind := kind, id := 5 }
theorem witness_UpdatesAreSequenced :
    (takes Rows.delete anyEntry (collChk false) noPtn io (with_ io (entry 0x83 0 3 0 0 [5]) [] (withC id id)) (fun t x n => isC n t x false (fun y => updRefused y == none)) &&
     takes Rows.delete anyEntry (collChk false) noPtn io (with_ io (entry 0x83 0 3 0 0 [5]) [] (withC (fun c => { c with st := .failed }) id)) (fun t x n => isC n t x false (fun y => updRefused y == some (stCollUnavail, 0))) &&
     takes Rows.insert anyEntry insertChk noPtn io (with_ io (entry 0x82 0 3 0x40000 0 [5]) [] (withC id id)) (fun t x n => isC n t x false (fun y => updRefused y == none && x.arg2 / 65536 % 16 == 0 && firstBad (words32 (List.replicate 128 0) 32) == none &&
       (prepVec (metricOf y.desc.metric) (words32 (List.replicate 128 0) 32)).isSome)) &&
     takes Rows.upsert anyEntry insertChk noPtn io (with_ io (entry 0x84 0 3 0x40000 0 [5]) [] (withC id id)) (fun t x n => isC n t x false (fun y => updRefused y == none && x.arg2 / 65536 % 16 == 0)) &&
     seen (withC (fun c => { c with upds := [anUpd .delete], seq := 1 }) id) (fun n => atC n (fun y => has y.upds.head? (fun u => !u.waitEnc && !u.held && commitsOpen y)) && (getP n 0).st != .resetting) &&
     [aGen 1 0, { aGen 1 0 with lists := [(0, { sap := [{ id := 5, seq := 1 }], live := 1, chunks := [0] })], idMap := [(5, 2 ^ 56)] }].zipIdx.all (fun g => let n := withC (fun c => { c with cur := some g.1, upds := [anUpd .delete], seq := 1 }) id
       let m := readAll { node := now } 0 0 none 0 (walkLocs 0 3 (anUpd .delete)) (walkLocs 0 3 (anUpd .delete)) n
       atC m (fun y => match applyUpd (getP m 0) y (anUpd .delete) with
         | .refuse st => g.2 == 0 && st == stNotFound
         | .done _ _ => g.2 == 1))) = true := by decide +kernel
/-- The header of generation 2 of collection 3. -/
def genHead (fmt dig : Nat) : List Byte := toLe 4 0x4E454756 ++ [BitVec.ofNat 8 fmt, 0, 0, 1] ++ toLe 8 2 ++ toLe 8 7 ++ toLe 8 0 ++ toLe 8 0 ++ toLe 2 32 ++ toLe 2 0 ++ toLe 4 1 ++ toLe 8 0 ++ toLe 16 0 ++ toLe 8 0 ++ toLe 48 dig
def emptyDigest : Nat := leNat (sha384 [])
theorem witness_GenerationsLoadAndSwap :
    (takes Rows.generationLoad anyEntry (collChk false) noPtn io (with_ io (entry 0x86 0 3 0x40000 0 [0, 64]) [] (withC id id)) (fun t x n => isC n t x false (fun y => y.drop == none && y.st != .mounting && !x.flag 1)) &&
     takes Rows.generationLoad anyEntry (collChk false) noPtn io (with_ io (entry 0x86 2 3 0x40000 0 [0, 64]) [] (withC id id)) (fun t x n => isC n t x false (fun y => y.drop == none && y.st != .mounting && x.flag 1 && genBad y (genHeader (List.replicate 64 0)) (List.replicate 64 0) == some 0)) &&
     takes Rows.generationLoad anyEntry (collChk false) noPtn io (with_ io (entry 0x86 2 3 0x40000 0 [0, 128]) (Mem.writeN [] 0x40000 (genHead 2 emptyDigest)) (withC id id)) (fun t x n => isC n t x false (fun y =>
       y.drop == none && x.flag 1 && genBad y (genHeader (genHead 2 emptyDigest)) (genHead 2 emptyDigest) == none && decide ((genHeader (genHead 2 emptyDigest)).fmt ≤ imgFmt n) &&
       (stageGen { node := now, ptn := Vector.replicate 8 (some now) } 0 3 y.desc (genHeader (genHead 2 emptyDigest)) (genHead 2 emptyDigest) [] (modC 0 3 (fun c => { c with loadBuf := genHead 2 emptyDigest }) n)).isSome)) &&
     takes Rows.generationLoad anyEntry (collChk false) noPtn io (with_ io (entry 0x86 2 3 0x40000 0 [0, 128]) (Mem.writeN [] 0x40000 (genHead 2 emptyDigest)) (modCart 0 (fun c => { c with st := .failed }) (withC id id))) (fun t x n => isC n t x false (fun y =>
       y.drop == none && x.flag 1 && decide (freeFlash n < 128) && decide ((genBytes y.desc 2 []).1 ≤ freeT1 n 0) && decide ((genBytes y.desc 2 []).2 ≤ freeT2 n 0))) &&
     takes Rows.generationLoad anyEntry (collChk false) noPtn io (with_ io (entry 0x86 2 3 0x40000 0 [0, 128]) (Mem.writeN [] 0x40000 (genHead 5 emptyDigest)) (withC id id)) (fun t x n => isC n t x false (fun y =>
       y.drop == none && x.flag 1 && genBad y (genHeader (genHead 5 emptyDigest)) (genHead 5 emptyDigest) == none && decide (imgFmt n < (genHeader (genHead 5 emptyDigest)).fmt)))) = true := by decide +kernel
/-- A swap to generation 2 under way. -/
def swapping (fr : Bool) (limit : Nat) : Coll → Coll := fun c => { c with st := .swapping, staged := some (aGen 2 0), swap := some { tok := { fn := 0, qid := 0, serial := 1 }, gen := 2, freezeAt := 256, limitAt := limit, done := 0, frozen := fr, base := aGen 2 0, work := aGen 2 0 } }
theorem witness_GenerationsLoadAndSwap_swap :
    (takes Rows.generationSwap anyEntry swapChk collPtn adm (with_ adm (entry 0x22 0 3 0 0 [2]) [] (withC (fun c => { c with staged := some (aGen 2 0) }) id)) (fun t x n => isC n t x true (fun y => y.drop == none && y.own.st != .frozen && y.swap == none && y.st == .serving && y.own.xfer == none && (getP n 0).load == none &&
       has y.staged (fun g => g.hdr.gen.toNat == x.arg0 && decide (y.logFrom ≤ g.hdr.baseSeq + 1) && decide (g.hdr.fmt ≤ imgFmt n)))) &&
     takes Rows.generationSwap anyEntry swapChk collPtn adm (with_ adm (entry 0x22 0 3 0 0 [2]) [] (withC (fun c => { c with staged := some (aGen 2 0), own := { c.own with st := .releasing, xfer := some { tok := { fn := 0, qid := 0, serial := 1 }, peer := 9, peerP := 0, epoch := 1, at_ := 0 } } }) id))
       (fun t x n => isC n t x true (fun y => y.drop == none && y.own.st != .frozen && y.swap == none && swapWaits n 0 3 && has y.staged (fun g => g.hdr.gen.toNat == x.arg0 && decide (y.logFrom ≤ g.hdr.baseSeq + 1)))) &&
     seen (withC (swapping false now) id) (fun n => !swapWaits n 0 3 && atC n (fun y => has y.swap (fun w => !w.frozen && decide (w.limitAt ≤ now) && (replayAll y.desc (poolSize (getP n 0)) (usedChunks (getP n 0)) w.work (logAbove y w.done)).isSome))) &&
     seen (withC (swapping true now) id) (fun n => !swapWaits n 0 3 && atC n (fun y => has y.swap (fun w => w.frozen))) &&
     takes Rows.generationDiscard anyEntry (collChk true) collPtn adm (with_ adm (entry 0x23 0 3 0 0 [2]) [] (withC (fun c => { c with staged := some (aGen 2 0) }) id)) (fun t x n => isC n t x true (fun y => y.swap == none && has y.staged (fun g => g.hdr.gen.toNat == x.arg0))) &&
     takes Rows.generationDiscard anyEntry (collChk true) collPtn adm (with_ adm (entry 0x23 0 3 0 0 [0]) [] (withC id id)) (fun t x n => isC n t x true (fun y => y.swap == none && x.arg0 == 0)) &&
     takes Rows.generationDiscard anyEntry (collChk true) collPtn adm (with_ adm (entry 0x23 0 3 0 0 [9]) [] (withC (fun c => { c with staged := some (aGen 2 0) }) id)) (fun t x n => isC n t x true (fun y => y.swap == none && has y.staged (fun g => g.hdr.gen.toNat != x.arg0))) &&
     takes Rows.shardExport anyEntry (collChk false) noPtn io (with_ io (entry 0x85 0 3 0x40000 0 [8]) [] (withC id id)) (fun t x n => isC n t x false (fun y => y.drop == none && y.st == .serving && y.own.st != .frozen && x.arg1 == 0 && decide (8 ≤ x.arg0) &&
       has y.cur (fun g => decide ((liveRecs g).length ≤ (x.arg0 - 8) / sapSize y.desc))))) = true := by decide +kernel
/-- The parameter block of a search in collection 3. -/
def sblock (coll : Nat) : List Byte := toLe 2 coll ++ toLe 2 0 ++ toLe 52 0 ++ toLe 8 0x60000 ++ toLe 8 0x70000 ++ toLe 56 0
/-- One query of partition 0 in a phase. -/
def q1 (g : Query → Query) (h : Ptn → Ptn) : Node := withC id (fun x => h { x with queries := [(4, g { coll := 3, gen := 1 })] })
def isOk {α ε : Type} (r : Except ε α) : Bool := match r with
  | .ok _ => true
  | .error _ => false
theorem witness_SearchesStart :
    (takes Rows.search anyEntry noChk noPtn io (with_ io (entry 0x80 0 0 0x40000 0 []) (Mem.writeN [] 0x40000 (sblock 3)) (withC id id)) (fun t _ n => (getFn n t.fn).map == some 0 && isOk (checkSearch n [] t.fn 0 false 0 (sblock 3))) &&
     takes Rows.search anyEntry noChk noPtn io (with_ io (entry 0x80 0 0 0x40000 0 []) (Mem.writeN [] 0x40000 (sblock 4)) (withC id id)) (fun t _ n => (getFn n t.fn).map == some 0 && !isOk (checkSearch n [] t.fn 0 false 0 (sblock 4))) &&
     takes Rows.audit anyEntry auditChk noPtn io (with_ io (entry 0x81 0 0 0x40000 0 [1]) (Mem.writeN [] 0x40000 (sblock 3)) (withC id id)) (fun t x n => (getFn n t.fn).map == some 0 && x.arg0 == 1 && isOk (checkSearch n [] t.fn 0 true 0 (sblock 3))) &&
     seen (q1 id (fun x => { x with colls := x.colls.map (fun c => (c.1, { c.2 with cur := some { aGen 1 0 with hdr := { (aGen 1 0).hdr with nEntry := 2, entryNode := [0, 1, 0, 0] }, lists := [(0, {}), (1, {})] } })) })) (fun n => (getP n 0).st != .resetting && has (getY n 0 4) (fun y => y.phase == .route && (pinOf n 0 y).isSome && ((queryThread { node := now } 0 4 n).bind (routeThread { node := now } 0 4)).isSome &&
       has (nextWalk n 0 4) (fun w => !w.2.2.2.done))) &&
     seen (q1 (fun y => { y with walk := { y.walk with started := true } }) id) (fun n => has (getY n 0 4) (fun y => y.phase == .route && has (nextWalk n 0 4) (fun w => w.2.2.2.done)))) = true := by decide +kernel
theorem witness_PassesRun :
    (seen (q1 id (fun x => { x with gather := [{ coll := 3, gen := 1, list := 0, members := [{ query := 4, at_ := 0, deadline := 5 }] }] })) (fun n => schedules (getP n 0) && coreFree (getP n 0) 63 &&
       ((sortBy readyBefore ((getP n 0).gather.filter (readyEntry now n 0))).find? (hasRoom n 0)).isSome) &&
     seen (q1 id (fun x => { x with passes := [(2, { coll := 3, gen := 1, list := 0, near := false, members := [{ query := 4, b := 8 }] })] })) (fun n => has (mget (getP n 0).passes 2) (fun a => !a.ended)) &&
     seen (q1 id (fun x => { x with passes := [(2, { coll := 3, gen := 1, list := 0, near := false, members := [{ query := 4, b := 8 }], ended := true, blocks := [(0, [1])] })] })) (fun n => (getP n 0).ent.cores.getLsbD 0 &&
       has (mget (getP n 0).passes 2) (fun a => has (mget a.blocks 0) (fun rs => rs == [1] && has (pressThread (clkOf {} (stateOf [] n)) 0 2 a n) (fun b => (passList n 0 b.1).isSome &&
         (passList (readAll (clkOf {} (stateOf [] n)) 0 0 (passTok (getP n 0) b.1) b.1.ctx (rowLocs 0 b.1 rs) (rowLocs 0 b.1 rs) b.2) 0 b.1).isSome)))) &&
     [10, 65].all (fun k => seen (q1 (fun y => { y with phase := .rinse, k := k }) id) (fun n => (getP n 0).st != .resetting && (getP n 0).selQ.isEmpty && has (getY n 0 4) (fun y => pressOver (getP n 0) 4 y && y.k == k)))) = true := by decide +kernel
theorem witness_PassesRun_deep :
    (seen (q1 (fun y => { y with phase := .rinse, k := 65 }) (fun x => { x with selQ := [(8, 3), (8, 4)] })) (fun n => has (getY n 0 4) (fun y => pressOver (getP n 0) 4 y) && (getP n 0).selQ.find? (fun q => q.2 == 4) == some (8, 4) &&
       (getP n 0).selQ.find? (fun q => q.1 == 8) != some (8, 4)) &&
     [(65, true), (65537, true), (2 ^ 60, false)].all (fun k => seen (q1 (fun y => { y with phase := .rinse, k := k.1 }) (fun x => { x with selQ := [(8, 4)] })) (fun n => has (getY n 0 4) (fun y => pressOver (getP n 0) 4 y && decide (64 < y.k) &&
       (getP n 0).selQ.find? (fun q => q.1 == 8) == some (8, 4) && (decide (y.k ≤ 65536) || decide (24 * y.k ≤ freeT1 n 0)) == k.2)))) = true := by decide +kernel
/-- A group of two: this node, at rank 0 or 1, and node 9. -/
def grp (me : Nat) : Group := { num := 1, level := 3, size := 2, myRank := me, fanIn := 8, waitUs := 2000, members := if me = 0 then [(5, 0), (9, 0)] else [(9, 0), (5, 0)], collId := 7 }
def coll5 (g : Ptn → Ptn) : Node := modLnk (fun b => { b with nodeId := 5 }) (modL 35 (fun x => { x with st := .active }) (withC id g))
/-- Node 5 is the root of an instance that waits for rank 1. -/
def inst (g : Inst → Inst) : Node := coll5 (fun x => { x with groups := [(1, grp 0)], insts := [(6, g { inst := 0x77, dupTag := 0, group := grp 0, root := 0, rank := 0, isRoot := true, kids := [{ rank := 1 }], k := 10 })] })
def defBytes : List Byte := [1, 3] ++ toLe 2 2 ++ toLe 2 0 ++ toLe 10 0 ++ toLe 8 0x60000 ++ toLe 8 7 ++ toLe 32 0
theorem witness_CollectivesRun :
    (takes Rows.collectiveDefine anyEntry noChk fnPtn adm (with_ adm (entry 0x24 0 0 0x40000 0 []) (Mem.writeN (Mem.writeN [] 0x40000 defBytes) 0x60000 (toLe 8 5 ++ toLe 8 9)) (coll5 id)) (fun t _ n => (getFn n t.fn).map == some 0 && groupBad n (getP n 0) defBytes == none &&
       membersBad 0 [5, 9] [] == none && ([5, 9].getD (leAt defBytes 4 2) 0 == n.lnk.nodeId.toNat + 2 ^ 32 * 0)) &&
     delivered mkFanout 35 (msgTo 5 mkFanout 0 (toLe 8 0x99 ++ toLe 8 0 ++ toLe 8 7 ++ [1, 0] ++ toLe 2 0 ++ toLe 4 0 ++ sblock 3 ++ List.replicate 128 0)) (stateOf [] (coll5 (fun x => { x with groups := [(1, grp 1)] }))) (fun n => has (mget (getP n 0).groups 1) (fun g => decide (0 < g.size) && g.myRank != 0) &&
       (getP n 0).insts.isEmpty && has (graphOf (getP n 0) 0) (fun gr => !hasStage gr .score) && (memberCheck (getP n 0) 7 (sblock 3) (List.replicate 128 0)).isSome && ((getP n 0).colls.find? (fun c => c.2.desc.collId == 7)).isSome) &&
     delivered mkPartial 35 (msgTo 5 mkPartial 0 (toLe 8 0x77 ++ toLe 8 0 ++ toLe 2 1 ++ toLe 2 1 ++ toLe 132 0)) (stateOf [] (inst (fun i => { i with since := now }))) (fun n => has (matchInst (getP n 0) 0x77 0 1 false) (fun i => !i.2.par.wantStats && decide (now ≤ i.2.since + 300 * i.2.group.waitUs) && has (i.2.kids.find? (fun c => c.rank == 1)) (fun c => c.got == none))) &&
     delivered mkPartial 35 (msgTo 5 mkPartial 0 (toLe 8 0x77 ++ toLe 8 0 ++ toLe 2 1 ++ toLe 2 1 ++ toLe 132 0)) (stateOf [] (inst id)) (fun n => has (matchInst (getP n 0) 0x77 0 1 false) (fun i => !i.2.par.wantStats && decide (i.2.since + 300 * i.2.group.waitUs < now) && (i.2.kids.find? (fun c => c.rank == 1)).isSome)) &&
     delivered mkPartial 35 (msgTo 5 mkPartial 0 [1]) (stateOf [] (inst id)) (fun _ => true) &&
     seen (inst id) (fun n => has (getI n 0 6) (fun i => !i.hedged && decide (i.since + 300 * i.group.waitUs ≤ now))) &&
     delivered mkClosure 35 (msgTo 5 mkClosure 0 (toLe 8 0x77 ++ toLe 8 0 ++ toLe 2 0 ++ toLe 6 0)) (stateOf [] (inst (fun i => { i with isRoot := false }))) (fun n => has ((getP n 0).insts.find? (fun i => i.2.inst == 0x77 && i.2.dupTag == 0 && i.2.rank == 0 && !i.2.isRoot)) (fun i => !i.2.hedged)) &&
     delivered mkClosure 35 (msgTo 5 mkClosure 0 (toLe 8 0x77 ++ toLe 8 0 ++ toLe 2 0 ++ toLe 6 0)) (stateOf [] (inst (fun i => { i with isRoot := false, hedged := true }))) (fun n => has ((getP n 0).insts.find? (fun i => i.2.inst == 0x77 && !i.2.isRoot)) (fun i => i.2.hedged))) = true := by decide +kernel
/-- A model without weights, whole or streamed. -/
def mdlD (fl : Nat) : ModelDesc := { model := 2, kind := 0, blocks := if fl = 0 then 0 else 1, dModel := 0, ffn := 0, heads := 1, headDim := 0, vocab := 0, maxSeq := 0, outDim := 0, pool := 0, flags := fl, window := 1, lnEps := 0 }
def withM (fl : Nat) (g : Mdl → Mdl) (h : Ptn → Ptn) : Node := modP 0 (fun x => h { x with sec := some { ptn := 0, models := [mdlD fl] }, mdls := [(2, g { version := 1, cur := some [] })] }) upNode
theorem witness_ModelsRun_load :
    (let cmd (v : Nat) (arg : Nat) : Node := let z := withM 0 id id
       if v = 0 then z else modP 0 (fun x => { x with sec := some { ptn := 0, models := [{ mdlD 0 with vocab := arg }] } }) z
     let names (n : Node) (t : Tok) (x : Sqe) (d : ModelDesc) : Bool := (getFn n t.fn).map == some 0 && modelOf (getP n 0) x.target == some d && x.arg0 == imageBytes d
     takes Rows.modelLoad anyEntry noChk fnPtn adm (with_ adm (entry 0x25 0 2 0x40000 0x50000 [0]) [] (withM 0 (fun y => { y with load := some { fn := 0, qid := 0, serial := 9 } }) id)) (fun t x n => names n t x (mdlD 0) && has (mget (getP n 0).mdls 2) (fun y => y.load.isSome)) &&
     takes Rows.modelLoad anyEntry noChk fnPtn adm (with_ adm (entry 0x25 0 2 0x40000 0x50000 [0]) [] (cmd 0 0)) (fun t x n => names n t x (mdlD 0) && has (mget (getP n 0).mdls 2) (fun y => y.load == none && (reserveCopy 0 2 (y.version + 1) (mdlD 0) n).isSome)) &&
     takes Rows.modelLoad anyEntry noChk fnPtn adm (with_ adm (entry 0x25 0 2 0x40000 0x50000 [2 ^ 51]) [] (cmd 1 (2 ^ 50))) (fun t x n => names n t x { mdlD 0 with vocab := 2 ^ 50 } && has (mget (getP n 0).mdls 2) (fun y => y.load == none && (reserveCopy 0 2 (y.version + 1) { mdlD 0 with vocab := 2 ^ 50 } n).isNone)) &&
     [Mem.writeN [] 0x50000 (sha384 []), []].zipIdx.all (fun h =>
       let n := modQ 0 0 (fun y => { y with cmds := [{ serial := 9, cid := 3, opc := 0x25, entry := { addr0 := 0x40000, addr1 := 0x50000 }, sqHead := 1, at_ := 0 }] }) (withM 0 (fun y => { y with load := some { fn := 0, qid := 0, serial := 9 } }) id)
       seen n (fun n => has (mget (getP n 0).mdls 2) (fun y => has y.load (fun t => has (cmdOf n t) (fun c =>
         (sha384 (Mem.readN h.1 c.entry.addr0 c.entry.arg0) == Mem.readN h.1 c.entry.addr1 48) == (h.2 == 0))))))) = true := by decide +kernel
theorem witness_ModelsRun :
    (seen (withM 0 (fun y => { y with queue := [{ for_ := .score 0, seqs := [], at_ := 0 }] }) id) (fun n => let x := getP n 0
       has (mget x.mdls 2) (fun y => has (modelOf x 2) (fun d => schedules x && y.cur.isSome && batchDue now y.queue && !d.flags.testBit 1 && y.queue.all (fun k => decide (k.cores ≤ coresLeft x)) &&
         (taskThreads (clkOf {} (stateOf [] n)) 0 ((batchOf y.queue).map (fun t => { t with thr := effThr x, forceN8 := bit x.qntCfg 24 })) n).isSome))) &&
     [(0, 1), (1, 2)].all (fun k => seen (withM 2 (fun y => { y with nextRec := k.2 }) (fun x => { x with batches := [(1, { model := 2, tasks := [], ver := 1, ends := List.replicate k.1 0 })] })) (fun n => let x := getP n 0
       has (mget x.mdls 2) (fun y => has (modelOf x 2) (fun d => schedules x && y.nextRec == k.1 + 1 && has (x.batches.find? (fun b => b.2.model == 2)) (fun b => decide (k.1 < d.window) || decide (b.2.ends.getD (k.1 - d.window) 0 ≤ now)))))) &&
     [(0, 0), (2, 4)].all (fun k => seen (withM k.1 id (fun x => { x with batches := [(1, { model := 2, tasks := [], ver := 1, layer := k.2 })] })) (fun n => let x := getP n 0
       has (mget x.batches 1) (fun b => has (mget x.mdls b.model) (fun y => has (modelOf x b.model) (fun d => schedules x && (!d.flags.testBit 1 || (decide (layersOf d ≤ b.layer) && decide (b.ends.getLast?.getD 0 ≤ now))) && y.version == b.ver)))))) = true := by decide +kernel

/-! ### Chapters 08 and 09 -/

def aTbl : Tbl := { train := true, width := 16, rows := 64, hotRows := 64, tblId := 3, name := [0x54] }
/-- Partition 0 holds table 2; tier-2 channel 0 holds a module of 64 GiB. -/
def withT (g : Tbl → Tbl) (h : Ptn → Ptn) : Node :=
  modMem (fun m => { m with t2 := vmod m.t2 0 (fun _ => { st := 1, gib := 64, ptn := 0 }) }) (modP 0 (fun x => h { x with tbls := [(2, g aTbl)] }) upNode)
def atT (n : Node) (k : Tbl → Bool) : Bool := has (getT n 0 2) k
theorem witness_SharesReadIn256ths_fields :
    (let s := stateOf [] (withC id (fun x => { x with tbls := [(63, { aTbl with dir := (List.range 63).map (fun i => (i, i)) })] }))
     reach s.node && (getFn s.node 0).enabled && !aonOnly s.node && has (mget (getP s.node 0).colls 3) (fun _ => true) && (getP s.node 0).st != .absent &&
     has (mget (getP s.node 0).tbls 63) (fun _ => true) && (getCart s.node 0).serves &&
     readReg 0 .bar2 (0x50200 + 8 * 63) s == 0x00000040FC000111 && fld (readReg 0 .bar2 0x70040 s) 32 8 == 255) = true := by decide +kernel
def tblBytes64 (num rows policy : Nat) : List Byte := [BitVec.ofNat 8 num, 1] ++ toLe 2 16 ++ toLe 4 rows ++ toLe 4 64 ++ toLe 4 0 ++ toLe 8 9 ++ toLe 8 policy ++ [0x55] ++ List.replicate 31 0
theorem witness_TablesComeAndGo :
    (-- with policy 0x20002 the home array would lie on tier-2 channel 1 alone, which holds no module
     [(0, true), (0x20002, false)].all (fun k => takes Rows.tableCreate anyEntry noChk fnPtn adm (with_ adm (entry 0x26 0 0 0x40000 0 []) (Mem.writeN [] 0x40000 (tblBytes64 3 64 k.1)) (withT id id)) (fun t _ n =>
       let d := tblOf (tblBytes64 3 64 k.1)
       (getFn n t.fn).map == some 0 && tblBad (getP n 0) (tblBytes64 3 64 k.1) == none && decide ((tblBytes d.width d.rows d.hotRows d.policy).1 ≤ freeT1 n 0) && decide ((tblBytes d.width d.rows d.hotRows d.policy).2 ≤ freeT2 n 0) &&
       decide (d.canopyK + sumNat ((getP n 0).tbls.map (fun y => y.2.canopyK)) ≤ 1024 * coresOf (getP n 0)) &&
       (makeTbl 0 3 d (modP 0 (fun y => { y with tbls := mset y.tbls 3 { d with own := { owner := n.lnk.nodeId, ownerP := 0 } } }) n)).isSome == k.2)) &&
     takes Rows.tableCreate anyEntry noChk fnPtn adm (with_ adm (entry 0x26 0 0 0x40000 0 []) (Mem.writeN [] 0x40000 (tblBytes64 3 0xFFFFFFFF 0)) (withT id id)) (fun t _ n => (getFn n t.fn).map == some 0 && tblBad (getP n 0) (tblBytes64 3 0xFFFFFFFF 0) == none &&
       decide (freeT2 n 0 < (tblBytes 16 0xFFFFFFFF 64 0).2)) &&
     takes Rows.tableDrop anyEntry tblChk fnPtn adm (with_ adm (entry 0x27 0 2 0 0 []) [] (withT id id)) (fun t x n => (getFn n t.fn).map == some 0 && tblRefuses (getT n 0 x.target) == none) &&
     found (withT (fun y => { y with drop := some { fn := 0, qid := 0, serial := 1 } }) id) (fun n => atT n (fun y => y.drop.isSome && y.own.xfer == none && !(getP n 0).adds.any (fun a => a.2.tbl == 2) && !(getP n 0).queries.any (fun q => poolsFrom (getP n 0) 2 q.2) && !durOnTbl n 0 2 y)) &&
     found (withT (fun y => { y with drop := some { fn := 0, qid := 0, serial := 1 } }) (fun x => { x with adds := [(8, { tok := none, tbl := 2, row := 1, op := .add [] })] })) (fun n => atT n (fun y => y.drop.isSome && (getP n 0).adds.any (fun a => a.2.tbl == 2)))) = true := by decide +kernel
/-- One bag of row 1, or one delta for it. -/
def topBytes (flags : Nat) : List Byte := [2, 0] ++ toLe 2 flags ++ toLe 4 1 ++ toLe 8 0x60000 ++ toLe 8 0 ++ toLe 8 0x61000 ++ toLe 8 0x62000 ++ toLe 8 0x63000 ++ toLe 16 0
def bagMem (flags : Nat) : Mem := Mem.writeN (Mem.writeN (Mem.writeN [] 0x40000 (topBytes flags)) 0x60000 (toLe 4 1)) 0x61004 (toLe 4 1)
theorem witness_RowsAreWrittenReadAndPooled :
    (takes Rows.tableWrite anyEntry tblChk noPtn io (with_ io (entry 0x92 0 2 0x40000 0 [63, 1]) [] (withT id id)) (fun t x n => (getFn n t.fn).map == some 0 && atT n (fun y => tblRefuses (some y) == none && rowsBad y x == none && tblOwnRefuses y == none && !tblHeld y && !tblSealed (getP n 0) 2 y) &&
       firstBad (words32 (List.replicate 64 0) 16) == none) &&
     takes Rows.tableWrite anyEntry tblChk noPtn io (with_ io (entry 0x92 0 2 0x40000 0 [63, 1]) [] (withT (fun y => { y with policy := 8 }) id)) (fun _ x n => atT n (fun y => tblRefuses (some y) == none && rowsBad y x == none && tblOwnRefuses y == none && tblSealed (getP n 0) 2 y)) &&
     takes Rows.tableRead anyEntry tblChk noPtn io (with_ io (entry 0x93 0 2 0x40000 0 [0, 64]) [] (withT id id)) (fun _ x n => atT n (fun y => tblRefuses (some y) == none && rowsBad y x == none && (List.range 64).all (fun i => !rowPoisoned y i))) &&
     takes Rows.pool anyEntry noChk noPtn io (with_ io (entry 0x90 0 0 0x40000 0 []) (bagMem 0) (withT id id)) (fun _ _ n => atT n (fun y => topBad false (topBytes 0) == none && (topOf (topBytes 0)).table == 2 && tblRefuses (some y) == none && !(topOf (topBytes 0)).bagFlags &&
       isOk (readBags (bagMem 0) (topOf (topBytes 0)) y.rows))) &&
     takes Rows.pool anyEntry noChk noPtn io (with_ io (entry 0x90 0 0 0x40000 0 []) (bagMem 2) (withT id id)) (fun _ _ n => atT n (fun y => topBad false (topBytes 2) == none && (topOf (topBytes 2)).bagFlags && isOk (readBags (bagMem 2) (topOf (topBytes 2)) y.rows)))) = true := by decide +kernel
/-- Row 1 migrates to slot 5. -/
def moving (st : MigSt) : Node := withT (fun y => { y with migs := [{ row := 1, dest := some 5, st := st, copy := List.replicate 16 0 }] }) id
theorem witness_AddsApplyAndRowsMigrate :
    (takes Rows.update anyEntry noChk noPtn io (with_ io (entry 0x91 0 0 0x40000 0 []) (bagMem 0) (withT id id)) (fun _ _ n => atT n (fun y => topBad true (topBytes 0) == none && tblRefuses (some y) == none && y.train && tblOwnRefuses y == none && !tblSealed (getP n 0) 2 y && (topOf (topBytes 0)).mode == 0 &&
       decide (1 < y.rows) && firstBad (words32 (List.replicate 64 0) 16) == none)) &&
     seen (withT id (fun x => { x with adds := [(8, { tok := none, tbl := 2, row := 1, op := .add (List.replicate 16 0x3F800000) })] })) (fun n => has (mget (getP n 0).adds 8) (fun a => !a.held && (issuedOps (getP n 0) a.tbl a.row).head?.map (·.1) == some 8) && (getP n 0).st != .resetting) &&
     found (moving .cutover) (fun n => atT n (fun y => y.migs.any (fun m => m.row == 1 && m.st == .cutover))) &&
     seen (moving .copy) (fun n => (getP n 0).st != .resetting) && seen (moving .forward) (fun n => (getP n 0).st != .resetting && atT n (fun y => (y.migs.find? (fun m => m.row == 1 && m.st != .copy)).isSome)) &&
     seen (modMem (fun m => { m with chans := vmod m.chans 0 (fun c => { c with satur := true, backAt := 0 }) }) (withT (fun y => { y with dir := [(1, 0)] }) id)) (fun n => let x := getP n 0
       atT n (fun y => has (mget y.dir 1) (fun k => (vget n.mem.chans (slotChan x k)).satur && decide ((vget n.mem.chans (slotChan x k)).backAt + 300000 ≤ now) && fld x.embCfg 24 4 != 0 && y.migs.isEmpty && decide (migsOf x < 64) && x.st == .inService && y.drop == none && y.own.st != .releasing &&
         ((List.range y.hotRows).find? (fun j => !(y.dir.any (fun d => d.2 == j) || y.migs.any (fun m => m.dest == some j)) && slotChan x j != slotChan x k)).isSome)))) = true := by decide +kernel
/-- Partition 0 holds object 6 of one page, in the form given. -/
def withO (g : Obj → Obj) (pg : Page → Page) : Node := modMem (fun m => { m with pages := [(0, pg { obj := 6, ptn := 0, tier := 1 })] }) (withT id (fun x => { x with objs := [(6, g { pages := [0] })] }))
def atO (n : Node) (t : Tok) (x : Sqe) (k : Obj → Bool) : Bool := has (objNamed n t.fn x.target) (fun o => o.1 == 0 && k o.2)
theorem witness_ObjectCommandsComplete :
    (takes Rows.objectAlloc anyEntry noChk fnPtn adm (with_ adm (entry 0x30 0 7 0 0 [1, 0]) [] (withO id id)) (fun t x n => (getFn n t.fn).map == some 0 && decide (0 < x.target) && decide (x.target < 0xF000) && !mhas (getP n 0).objs x.target && !policyBad (getP n 0) (BitVec.ofNat 64 x.arg1) &&
       decide (x.arg0 ≤ freeT1 n 0 / 65536 + freeT2 n 0 / 4096) && (allocPages 0 7 { pages := [1] } [(0, 1)] n).isSome && freePages n.mem.pages (n.mem.pages.length + 1) 1 0 == [1]) &&
     takes Rows.objectAlloc anyEntry noChk fnPtn adm (with_ adm (entry 0x30 0 7 0 0 [0xFFFFFFFFFFFF, 0]) [] (withO id id)) (fun _ x n => decide (freeT1 n 0 / 65536 + freeT2 n 0 / 4096 < x.arg0)) &&
     takes Rows.objectFree anyEntry freeChk fnPtn adm (with_ adm (entry 0x31 0 6 0 0 []) [] (withO id id)) (fun t x n => atO n t x (fun _ => !(getP n 0).polCmds.any (fun c => c.2 == x.target))) &&
     takes Rows.objectPolicy anyEntry objChk fnPtn adm (with_ adm (entry 0x32 0 6 0 0 [0, 8]) [] (withO id id)) (fun t x n => atO n t x (fun o => fld o.policy 8 4 == 0 && !policyBad (getP n 0) (BitVec.ofNat 64 x.arg1) && (!bit o.policy 3 || bit (BitVec.ofNat 64 x.arg1) 3))) &&
     takes Rows.objectWrite anyEntry objRange noPtn io (with_ io (entry 0xA0 0 6 0x40000 0 [65472, 64]) [] (withO (fun o => { o with policy := 8 }) id)) (fun t x n => atO n t x (fun o => bit o.policy 3)) &&
     takes Rows.objectWrite anyEntry objRange noPtn io (with_ io (entry 0xA0 0 6 0x40000 0 [65472, 64]) [] (withO id id)) (fun t x n => atO n t x (fun o => !bit o.policy 3)) &&
     found (withO id id) (fun n => has (mget (getP n 0).objs 6) (fun o => o.use_ == .host)) &&
     [0, 65472].all (fun k => takes Rows.objectRead anyEntry objRange noPtn io (with_ io (entry 0xA1 0 6 0x40000 0 [65472, 64]) [] (withO (fun o => { o with poison := [k] }) id)) (fun t x n => atO n t x (fun o =>
       let m := readWords (clkOf {} (stateOf [] n)) 0 (some t) 0xFFFFFFFF (locsAt 0 (getP n 0) x.target (badIn 0 (getP n 0) o x.arg0 x.arg1)) (inRange (getP n 0) 0 x.target x.arg0 x.arg1) n
       has (mget (getP m 0).objs 6) (fun a => (badIn 0 (getP m 0) a x.arg0 x.arg1).isEmpty == (k == 0)))))) = true := by decide +kernel
theorem witness_PagesMigrate :
    (seen (withO id id) (fun n => decide (n.mem.heatAt + 300000 * fld n.mem.migCfg 0 8 ≤ now) && fld n.mem.migCfg 24 8 != 0) &&
     seen (modMem (fun m => { m with migCfg := 0x0000000000200464 }) (withO id id)) (fun n => decide (n.mem.heatAt + 300000 * fld n.mem.migCfg 0 8 ≤ now) && fld n.mem.migCfg 24 8 == 0) &&
     [(1, 0), (0, 1), (1, 1)].all (fun k => seen (withO (fun o => { o with poison := [65536] }) (fun g => { g with tier := k.1, mig := some { tier := k.2, chan := 0, frame := 9 } })) (fun n => has (getPage n 0) (fun g => g.tier == k.1 && has g.mig (fun m => m.tier == k.2) &&
       (getP n g.ptn).st != .resetting && (objOfPage n g).isSome)))) = true := by decide +kernel
theorem witness_MemoryUpkeepRuns :
    (seen upNode (fun n => decide (locPtn (normLoc n (.sram 7 0)) < 8) && !poisoned n (normLoc n (.sram 7 0))) && decide (84 < 85) && decide (85 ≤ 94 ∧ 94 < 95) && decide (95 ≤ 99 ∧ 99 < 100) && decide (100 ≤ 109) &&
     seen (modMem (fun m => { m with stks := vmod m.stks 0 (fun k => { k with budget := 1599 }) }) upNode) (fun n => decide ((vget n.mem.stks (15 / 16)).budget < 1600)) &&
     seen (modChan 127 (fun c => { c with clear := 16, satur := true }) upNode) (fun n => decide (16 ≤ (vget n.mem.chans 127).clear) && decide (1600 ≤ (vget n.mem.stks (127 / 16)).budget))) = true := by decide +kernel

/-! ### Chapter 10 -/

/-- Slot 0 in a state of a cartridge. -/
def cart0 (g : Cart → Cart) : Node := modCart 0 (fun c => g { c with present := true, power := true }) upNode
/-- The unique IDs of the 128 dies, and their digest. -/
def dieIds : List (List Byte) := (List.range 128).map (fun i => toLe 16 i)
def dieSha : List Byte := sha384 dieIds.flatten
/-- The bytes of an identity record (Table 10-2) of serial 7. -/
def idBytes (model : Nat) (dg : List Byte) : List Byte :=
  toLe 4 0x544C454D ++ toLe 2 1 ++ toLe 2 model ++ toLe 16 7 ++ [8, 16, 4, 0] ++ toLe 2 5015 ++ toLe 2 48 ++ toLe 2 1536 ++ toLe 2 384 ++ toLe 4 1500 ++ toLe 8 13671875000 ++ toLe 4 640 ++ toLe 12 0 ++ dg ++ toLe 16 0
/-- A cartridge whose checks all pass, with that digest in its record. -/
def goodId (dg : List Byte) : CartIdent := { dies := dieIds.map (fun d => ({}, d)), record := idBytes 0x0C64 dg }
/-- The slot holds a cartridge that is being identified. -/
def newCart (id : CartIdent) (n : Node) : Bool :=
  alive n && (getCart n 0).st == .identifying && !(getCart n 0).known && id.trained == 0xFF && id.dies.length == 128 && id.dies.all (fun d => d.1 == {}) && decide (lifeUsed (lifeAtMount id.lifeA id.lifeB id.sets).wear < 900)
theorem test_identity_record : idRecordOf (idBytes 0x0C64 (toLe 48 9)) = { serial := 7, dieDigest := 9 } := by decide +kernel
theorem witness_CartridgesServe_identified :
    (let n := nodeOf {} (stateOf [] (cart0 (fun c => { c with st := .identifying })))
     let g := goodId dieSha
     let f := goodId (toLe 48 0)
     newCart g n && (g.dies.map (fun d => d.2.take 16)).flatten == dieIds.flatten && recordOk (idRecordOf g.record) && (idRecordOf g.record).dieDigest == leNat dieSha && g.dirOurs != some false && !factoryBoot n &&
     newCart { g with idAnswers := false } n && newCart { g with dirOurs := some false } n && newCart { g with rsaOk := false } n && !recordOk (idRecordOf (idBytes 0x0C65 dieSha)) &&
     newCart f n && recordOk (idRecordOf f.record) && (idRecordOf f.record).dieDigest != leNat dieSha && (nodeOf {} (stateOf [] (cart0 (fun c => { c with st := .identifying })))).boot.ready) = true := by decide +kernel
theorem witness_CartridgesServe :
    (found upNode (fun n => !(getCart n 3).present && n.pins.perst) &&
     seen (cart0 (fun c => { c with st := .identifying })) (fun n => (getCart n 0).st == .identifying && ({} : CartIdent).dies.length != 128) &&
     seen (cart0 (fun c => { c with st := .active })) (fun n => (getCart n 0).st == .active && decide ((getCart n 0).lifeAt + 180000000000 ≤ now)) &&
     found (cart0 (fun c => { c with st := .released, safe := true })) (fun n => (getCart n 0).present && (getCart n 0).safe) &&
     found (modCart 1 (fun c => { c with st := .active, present := true, serial := 12 }) (cart0 (fun c => { c with st := .active }))) (fun n =>
       let m := modFls (fun f => { f with progs := f.progs.filter (fun g => g.2.cart != 0), stage := f.stage.filter (fun x => !(unsettled { node := now } n 0).any (fun y => y.ver == x.ver)) }) (parkSanits { node := now } 0 (loseToks { node := now } (waitOn n 0) n))
       (getCart n 0).present && !(getCart n 0).safe && otherSlot m 0 == some 1) &&
     found (cart0 (fun c => { c with st := .active })) (fun n =>
       let m := modFls (fun f => { f with progs := f.progs.filter (fun g => g.2.cart != 0), stage := f.stage.filter (fun x => !(unsettled { node := now } n 0).any (fun y => y.ver == x.ver)) }) (parkSanits { node := now } 0 (loseToks { node := now } (waitOn n 0) n))
       (getCart n 0).present && !(getCart n 0).safe && (otherSlot m 0).isNone) &&
     [[], [(1, { cart := 0, set_ := 9, onebit := true, obj := 5, blk := 3, data := [2] })]].all (fun ps => found (modFls (fun f => { f with progs := ps }) (cart0 (fun c => { c with st := .releasing }))) (fun n =>
       (getCart n 0).st == .releasing && !(getCart n 0).relEvac && n.flash.progs.any (fun g => g.2.cart == 0) == !ps.isEmpty && !n.flash.stage.any (fun x => slotOfBlk n x.obj x.blk == some 0))) &&
     takes Rows.cartRelease anyEntry noChk noPtn adm (with_ adm (entry 0x35 0 0 0 0 []) [] (cart0 (fun c => { c with st := .active }))) (fun _ x n => decide (x.target < 4) && (getCart n x.target).st == .active && !x.flag 1) &&
     takes Rows.cartAdopt anyEntry noChk noPtn adm (with_ adm (entry 0x36 0 0 0 0 []) [] (cart0 (fun c => { c with st := .released }))) (fun _ x n => decide (x.target < 4) && (getCart n x.target).st == .released && !x.flag 1 && (getCart n x.target).ident == none) &&
     takes Rows.cartAdopt anyEntry noChk noPtn adm (with_ adm (entry 0x36 0 0 0 0 []) [] (cart0 (fun c => { c with st := .foreign, ident := some {} }))) (fun _ x n => (getCart n x.target).st == .foreign && has (getCart n x.target).ident (fun id => !id.objs.any (fun o => mhas n.flash.objs o.1)))) = true := by decide +kernel
/-- Slot 0 serves object 5 of 16 blocks; block 2 lies in set 9. -/
def fls (g : FlashSt → FlashSt) : Node :=
  modFls (fun f => g { f with objs := [(5, { ptn := 0, blocks := 16, carts := [11], base := [0] })], copies := [{ cart := 0, set_ := 9, obj := 5, blk := 2, data := [1], onebit := true, mapped := true }], cache := [{ cart := 0, page := 0 }] })
    (cart0 (fun c => { c with st := .active, known := true, serial := 11, sets := [(9, { qlc := false, phase := 2, used := 1 })] }))
def blk2 (opc flags : Nat) : List Byte := entry opc flags 0 (if opc = 0xA2 ∨ opc = 0xA3 then 0x40000 else 0) 0 [5, 8192, 4096]
theorem witness_FlashCommandsComplete :
    (takes Rows.flashAlloc anyEntry noChk fnPtn adm (with_ adm (entry 0x33 0 0 0 0 [6, 32, 0]) [] (fls id)) (fun t x n => activeSlots n == [0] && decide (x.arg0 < 0x80000000) && fobj n x.arg0 == none && decide (reservedOn n 11 + objShare { ptn := ((getFn n t.fn).map).getD 0, blocks := x.arg1, carts := [11] } 0 ≤ cartBlocks) &&
       decide (4096 * x.arg1 ≤ freeFlash n)) &&
     takes Rows.flashFree anyEntry flashFreeChk fnPtn adm (with_ adm (entry 0x34 0 0 0 0 [5]) [] (fls id)) (fun _ x _ => !x.flag 1) &&
     takes Rows.flashFree anyEntry flashFreeChk fnPtn adm (with_ adm (entry 0x34 2 0 0 0 [5]) [] (fls id)) (fun _ x _ => x.flag 1) &&
     takes Rows.flashWrite anyEntry (flashChk true) noPtn io (with_ io (blk2 0xA2 0) [] (modCart 0 (fun c => { c with st := .readOnly }) (fls id))) (fun _ x n => objWhole n x.arg0 && !objWritable n x.arg0) &&
     takes Rows.flashWrite anyEntry (flashChk true) noPtn io (with_ io (blk2 0xA2 0) [] (fls id)) (fun _ x n => objWhole n x.arg0 && objWritable n x.arg0 && n.flash.waits.isEmpty && decide (stageFill n + (blksOf x).length ≤ stageSize)) &&
     takes Rows.flashRead anyEntry (flashChk true) noPtn io (with_ io (blk2 0xA3 0) [] (fls id)) (fun _ x n => (missing n x).isEmpty && !rangeHeld n x) &&
     takes Rows.flashRead anyEntry (flashChk true) noPtn io (with_ io (blk2 0xA3 0) [] (fls (fun f => { f with cache := [] }))) (fun _ x n => !(missing n x).isEmpty) &&
     takes Rows.discard anyEntry (flashChk false) noPtn io (with_ io (blk2 0xA4 0) [] (fls id)) (fun t x n => !x.durable && (missing (markCmd t false true (unmap { node := now } x.arg0 (blkLo x) (blkHi x) n)) x).isEmpty) &&
     takes Rows.secureDiscard anyEntry (flashChk false) noPtn io (with_ io (blk2 0xA5 0) [] (fls id)) (fun _ x n => setsHolding n x.arg0 (blkLo x) (blkHi x) == [(0, 9)])) = true := by decide +kernel
def staged2 : Staged := { obj := 5, blk := 2, data := [1], at_ := 0, ver := 3 }
theorem witness_ProgramsRun :
    (seen (fls (fun f => { f with reads := [(0, 0)] })) (fun n => n.flash.reads.contains (0, 0)) &&
     seen (modCart 0 (fun c => { c with sets := c.sets ++ (List.range 4967).map (fun i => (i, { phase := 1 })) }) (fls (fun f => { f with stage := [staged2] }))) (fun n =>
       (n.flash.stage.find? (fun x => x.obj == 5 && x.blk == 2)).isSome && slotOfBlk n 5 2 == some 0 && has (pageOfBlk n 5 2) (pageIn n) && decide (freeOnDie (getCart n 0) (dieOf 10) < 2)) &&
     seen (fls (fun f => { f with cache := [{ cart := 0, page := 0, dirty := some 0 }] })) (fun n => n.flash.cache.any (fun m => m.cart == 0 && m.page == 0 && m.dirty.isSome) && (getCart n 0).serves) &&
     seen (fls (fun f => { f with stage := [staged2] })) (fun n => (n.flash.stage.find? (fun x => x.obj == 5 && x.blk == 2)).isSome && slotOfBlk n 5 2 == some 0 && has (pageOfBlk n 5 2) (pageIn n) && toOnebit n staged2 && setTakes (getCart n 0) 4967 true true && decide (onebitFill n 0 < onebitLimit n)) &&
     seen (fls (fun f => { f with progs := [(1, { cart := 0, set_ := 9, onebit := true, obj := 5, blk := 3, data := [2] })] })) (fun n => has (mget n.flash.progs 1) (fun g => g.set_ != 10 && setTakes (getCart n g.cart) 10 g.onebit false && decide ((progsOf n g.cart g.set_).length ≤ setRoom (getSet (getCart n g.cart) 10) g.onebit)))) = true := by decide +kernel
/-- Die 0 of slot 0 has five free sets; set 9 is closed and has a copy of block 2, or none. -/
def fullDie (cs : List Copy) : Node := modFls (fun f => { f with copies := cs }) (modCart 0 (fun c => { c with sets := (List.range 4962).map (fun i => (i, { phase := if i = 9 then 2 else 1 })) }) (fls id))
theorem witness_FoldAndWringerRun :
    (seen (fls id) (fun n => (getCart n 0).st == .active && setTakes (getCart n 0) 10 false false && (getSet (getCart n 0) 10).phase == 0) &&
     seen (modSet 0 10 (fun b => { b with qlc := true, phase := 1 }) (fls id)) (fun n => (getSet (getCart n 0) 10).phase == 1 && (getSet (getCart n 0) 10).qlc && !progsInto n 0 10 && (n.flash.copies.filter (fun c => c.cart == 0 && c.set_ == 10)).isEmpty) &&
     seen (modSet 0 10 (fun b => { b with qlc := true, phase := 1 }) (fls (fun f => { f with copies := f.copies ++ [{ cart := 0, set_ := 10, obj := 5, blk := 2, data := [1], onebit := false, mapped := false }] }))) (fun n => (getSet (getCart n 0) 10).qlc && !progsInto n 0 10 &&
       (n.flash.copies.filter (fun c => c.cart == 0 && c.set_ == 10 && !c.mapped && n.flash.copies.any (fun x => x.obj == c.obj && x.blk == c.blk && x.ver == c.ver && x.mapped && x.onebit))).length == 1 && (n.flash.copies.filter (fun y => y.obj == 5 && y.blk == 2 && y.ver == 0 && y.mapped && y.onebit)).length == 1)) = true := by decide +kernel
theorem witness_FoldAndWringerRun_wringer :
    (seen (fullDie []) (fun n => (getCart n 0).st == .active && draining n 0 0 == none && decide (freeOnDie (getCart n 0) 0 < freeLow n) && victim now n 0 0 == some 9 && (validIn n 0 9).isEmpty) &&
     seen (fullDie [{ cart := 0, set_ := 9, obj := 5, blk := 2, data := [1], onebit := false, mapped := true }]) (fun n => draining n 0 0 == none && decide (freeOnDie (getCart n 0) 0 < freeLow n) && victim now n 0 0 == some 9 && !(validIn n 0 9).isEmpty && setTakes (getCart n 0) 4962 false false &&
       (getSet (getCart n 0) 4962).phase == 0)) = true := by decide +kernel
theorem witness_FoldAndWringerRun_erase : (seen (modSet 0 9 (fun b => { b with phase := 4 }) (fls (fun f => { f with copies := [] }))) (fun n => eraseOpen n 0 9 && !(getSet (getCart n 0) 9).qlc && !outOfService n 0 9) &&
    seen (modFls (fun f => { f with sanits := [{ sets := [(0, setCount)] }] }) (modCart 0 (fun c => { c with retired := [(0, 1, 9)] }) (fls id))) (fun n => eraseOpen n 0 setCount && outOfService n 0 setCount)) = true := by decide +kernel
/-- Set 8 of the full die waits for its erase. -/
def dieToErase : Node := modSet 0 8 (fun b => { b with phase := 4 }) (fullDie [])
/-- The node once it is erased. -/
def dieErased : Node := sanitSet { node := now } 0 8 false (wipeSet { node := now } 0 8 false none (relocate { node := now } 0 8 dieToErase))
theorem witness_FoldAndWringerRun_next : seen dieToErase (fun n => eraseOpen n 0 8 && (getSet (getCart n 0) 8).qlc && (getSet (getCart n 0) 8).phase == 4) = true := by decide +kernel
theorem witness_FoldAndWringerRun_next' : ((getCart dieErased 0).st == .active && decide (freeOnDie (getCart dieErased 0) 0 < 2 * freeLow dieErased) && draining dieErased 0 0 == none && victim now dieErased 0 0 == some 9) = true := by decide +kernel

/-! ### Chapter 13: ownership and durability -/

/-- Collection 3 of partition 0 of node 5, with its ownership. -/
def owning (g : Own → Own) (h : Coll → Coll) : Node := modLnk (fun b => { b with nodeId := 5, routes := [(9, 0x0000000900403580)] }) (modL 35 (fun x => { x with st := .active }) (withC (fun c => h { c with own := g { owner := 5 } }) id))
def ownAt (n : Node) (t : Tok) (x : Sqe) (k : Own → Bool) : Bool := !xferWaits n t.fn x && ownPtn n t.fn x == some 0 && kindOf (x.arg0 % 2) == .coll && findId n 0 .coll (BitVec.ofNat 64 x.arg1) == some 3 && has (getOwn n 0 .coll 3) k
def xf (inNode : Bool) : Xfer := { tok := { fn := 0, qid := 0, serial := 1 }, peer := 9, peerP := 0, epoch := 1, at_ := 0, inNode := inNode }
/-- Object 6 of partition 0 may go to partition 1. -/
def memNode (p : Nat) (rel : List (Nat × Nat)) : Node := modP 1 (fun x => { x with st := .inService }) (modP p (fun x => { x with objs := [(6, { pages := [] })], memRel := rel }) (owning id id))
theorem witness_OwnershipCommandsComplete_others :
    (let busyLoad := modP 0 (fun x => { x with load := some { slot := 1, sec := { ptn := 0 }, deadline := now } }) (owning id id)
     takes Rows.ownershipRelease anyEntry noChk ownPtn adm (with_ adm (entry 0x45 0 0 0 0 [0, 7, 9]) [] busyLoad) (fun t x n => xferWaits n t.fn x) &&
     takes Rows.ownershipClaim anyEntry noChk ownPtn adm (with_ adm (entry 0x46 0 0 0 0 [0, 7, 9, 2]) [] busyLoad) (fun t x n => xferWaits n t.fn x) &&
     takes Rows.ownershipRelease anyEntry noChk ownPtn adm (with_ adm (entry 0x45 0 0 0 0 [0, 6, 5 + 2 ^ 32]) [] (memNode 0 [])) (fun t x n => ownPtn n t.fn x == some 0 && findId n 0 (kindOf (x.arg0 % 2)) (BitVec.ofNat 64 x.arg1) == none && !xferWaits n t.fn x &&
       (memRelease { node := now } t x 0 n).isSome) &&
     takes Rows.ownershipClaim anyEntry noChk ownPtn adm (with_ adm (entry 0x46 0 0 0 0 [0, 6, 5 + 2 ^ 32, 0]) [] (memNode 1 [(6, 0)])) (fun t x n => ownPtn n t.fn x == some 0 && findId n 0 (kindOf (x.arg0 % 2)) (BitVec.ofNat 64 x.arg1) == none && !xferWaits n t.fn x &&
       (memClaim { node := now } t x 0 n).isSome)) = true := by decide +kernel
theorem witness_OwnershipCommandsComplete :
    (takes Rows.ownershipRelease anyEntry noChk ownPtn adm (with_ adm (entry 0x45 0 0 0 0 [0, 7, 9]) [] (owning id id)) (fun t x n => ownAt n t x (fun o => o.st == .owned) && argOwner x.arg2 != 0 && !isMe n 0 (argOwner x.arg2) (argOwnerP x.arg2)) &&
     takes Rows.ownershipClaim anyEntry noChk ownPtn adm (with_ adm (entry 0x46 0 0 0 0 [0, 7, 9, 2]) [] (owning (fun o => { o with st := .released, owner := 9 }) id)) (fun t x n => ownAt n t x (fun o => o.st == .released) && !x.flag 1) &&
     takes Rows.ownershipClaim anyEntry noChk ownPtn adm (with_ adm (entry 0x46 2 0 0 0 [0, 7, 9, 2]) [] (owning (fun o => { o with st := .released, owner := 9 }) id)) (fun t x n => ownAt n t x (fun o => o.st != .frozen && decide (o.seen < x.arg3) && o.xfer == none) && x.flag 1 && argOwner x.arg2 != n.lnk.nodeId) &&
     takes Rows.ownershipClaim anyEntry noChk ownPtn adm (with_ adm (entry 0x46 2 0 0 0 [0, 7, 5 + 2 ^ 32, 2]) [] (owning (fun o => { o with st := .claiming, xfer := some (xf true) }) id)) (fun t x n => ownAt n t x (fun o => o.st != .frozen && decide (o.seen < x.arg3) && o.xfer.isSome) && argOwner x.arg2 == n.lnk.nodeId) &&
     takes Rows.ownershipResolve anyEntry noChk ownPtn adm (with_ adm (entry 0x47 0 0 0 0 [0, 7, 5, 2]) [] (owning (fun o => { o with st := .frozen }) (fun c => { c with st := .frozen }))) (fun t x n => ownAt n t x (fun o => decide (o.seen < x.arg3) && o.xfer == none) && isMe n 0 (argOwner x.arg2) (argOwnerP x.arg2)) &&
     takes Rows.ownershipResolve anyEntry noChk ownPtn adm (with_ adm (entry 0x47 0 0 0 0 [0, 7, 9, 2]) [] (owning (fun o => { o with st := .frozen }) (fun c => { c with st := .frozen }))) (fun t x n => ownAt n t x (fun o => decide (o.seen < x.arg3) && o.xfer == none) && !isMe n 0 (argOwner x.arg2) (argOwnerP x.arg2) && argOwner x.arg2 != n.lnk.nodeId) &&
     [true, false].all (fun b => seen (owning (fun o => { o with st := .claiming, xfer := some (xf b) }) id) (fun n => has (getOwn n 0 .coll 3) (fun o => o.st == .claiming && has o.xfer (fun x => x.inNode == b && decide (x.at_ + claimCycles (getP n 0) ≤ now))))) &&
     [5, 9].all (fun k => seen (owning (fun o => { o with st := .released, rel := some { from_ := k, fromP := 0, epoch := 2, lastSeq := 0, at_ := 0 } }) id) (fun n => has (getOwn n 0 .coll 3) (fun o => o.st == .released && has o.rel (fun r => (r.from_ == n.lnk.nodeId) == (k == 5) && decide (r.at_ + claimCycles (getP n 0) ≤ now)))))) = true := by decide +kernel
/-- The body of an ownership message about collection 3, epoch 2. -/
def ownMsg (kind st : Nat) : Msg := msgTo 5 kind 0 ([0, BitVec.ofNat 8 st] ++ toLe 6 0 ++ toLe 8 7 ++ toLe 8 2 ++ toLe 4 5 ++ toLe 4 0 ++ toLe 8 0)
theorem witness_OwnershipMessagesAreAnswered :
    (delivered mkOwnRelease 35 (ownMsg mkOwnRelease Holder.released.code) (stateOf [] (owning (fun o => { o with st := .released, owner := 9 }) id)) (fun n => let z := ackBack { node := now } (ownMsg mkOwnRelease Holder.released.code) n
       findId z 0 .coll 7 == some 3 && has (getOwn z 0 .coll 3) (fun o => o.st == .released && decide (o.epoch < 2)) && isMe z 0 5 0) &&
     delivered mkOwnClaim 35 (ownMsg mkOwnClaim 0) (stateOf [] (owning id id)) (fun n => has (getOwn (ackBack { node := now } (ownMsg mkOwnClaim 0) n) 0 .coll 3) (fun o => o.st == .owned)) &&
     delivered mkOwnState 35 (ownMsg mkOwnState Holder.owned.code) (stateOf [] (owning id id)) (fun n => has (getOwn n 0 .coll 3) (fun o => o.st == .owned) && leAt (ownMsg mkOwnState Holder.owned.code).body 1 1 == Holder.owned.code) &&
     delivered mkOwnState 35 (ownMsg mkOwnState 0) (stateOf [] (owning (fun o => { o with st := .frozen }) id)) (fun n => has (getOwn n 0 .coll 3) (fun o => o.st == .frozen))) = true := by decide +kernel
/-- A record of collection 3 that the buddy has not acknowledged, from cycle `t` on. -/
def unackd (t : Nat) : Unack := { r := .coll { seq := 1, kind := .delete, id := 5 }, at_ := t }
/-- The body of a MIRROR_WRITE without records. -/
def mirMsg (flags : Nat) : Msg := msgTo 5 mkMirror 0 (toLe 8 7 ++ [0, BitVec.ofNat 8 flags] ++ toLe 2 0 ++ toLe 4 0 ++ toLe 8 1 ++ toLe 8 1 ++ toLe 8 0 ++ toLe 8 1)
theorem witness_RecordsAreMirrored :
    (seen (owning id id) (fun n => decide ((getP n 0).epochAt + (getP n 0).epochLen ≤ now) && (getP n 0).pow == .on && (getP n 0).st == .inService) &&
     seen (modP 0 (fun x => { x with st := .resetting }) (owning id id)) (fun n => decide ((getP n 0).epochAt + (getP n 0).epochLen ≤ now) && (getP n 0).pow == .on && (getP n 0).st == .resetting) &&
     seen (owning id (fun c => { c with dur := { c.dur with unsent := [unackd 0] } })) (fun n => has (getDur n 0 .coll 3) (fun d => has d.unsent.head? (fun u => decide (u.at_ + 300000 ≤ now)))) &&
     seen (modP 0 (fun x => { x with durCfg := x.durCfg ||| 1, buddy := 9 }) (owning id (fun c => { c with dur := { c.dur with unacked := [(4, [unackd 0])] } }))) (fun n => has (getDur n 0 .coll 3) (fun d => !d.held && holdDue { node := now, ptn := Vector.replicate 8 (some now) } n 0 .coll 3)) &&
     [0, 2].all (fun k => delivered mkMirror 35 (mirMsg k) (stateOf [] (modP 0 (fun x => { x with colls := [] }) (owning id id))) (fun n => decide (stageFill n + cdiv (mirMsg k).body.length 4096 ≤ stageSize) && !n.flash.ackWhen.any (fun a => a.1.src == 9) && leAt (mirMsg k).body 0x20 8 == 0 && (findId n 0 .coll 7).isNone)) &&
     delivered mkMirror 35 (mirMsg 0) (stateOf [] (owning (fun o => { o with st := .released, owner := 9 }) id)) (fun n => findId n 0 .coll 7 == some 3)) = true := by decide +kernel
/-- A restoration of collection 3, whose source is node 9 and whose buddy too. -/
def recov (r : Recover → Recover) (h : Coll → Coll) : Node := owning id (fun c => h { c with dur := { c.dur with recover := some (r { tok := { fn := 0, qid := 0, serial := 1 }, src := 9, srcP := 0, bud := 9, budP := 0 }) } })
/-- The first 40 bytes of RECOVER_READ and RECOVER_DATA about collection 7 of node 9. -/
def recHead (what : Nat) : List Byte := toLe 8 7 ++ [0, BitVec.ofNat 8 what] ++ toLe 2 0 ++ toLe 4 9 ++ toLe 4 0 ++ toLe 4 0 ++ toLe 8 0 ++ toLe 8 0
theorem witness_SnapshotsAndRestorations :
    (takes Rows.snapshotTake (fun x => !isRestore x) takeChk snapPtn adm (with_ adm (entry 0x48 0 3 0 0 []) [] (owning id id)) (fun t x n => snapRef n t.fn x == some (0, .coll, 3) && has (getDur n 0 .coll 3) (fun d => d.snap == none && d.wantSnap == none)) &&
     takes Rows.snapshotTake (fun x => !isRestore x) takeChk snapPtn adm (with_ adm (entry 0x48 0 3 0 0 []) [] (owning id (fun c => { c with dur := { c.dur with wantSnap := some none } }))) (fun _ _ n => has (getDur n 0 .coll 3) (fun d => d.wantSnap.isSome)) &&
     takes Rows.snapshotTake isRestore restoreChk snapPtn adm (with_ adm (entry 0x48 0 3 0 0 [1, 9, 9, 0]) [] (owning id id)) (fun t x n => snapRef n t.fn x == some (0, .coll, 3) && has (getDur n 0 .coll 3) (fun d => d.recover == none && d.snap == none) && (Vector.toList (getP n 0).snapMem).all (· == 0)) &&
     takes Rows.snapshotTake isRestore restoreChk snapPtn adm (with_ adm (entry 0x48 0 3 0 0 [1, 9, 9, 0]) [] (modP 0 (fun x => { x with snapMem := Vector.replicate 10 9 }) (owning id id))) (fun t x n =>
       snapRef n t.fn x == some (0, .coll, 3) && has (getDur n 0 .coll 3) (fun d => d.recover == none && d.snap == none) &&
       has ((getDur (askStripe { node := now } 0 .coll 3 0 none (modDur 0 .coll 3 (fun d => { d with recover := some { tok := t, src := 9, srcP := 0, bud := 9, budP := 0 } }) n)) 0 .coll 3).bind (·.recover)) (fun r => r.heard.isEmpty)) &&
     delivered mkSnap 35 (msgTo 5 mkSnap 0 (recHead 0)) (stateOf [] (owning id id)) (fun n => decide (4096 * cdiv (recHead 0).length 4096 ≤ freeFlash n) && decide (stageFill n + cdiv (recHead 0).length 4096 ≤ stageSize) && (needObj 0 chunkObj n).flash.chunks.isEmpty) &&
     [0, 1].all (fun k => delivered mkRecRead 35 (msgTo 5 mkRecRead 0 (recHead k)) (stateOf [] (owning id id)) (fun _ => leAt (recHead k) 9 1 == k)) &&
     delivered mkRecData 35 (msgTo 5 mkRecData 0 (recHead 0)) (stateOf [] (recov id id)) (fun n => findId n 0 .coll 7 == some 3 && has ((getDur n 0 .coll 3).bind (·.recover)) (fun r => r.src.toNat == 9 && r.srcP == 0 && r.reading == none && r.stripe == leAt (recHead 0) 0x14 4)) &&
     delivered mkRecData 35 (msgTo 5 mkRecData 0 (recHead 1 ++ toLe 8 0)) (stateOf [] (recov (fun r => { r with reading := some 4, chunks := [{ src := 9, srcP := 0, kind := .coll, objId := 7, epoch := 4, bytes := [] }] }) (fun c => { c with cur := none })))
       (fun n => has ((getDur n 0 .coll 3).bind (·.recover)) (fun r => r.reading == some 4 && r.bud == 9 && has (decodeSnap r 4) (fun bs => has (loadSnap { node := now } 0 .coll 3 bs n) (fun z => (applyRecs { node := now } 0 .coll 3 [] z).2))))) = true := by decide +kernel

/-! ### Encodings -/

theorem witness_MessagesReadBack : (msgOf (hdrBytes (msgTo 9 mkPing 255 [1, 2]) ++ [1, 2] ++ [0, 0]) == msgTo 9 mkPing 255 [1, 2]) = true := by decide +kernel
theorem witness_HostMemoryReadsBack : (Mem.wf (Mem.writeN [] 0x100 [1, 2]) && Mem.readN (Mem.writeN (Mem.writeN [] 0x100 [1, 2]) 0x101 [0, 3]) 0x100 3 == [1, 0, 3]) = true := by decide +kernel

/-! ### Values that the spec prints -/

/-- The stored vector of the worked example of chapter 05 (Table 5-13), and the query. -/
def storedVec : List W32 := [0x3F666666, 0xBDCCCCCD, 0x3F19999A, 0x3E4CCCCD, 0xBEE66666, 0x3D4CCCCD, 0xBF333333, 0x3E99999A] ++ List.replicate 24 0
def queryVec : List W32 := [0x40400000, 0xBF000000, 0x3FA00000, 0x3E800000, 0xC0000000, 0x3F800000, 0xC0300000, 0x3F200000] ++ List.replicate 24 0
theorem test_stored_row : ((quantise storedVec 7 0x3F80 .bf16).scale16 == 0x3E04 && (quantise storedVec 7 0x3F80 .bf16).codes.take 8 == [7, -1, 5, 2, -3, 0, -5, 2]) = true := by decide +kernel
theorem test_query_row : ((quantise queryVec 7 0x3F80 .fp32).scale == 0x3EDB6DB7 && (quantise queryVec 7 0x3F80 .fp32).codes.take 8 == [7, -1, 3, 1, -5, 2, -6, 1]) = true := by decide +kernel
/-- S = 114 and the key 0x40C9_8925. -/
theorem test_press_key : dequant .ip 0x3EDB6DB7 [7, -1, 3, 1, -5, 2, -6, 1] 0x3E04 [7, -1, 5, 2, -3, 0, -5, 2] = 0x40C98925 := by decide +kernel
/-- `RHO_QUERY` 0.75: two values clip and the test fails; the N8 row. -/
theorem test_clip : ((quantise queryVec 7 0x3F40 .fp32).clipped == 2 && clipFails 2 0x80 32 && (quantise queryVec 127 0x3F80 .fp32).codes.take 8 == [127, -21, 53, 11, -85, 42, -116, 26]) = true := by decide +kernel
/-- The candidates of Table 6-14. -/
def cand (rank o id : Nat) (k : W32) : Cand := { key := k, order := 2 ^ 40 * rank + o, id := BitVec.ofNat 64 id }
def rank0 : List Cand := [cand 0 1 0x11 0x41180000, cand 0 2 0x12 0x40E00000, cand 0 3 0x13 0x40E00000, cand 0 4 0x14 0x7FC00000, cand 0 5 0x15 0x40000000]
def rank1 : List Cand := [cand 1 1 0x21 0x41000000, cand 1 2 0x12 0x40E80000, cand 1 3 0x23 0x40E00000, cand 1 4 0x24 0x80000000, cand 1 5 0x25 0]
def rank2 : List Cand := [cand 2 1 0x31 0x40E00000]
theorem test_local_selections : ((selectOf true 4 rank0).entries.map (·.id) == [0x11, 0x12, 0x13, 0x15] && (selectOf true 4 rank0).nanCount == 1 && (selectOf true 4 rank1).entries.map (·.id) == [0x21, 0x12, 0x23, 0x24] && (selectOf true 4 rank1).tieSpill == 1 &&
    (selectOf true 4 rank1).outCount == 1 && (selectOf true 4 rank2).entries.length == 1) = true := by decide +kernel
/-- Table 6-15, and the case in which rank 2 is missing. -/
theorem test_root_step : (let m := (mergeStep true 4 [selectOf true 4 rank0, selectOf true 4 rank1, selectOf true 4 rank2] 0).1
    m.entries.map (·.id) == [0x11, 0x21, 0x12, 0x13] && m.tieSpill == 2 && m.nanCount == 1 && m.dupCount == 1 && m.selAcc.final.1 == 0x403FC00000000000 && m.outAcc.final.1 == 0x4030000000000000 && m.outCount == 5 && m.parts == 3) = true := by decide +kernel
theorem test_missing_rank : (let m := (mergeStep true 4 [selectOf true 4 rank0, selectOf true 4 rank1] 1).1
    m.entries.map (·.id) == [0x11, 0x21, 0x12, 0x13] && m.tieSpill == 1 && m.missing == 1 && statusOf 4 m == stMergeIncomplete) = true := by decide +kernel
/-- With `K` 10 nine candidates remain, b4 before b5, and the result is short. -/
theorem test_short_result : (let m := (mergeStep true 10 [selectOf true 10 rank0, selectOf true 10 rank1, selectOf true 10 rank2] 0).1
    m.entries.map (·.id) == [0x11, 0x21, 0x12, 0x13, 0x23, 0x31, 0x15, 0x24, 0x25] && m.tieSpill == 0 && !m.dupShort && statusOf 10 m == stShort) = true := by decide +kernel
/-- Table 12-13: 10 bytes a slot, 131,072 bytes of burst, messages of 4,096 bytes, full at slot 0. `FULL_AT` rounds up at each message (log 23). -/
def shaped (rate burst : Nat) : W64 := BitVec.ofNat 64 (rate + 2 ^ 32 * burst)
def flowAt (k : Nat) : Flow := (List.range k).foldl (fun f _ => flowSend (shaped 0xA00 131072) 0 f (256 * 4096)) { owner := 1, cls := 4, link := 12 }
theorem test_shaper : (flowReady (shaped 0xA00 131072) 1 (flowAt 31) (256 * 4096) && !flowReady (shaped 0xA00 131072) 409 (flowAt 32) (256 * 4096) && flowReady (shaped 0xA00 131072) 410 (flowAt 32) (256 * 4096) &&
    !flowReady (shaped 0xA00 131072) 819 (flowAt 33) (256 * 4096) && flowReady (shaped 0xA00 131072) 820 (flowAt 33) (256 * 4096)) = true := by decide +kernel
/-- The worked example of chapter 08: a million occurrences of weight 0.1 sum to 100,000.0. -/
theorem test_weight_sum : rneMag (1000000 * mag32 0x3DCCCCCD) 1 = 0x47C35000 := by decide +kernel
/-- Table 13-11: reset D leaves three in the window and the partition resumes; reset E is the fourth and withdraws it. -/
def weighed (at_ : Nat) (hist : List (Nat × Nat)) : Node :=
  partitionResetEnd 0 { node := now, ptn := Vector.replicate 8 (some now) } (modP 0 (fun x => { x with st := .resetting, hist := hist, run := some { kind := 1, trigger := at_, at_ := at_, counted := true } }) upNode)
theorem test_window : ((getP (weighed 270000000000 [(180000000000, 21), (108000000000, 21), (90000000000, 9)]) 0).inWindow == 3 && (getP (weighed 270000000000 [(180000000000, 21), (108000000000, 21), (90000000000, 9)]) 0).st == .inService) = true := by decide +kernel
theorem test_withdrawal : ((getP (weighed 287999999999 [(270000000000, 4), (180000000000, 22), (108000000000, 21), (90000000000, 9)]) 0).inWindow == 4 && (getP (weighed 287999999999 [(270000000000, 4), (180000000000, 22), (108000000000, 21), (90000000000, 9)]) 0).st == .withdrawn &&
    (getP (weighed 288000000000 [(270000000000, 4), (180000000000, 22), (108000000000, 21), (90000000000, 9)]) 0).inWindow == 3) = true := by decide +kernel
end Sys2Proof.Tests
end

section
/-! Proofs for chapter 00: the bits of fields and of register writes, the host's memory, the node's identity and the shares in 256ths. -/

namespace Sys2Proof.Machine

/-! ### Bit fields -/

theorem getLsbD_fmask (lo len i : Nat) : (fmask lo len).getLsbD i = (decide (i < 64) && (decide (lo ≤ i) && decide (i < lo + len))) := by
  simp only [fmask, BitVec.getLsbD_ofNat, Nat.testBit_mul_two_pow, Nat.testBit_two_pow_sub_one]
  grind
/-- The mask of a single bit. -/
theorem getLsbD_fmask_one {b i : Nat} (h : i < 64) : (fmask b 1).getLsbD i = decide (i = b) := by
  rw [getLsbD_fmask]; grind
theorem getLsbD_put (w : W64) (lo len v i : Nat) :
    (put w lo len v).getLsbD i = if i < 64 ∧ lo ≤ i ∧ i < lo + len then v.testBit (i - lo) else w.getLsbD i := by
  simp only [put, BitVec.getLsbD_or, BitVec.getLsbD_and, BitVec.getLsbD_not, getLsbD_fmask, BitVec.getLsbD_ofNat, Nat.testBit_mul_two_pow, Nat.testBit_mod_two_pow]
  by_cases hi : i < 64
  · grind
  · simp [hi, BitVec.getLsbD_of_ge w i (by omega)]
theorem testBit_fld (w : W64) (lo len i : Nat) : (fld w lo len).testBit i = (decide (i < len) && w.getLsbD (lo + i)) := by
  simp [fld, Nat.testBit_mod_two_pow, BitVec.getLsbD]
/-- A field is given by its own bits. -/
theorem fld_congr {a b : W64} {lo len : Nat} (h : ∀ i, lo ≤ i → i < lo + len → a.getLsbD i = b.getLsbD i) : fld a lo len = fld b lo len := by
  refine Nat.eq_of_testBit_eq fun i => ?_
  rw [testBit_fld, testBit_fld]
  by_cases hi : i < len
  · rw [h (lo + i) (by omega) (by omega)]
  · simp [hi]
theorem fld_put_same (w : W64) {lo len : Nat} (v : Nat) (h : lo + len ≤ 64) : fld (put w lo len v) lo len = v % 2 ^ len := by
  refine Nat.eq_of_testBit_eq fun i => ?_
  rw [testBit_fld, getLsbD_put, Nat.testBit_mod_two_pow]
  grind
theorem fld_put_disjoint (w : W64) {lo len lo' len' : Nat} (v : Nat) (h : lo + len ≤ lo' ∨ lo' + len' ≤ lo) : fld (put w lo' len' v) lo len = fld w lo len :=
  fld_congr fun i _ _ => by rw [getLsbD_put, if_neg (by omega)]

/-! ### Shares in 256ths (R368) -/

theorem in256_lt (part whole : Nat) : in256 part whole < 256 := by
  unfold in256; split <;> omega
theorem in256_eq {part whole : Nat} (h : 0 < whole) : in256 part whole = min 255 (256 * part / whole) := if_neg (by omega)
theorem in256_full {part whole : Nat} (h : 0 < whole) (hp : 255 * whole ≤ 256 * part) : in256 part whole = 255 := by
  have := (Nat.le_div_iff_mul_le h).2 hp
  rw [in256_eq h]; omega
theorem in256_zero_iff {part whole : Nat} (h : 0 < whole) : in256 part whole = 0 ↔ 256 * part < whole := by
  have hq : 256 * part / whole = 0 ↔ 256 * part < whole := Nat.div_eq_zero_iff_lt h
  rw [in256_eq h, ← hq]; omega

/-! ### Reads (R235) -/

/-- A read of BAR2 while the node answers. -/
theorem readReg_bar2 {s : State} {f : Nat} (off : Nat) (hr : reach s.node = true) (he : (getFn s.node f).enabled = true) :
    readReg f .bar2 off s = readBar2 s.clk s.node f off := by
  simp [readReg, hr, he]
theorem readBar2_collState {clk : Clock} {n : Node} (f : Nat) {c : Nat} (ha : aonOnly n = false) (hc : c < 2048) : readBar2 clk n f (0x40100 + 8 * c) = collState n f c := by
  have hslot : (0x40100 + 8 * c - 0x40100) / 8 = c := by omega
  simp (disch := omega) only [readBar2, Bool.and_eq_true, decide_eq_true_eq, if_neg, if_pos, ha, hslot, Bool.false_eq_true, if_false]
/-- The physical function reads the page of a partition that exists. -/
theorem readBar2_ptn {clk : Clock} {n : Node} {p o : Nat} (ha : aonOnly n = false) (hp : p < 8) (ho : o < 0x1000) (hs : (getP n p).st ≠ .absent) :
    readBar2 clk n 0 (0x50000 + 0x1000 * p + o) = readPtn clk n p o := by
  have hpage : (0x50000 + 0x1000 * p + o - 0x50000) / 0x1000 = p := by omega
  have hoff : (0x50000 + 0x1000 * p + o) % 0x1000 = o := by omega
  simp (disch := omega) only [readBar2, Bool.and_eq_true, decide_eq_true_eq, if_neg, if_pos, ha, hpage, hoff, Bool.false_eq_true, if_false]
  simp [hs]
theorem readPtn_tblState (clk : Clock) (n : Node) (p : Nat) {t : Nat} (ht : t < 64) : readPtn clk n p (0x200 + 8 * t) = tblState (getP n p) t := by
  have hslot : (0x200 + 8 * t - 0x200) / 8 = t := by omega
  simp (disch := omega) only [readPtn, Bool.and_eq_true, decide_eq_true_eq, if_neg, if_pos, hslot]
theorem readBar2_cartState {clk : Clock} {n : Node} {i : Nat} (ha : aonOnly n = false) (hi : i < 4) : readBar2 clk n 0 (0x70040 + 8 * i) = cartState n i := by
  have hslot : (0x70040 + 8 * i - 0x70040) / 8 = i := by omega
  simp (disch := omega) only [readBar2, readFls, Bool.and_eq_true, decide_eq_true_eq, if_neg, if_pos, ha, hslot, Bool.false_eq_true, if_false, beq_self_eq_true, if_true]
/-- Table 3-12: `SAP_FILL`. -/
theorem collState_sapFill {n : Node} {p c : Nat} {y : Coll} (hc : c < 256) (hy : mget (getP n p).colls c = some y) :
    fld (collState n 0 (256 * p + c)) 24 8 = in256 (usedChunks (getP n p)).length (poolSize (getP n p)) := by
  have hp : (256 * p + c) / 256 = p := by omega
  have hs : (256 * p + c) % 256 = c := by omega
  simp [collState, hp, hs, hy, word, fld_put_disjoint, fld_put_same, in256_lt]
/-- Table 8-7: `HOT_FILL`. -/
theorem tblState_hotFill {x : Ptn} {t : Nat} {y : Tbl} (hy : mget x.tbls t = some y) : fld (tblState x t) 24 8 = in256 y.dir.length y.hotRows := by
  simp [tblState, hy, word, fld_put_disjoint, fld_put_same, in256_lt]
/-- Table 10-10: `BUF_FILL`. -/
theorem cartState_bufFill (n : Node) (i : Nat) : fld (cartState n i) 40 8 = in256 (onebitFill n i) (onebitLimit n) := by
  simp [cartState, word, fld_put_disjoint, fld_put_same, in256_lt]
/-- Table 10-10: `FREE`. -/
theorem cartState_free {n : Node} {i : Nat} (h : (getCart n i).serves = true) : fld (cartState n i) 32 8 = in256 (cartBlocks - reservedOn n (getCart n i).serial) cartBlocks := by
  simp [cartState, h, word, fld_put_disjoint, fld_put_same, in256_lt]

/-- Settles O18: each field is cut out of its register's word. -/
theorem sharesReadIn256ths : Obligations.SharesReadIn256ths := by
  refine ⟨fun _ _ h => ⟨in256_eq h, in256_full h, in256_zero_iff h⟩, ?_, ?_, ?_⟩
  · intro p c s y hr he ha hp hc hy
    rw [readReg_bar2 _ hr he, readBar2_collState 0 ha (by omega), collState_sapFill hc hy]
  · intro p t s y hr he ha hp ht hs hy
    have hoff : 0x50200 + 0x1000 * p + 8 * t = 0x50000 + 0x1000 * p + (0x200 + 8 * t) := by omega
    rw [readReg_bar2 _ hr he, hoff, readBar2_ptn ha hp (by omega) hs, readPtn_tblState _ _ _ ht, tblState_hotFill hy]
  · intro i s hr he ha hi
    rw [readReg_bar2 _ hr he, readBar2_cartState ha hi]
    exact ⟨cartState_bufFill _ _, cartState_free⟩

/-! ### Writes (R6, R7, Table 0-4) -/

/-- A write holds nothing outside the bits that it covers. -/
theorem wval_and_wmask (w : Width) (v : W64) : wval w v &&& wmask w = wval w v := by
  cases w with
  | full => exact BitVec.and_allOnes
  | lo => simp [wval, wmask, BitVec.and_assoc]
  | hi =>
    have hmask : wmask .hi = fmask 32 32 := by decide
    refine BitVec.eq_of_getLsbD_eq fun i hi => ?_
    rw [hmask, BitVec.getLsbD_and, getLsbD_fmask, wval, BitVec.getLsbD_shiftLeft]
    grind
theorem getLsbD_wval_of_not_wmask {w : Width} {v : W64} {i : Nat} (h : (wmask w).getLsbD i = false) : (wval w v).getLsbD i = false := by
  rw [← wval_and_wmask, BitVec.getLsbD_and, h, Bool.and_false]
/-- A covered bit takes the written value, every other bit stays. -/
theorem getLsbD_merged (w : Width) (v cur : W64) (i : Nat) : (merged w v cur).getLsbD i = if (wmask w).getLsbD i then (wval w v).getLsbD i else cur.getLsbD i := by
  by_cases hi : i < 64
  · simp only [merged, BitVec.getLsbD_or, BitVec.getLsbD_and, BitVec.getLsbD_not, hi, decide_true, Bool.true_and]
    cases h : (wmask w).getLsbD i with
    | false => simp [getLsbD_wval_of_not_wmask h]
    | true => simp
  · simp [BitVec.getLsbD_of_ge _ _ (show 64 ≤ i by omega)]
theorem getLsbD_w1c (w : Width) (v mask cur : W64) (i : Nat) : (w1c w v mask cur).getLsbD i = (cur.getLsbD i && !((wval w v).getLsbD i && mask.getLsbD i)) := by
  by_cases hi : i < 64
  · simp [w1c, hi]
  · simp [BitVec.getLsbD_of_ge _ _ (show 64 ≤ i by omega)]
theorem cfgWrite_noSession (w : Width) (v rw : W64) (err : Nat) (ok : W64 → Bool) (cur : W64) : cfgWrite false w v rw err ok cur = w1c w v (fmask err 1) cur := rfl
/-- What a write of a register with RWS fields `rw` and `CFG_ERR` at `err` would leave, its range apart. -/
def afterWrite (w : Width) (v rw : W64) (err : Nat) (cur : W64) : W64 := (w1c w v (fmask err 1) cur &&& ~~~rw) ||| (merged w v cur &&& rw)
theorem cfgWrite_session (w : Width) (v rw : W64) (err : Nat) (ok : W64 → Bool) (cur : W64) :
    cfgWrite true w v rw err ok cur = if ok (afterWrite w v rw err cur) then afterWrite w v rw err cur else put cur err 1 1 := rfl
theorem getLsbD_afterWrite_rw (w : Width) (v : W64) {rw : W64} (err : Nat) (cur : W64) {i : Nat} (h : rw.getLsbD i = true) :
    (afterWrite w v rw err cur).getLsbD i = if (wmask w).getLsbD i then (wval w v).getLsbD i else cur.getLsbD i := by
  rw [← getLsbD_merged]; simp [afterWrite, h]
theorem getLsbD_afterWrite_other (w : Width) (v : W64) {rw : W64} (err : Nat) (cur : W64) {i : Nat} (h : rw.getLsbD i = false) :
    (afterWrite w v rw err cur).getLsbD i = (w1c w v (fmask err 1) cur).getLsbD i := by
  by_cases hi : i < 64
  · simp only [afterWrite, BitVec.getLsbD_or, BitVec.getLsbD_and, BitVec.getLsbD_not, h, hi]; simp
  · simp [BitVec.getLsbD_of_ge _ _ (show 64 ≤ i by omega)]
/-- Outside `CFG_ERR` the W1C part of a write changes nothing. -/
theorem getLsbD_w1c_ne (w : Width) (v cur : W64) {err i : Nat} (h : i ≠ err) : (w1c w v (fmask err 1) cur).getLsbD i = cur.getLsbD i := by
  by_cases hi : i < 64
  · rw [getLsbD_w1c, getLsbD_fmask_one hi]; simp [h]
  · simp [BitVec.getLsbD_of_ge _ _ (show 64 ≤ i by omega)]
theorem getLsbD_put_one_self (cur : W64) {err : Nat} (h : err < 64) : (put cur err 1 1).getLsbD err = true := by
  simp [getLsbD_put, h]
theorem getLsbD_put_one_ne (cur : W64) (v : Nat) {err i : Nat} (h : i ≠ err) : (put cur err 1 v).getLsbD i = cur.getLsbD i := by
  rw [getLsbD_put, if_neg (by omega)]

/-- Settles O19: with a session the value that is checked is `afterWrite`, whose bits are said one by one. -/
theorem registerWritesFollowTheirAccessCodes : Obligations.RegisterWritesFollowTheirAccessCodes := by
  intro w v rw cur err ok herr hrw
  refine ⟨fun i hi => ?_, ?_, afterWrite w v rw err cur, fun i hi => ?_, fun h => ?_, fun h => ?_, getLsbD_put_one_self cur herr, fun i hi => getLsbD_put_one_ne cur 1 hi⟩
  · rw [cfgWrite_noSession, getLsbD_w1c_ne w v cur hi]
  · rw [cfgWrite_noSession, getLsbD_w1c, getLsbD_fmask_one herr]; simp
  · cases h : rw.getLsbD i with
    | true => simpa using getLsbD_afterWrite_rw w v err cur h
    | false => simpa using (getLsbD_afterWrite_other w v err cur h).trans (getLsbD_w1c_ne w v cur hi)
  · rw [cfgWrite_session, if_pos h]
  · rw [cfgWrite_session, if_neg (by simp [h])]

/-! ### Sets that win over clearing (R8) -/

theorem exec_registerWrite (e : Env) (f : Nat) (bar : Bar) (off : Nat) (w : Width) (v : W64) (s : State) :
    exec (.registerWrite e f bar off w v) s = .next (endsWith e s (registerWrite f bar off w v (clkOf e s) (nodeOf e s))) := aon_ok
/-- A write of BAR2 while the whole node answers. -/
theorem registerWrite_bar2 {f off : Nat} (w : Width) (v : W64) (clk : Clock) {n : Node} (hr : reach n = true) (ha : aonOnly n = false) (he : (getFn n f).enabled = true) (ho : off % 8 = 0) :
    registerWrite f .bar2 off w v clk n = writeBar2 f off w (afterSets (setNow f off n) w v) clk n := by
  simp [registerWrite, hr, ha, he, ho]
/-- A write that lies in the page of a partition that exists, by the physical function or by the partition's own. -/
theorem writeBar2_ptn {f p o : Nat} (w : Width) (v : W64) (clk : Clock) {n : Node} (hp : p < 8) (ho : o < 0x1000) (hs : (getP n p).st ≠ .absent) (hf : f = 0 ∨ (getFn n f).map = some p) :
    writeBar2 f (0x50000 + 0x1000 * p + o) w v clk n = writePtn (f == 0) p (inSession f n) o w v clk n := by
  have hpage : (0x50000 + 0x1000 * p + o - 0x50000) / 0x1000 = p := by omega
  have hoff : (0x50000 + 0x1000 * p + o) % 0x1000 = o := by omega
  have hmine : ((getP n p).st == .absent || !(f == 0 || (getFn n f).map == some p)) = false := by simpa [hs, Classical.or_iff_not_imp_left] using hf
  simp (disch := omega) only [writeBar2, Bool.and_eq_true, decide_eq_true_eq, if_neg, if_pos, hpage, hoff, hmine, Bool.false_eq_true, if_false, inSession]
theorem writePtn_wdCfg (pf : Bool) (p : Nat) (ses : Bool) (w : Width) (v : W64) (clk : Clock) (n : Node) :
    writePtn pf p ses 0x508 w v clk n = cfgReg (0x50508 + 0x1000 * p) ses w v (fmask 0 32) 32 wdOk (getP n p).wdCfg (fun c => modP p (fun y => { y with wdCfg := c })) n := by
  have hoff : 0x50508 + 0x1000 * p = 0x50000 + 0x1000 * p + 0x508 := by omega
  rw [hoff]; rfl
/-- `UNCAPPABLE` is a W1C bit. -/
theorem writeBar2_limiter (w : Width) (v : W64) (clk : Clock) (n : Node) :
    writeBar2 0 0x80020 w v clk n = modPwr (fun x => { x with uncapp := x.uncapp && !bit (wval w v) 12 }) n := rfl

/-! The notes of R8. -/

theorem setNow_nil {f off : Nat} {n : Node} (h : n.pwr.w1cSets = []) : setNow f off n = 0 := by rw [setNow, h]; rfl
theorem afterSets_zero (w : Width) (v : W64) : afterSets 0 w v = v := by
  cases w <;> exact BitVec.and_allOnes
/-- A bit that the fold over the notes has found stays found. -/
theorem getLsbD_foldl_notes (k b : Nat) : ∀ (l : List (Nat × Nat)) (m : W64), b < 64 → (m.getLsbD b = true ∨ (k, b) ∈ l) →
    (l.foldl (fun m x => if x.1 = k then m ||| fmask x.2 1 else m) m).getLsbD b = true
  | [], _, _, h => by simpa using h
  | (k', b') :: l, m, hb, h => by
    refine getLsbD_foldl_notes k b l _ hb ?_
    rcases h with h | h
    · left; dsimp only; split <;> simp [h]
    · rcases List.mem_cons.1 h with h | h
      · obtain ⟨rfl, rfl⟩ := Prod.mk.inj h
        left; simp only [if_true, BitVec.getLsbD_or, getLsbD_fmask_one hb]; simp
      · exact .inr h
theorem getLsbD_setNow (f : Nat) {off b : Nat} {n : Node} (hoff : off ≠ 0x10000) (hb : b < 64) (h : (off, b) ∈ n.pwr.w1cSets) : (setNow f off n).getLsbD b = true := by
  rw [setNow, if_neg hoff]
  exact getLsbD_foldl_notes off b _ 0 hb (.inr h)
/-- What is written once the sets have won holds 0 at each bit noted, whatever its width. -/
theorem getLsbD_wval_afterSets {m : W64} {b : Nat} (w : Width) (v : W64) (h : m.getLsbD b = true) : (wval w (afterSets m w v)).getLsbD b = false := by
  cases w with
  | full => simp [wval, afterSets, h]
  | lo => simp [wval, afterSets, h]
  | hi =>
    by_cases hb : 32 ≤ b
    · have hshift : (m >>> 32).getLsbD (b - 32) = true := by rw [BitVec.getLsbD_ushiftRight]; simpa [Nat.add_sub_of_le hb] using h
      simp [wval, afterSets, hshift]
    · simp [wval, show b < 32 by omega]

/-! A `CFG_ERR`, set or cleared. -/

theorem mem_w1cSets_noteSet (off b : Nat) (n : Node) : (off, b) ∈ (noteSet off b n).pwr.w1cSets := by
  show (off, b) ∈ (if n.pwr.w1cSets.contains (off, b) then n.pwr.w1cSets else n.pwr.w1cSets ++ [(off, b)])
  split
  · rename_i h; simpa using h
  · simp
@[simp] theorem getP_noteSet (off b : Nat) (n : Node) (p : Nat) : getP (noteSet off b n) p = getP n p := rfl
/-- A register in a partition holds what `cfgWrite` leaves. -/
theorem getP_cfgReg_modP {off : Nat} {ses : Bool} {w : Width} {v rw : W64} {err : Nat} {ok : W64 → Bool} {cur : W64} {p : Nat} (g : W64 → Ptn → Ptn) (n : Node) (hp : p < 8) :
    getP (cfgReg off ses w v rw err ok cur (fun c => modP p (g c)) n) p = g (cfgWrite ses w v rw err ok cur) (getP n p) := by
  unfold cfgReg
  dsimp only
  split
  · rw [getP_noteSet, getP_modP_self n _ hp]
  · exact getP_modP_self n _ hp
/-- A write out of range within a session is noted. -/
theorem cfgReg_bad {off : Nat} {w : Width} {v rw : W64} {err : Nat} {ok : W64 → Bool} {cur : W64} (upd : W64 → Node → Node) (n : Node) (h : ok (afterWrite w v rw err cur) = false) :
    cfgReg off true w v rw err ok cur upd n = noteSet off err (upd (put cur err 1 1) n) := by
  have hok : (true && !ok ((w1c w v (fmask err 1) cur &&& ~~~rw) ||| (merged w v cur &&& rw))) = true := by rw [Bool.true_and, ← afterWrite, h, Bool.not_false]
  rw [cfgReg, hok, cfgWrite_session, h]; rfl
/-- A `CFG_ERR` that the write does not hold as 1 stays set. -/
theorem getLsbD_cfgWrite_err {w : Width} {v rw : W64} {err : Nat} (ses : Bool) (ok : W64 → Bool) {cur : W64} (herr : err < 64) (hrw : rw.getLsbD err = false) (hc : cur.getLsbD err = true)
    (hv : (wval w v).getLsbD err = false) : (cfgWrite ses w v rw err ok cur).getLsbD err = true := by
  have hkeep : (w1c w v (fmask err 1) cur).getLsbD err = true := by rw [getLsbD_w1c, hc, hv]; rfl
  cases ses with
  | false => exact hkeep
  | true =>
    rw [cfgWrite_session]
    split
    · rw [getLsbD_afterWrite_other w v err cur hrw, hkeep]
    · exact getLsbD_put_one_self cur herr
/-- The range of `PTN_WD_CFG` looks at the low half alone. -/
theorem wdOk_congr {a b : W64} (h : ∀ i, i < 32 → a.getLsbD i = b.getLsbD i) : wdOk a = wdOk b := by
  unfold wdOk
  rw [fld_congr fun i _ _ => h i (by omega), fld_congr (a := a) (lo := 16) fun i _ _ => h i (by omega), fld_congr (a := a) (lo := 0) fun i _ _ => h i (by omega)]
theorem wdOk_afterWrite (w : Width) (v cur : W64) : wdOk (afterWrite w v (fmask 0 32) 32 cur) = wdOk (merged w v cur) := by
  refine wdOk_congr fun i hi => ?_
  rw [getLsbD_afterWrite_rw w v 32 cur (by rw [getLsbD_fmask]; grind), getLsbD_merged]
theorem tick_w1cSets (clk : Clock) {d : Nat} (n : Node) (h : d ≠ 0) : (tick clk d n).pwr.w1cSets = [] := if_neg h

/-- The write of a partition's `PTN_WD_CFG` by the physical function. -/
theorem registerWrite_wdCfg {p : Nat} (w : Width) (v : W64) (clk : Clock) {n : Node} (hr : reach n = true) (ha : aonOnly n = false) (he : (getFn n 0).enabled = true) (hp : p < 8) (hs : (getP n p).st ≠ .absent) :
    registerWrite 0 .bar2 (0x50508 + 0x1000 * p) w v clk n =
      cfgReg (0x50508 + 0x1000 * p) (inSession 0 n) w (afterSets (setNow 0 (0x50508 + 0x1000 * p) n) w v) (fmask 0 32) 32 wdOk (getP n p).wdCfg (fun c => modP p (fun y => { y with wdCfg := c })) n := by
  have hoff : 0x50508 + 0x1000 * p = 0x50000 + 0x1000 * p + 0x508 := by omega
  rw [registerWrite_bar2 w v clk hr ha he (by omega), ← writePtn_wdCfg (0 == 0), hoff, writeBar2_ptn w _ clk hp (by omega) hs (.inl rfl)]

/-- Settles O20: the note of a set takes its bit out of what the write clears. -/
theorem setsWinOverClearing : Obligations.SetsWinOverClearing := by
  refine ⟨?_, ?_, ?_, ?_⟩
  · intro e p w v s hb hses hp hs hbad
    simp only [onBus, Bool.and_eq_true, Bool.not_eq_true', List.isEmpty_iff] at hb
    obtain ⟨⟨⟨hr, ha⟩, he⟩, hnone⟩ := hb
    refine ⟨_, exec_registerWrite .., ?_⟩
    show _ ∈ (registerWrite ..).pwr.w1cSets ∧ (getP (registerWrite ..) p).wdCfg.getLsbD 32 = true
    rw [registerWrite_wdCfg w v _ hr ha he hp hs, setNow_nil hnone, afterSets_zero, hses, cfgReg_bad _ _ (by rw [wdOk_afterWrite, hbad])]
    refine ⟨mem_w1cSets_noteSet _ _ _, ?_⟩
    rw [getP_noteSet, getP_modP_self _ _ hp]
    exact getLsbD_put_one_self _ (by omega)
  · intro e p w v s hr ha he hp hs hset herr
    refine ⟨_, exec_registerWrite .., ?_⟩
    show (getP (registerWrite ..) p).wdCfg.getLsbD 32 = true
    rw [registerWrite_wdCfg w v _ hr ha he hp hs, getP_cfgReg_modP _ _ hp]
    exact getLsbD_cfgWrite_err _ _ (by omega) (by rw [getLsbD_fmask]; rfl) herr (getLsbD_wval_afterSets w v (getLsbD_setNow 0 (by omega) (by omega) hset))
  · intro e w v s hr ha he hset hun
    refine ⟨_, exec_registerWrite .., ?_⟩
    show (registerWrite ..).pwr.uncapp = true
    rw [registerWrite_bar2 w v _ hr ha he rfl, writeBar2_limiter, modPwr_pwr]
    have hbit : bit (wval w _) 12 = false := getLsbD_wval_afterSets w v (getLsbD_setNow 0 (by omega) (by omega) hset)
    simp [hun, hbit]
  · intro e s h
    exact tick_w1cSets _ _ (by omega)

/-! ### The identity of the node (R2, Table 0-2) -/

/-- `NODE_ID` is read-only: no block has a register to write there. -/
theorem writeBar2_nodeId (f : Nat) (w : Width) (v : W64) (clk : Clock) (n : Node) : writeBar2 f 0 w v clk n = n := by
  show (if !(f == 0) then n else n) = n
  exact ite_self n
theorem registerWrite_nodeId {f : Nat} {w : Width} {v : W64} {clk : Clock} {n : Node} (ha : aonOnly n = false) : registerWrite f .bar2 0 w v clk n = n := by
  by_cases h : reach n = true ∧ (getFn n f).enabled = true
  · rw [registerWrite_bar2 w v clk h.1 ha h.2 rfl, writeBar2_nodeId]
  · rw [registerWrite, if_pos (by grind)]

/-- Settles O17: the read is a constant of the table, and the write meets no register. -/
theorem nodeIdReadsAsTheTableGives : Obligations.NodeIdReadsAsTheTableGives := by
  refine ⟨fun f s hr he => ?_, fun e f w v s ha => ?_⟩
  · have hid : readReg f .bar2 0 s = 0xBE5A0760B10A0000 := readReg_bar2 0 hr he
    rw [hid]
    decide
  · rw [exec_registerWrite, registerWrite_nodeId ha]

/-! ### The host's memory (R5, log 4) -/

/-- Bytes written to memory leave every byte outside them. -/
theorem Mem.read_writeN_outside : ∀ (bs : List Byte) (m : Mem) (a k : Nat), Mem.wf m = true → (k < a ∨ a + bs.length ≤ k) → Mem.read (Mem.writeN m a bs) k = Mem.read m k
  | [], _, _, _, _, _ => rfl
  | b :: bs, m, a, k, h, hk => by
    rw [List.length_cons] at hk
    rw [Mem.writeN, Mem.read_writeN_outside bs _ (a + 1) k (Mem.write_wf m a b h) (by omega), Mem.read_write m a k b h, if_neg (by omega)]
theorem Mem.readN_succ (m : Mem) (a n : Nat) : Mem.readN m a (n + 1) = Mem.read m a :: Mem.readN m (a + 1) n := by
  simp [Mem.readN, List.range_succ_eq_map, Nat.add_assoc, Nat.add_comm 1]
/-- Bytes written to memory read back. -/
theorem Mem.readN_writeN : ∀ (bs : List Byte) (m : Mem) (a : Nat), Mem.wf m = true → Mem.readN (Mem.writeN m a bs) a bs.length = bs
  | [], _, _, _ => rfl
  | b :: bs, m, a, h => by
    have hw := Mem.write_wf m a b h
    rw [List.length_cons, Mem.readN_succ, Mem.writeN, Mem.readN_writeN bs _ (a + 1) hw, Mem.read_writeN_outside bs _ (a + 1) a hw (by omega), Mem.read_write m a a b h, if_pos rfl]

/-- Settles O60, by induction on the bytes written. -/
theorem hostMemoryReadsBack : Obligations.HostMemoryReadsBack :=
  fun m a k bs h => ⟨Mem.readN_writeN bs m a h, Mem.read_writeN_outside bs m a k h⟩

/-- However the counters are corrected, a step's stores and the node's writes keep the canonical form. -/
theorem runClk_memWf (fix : Clock → Node → Clock) (e : Env) (body : Clock → Mem → Node → Node) {s : State} (h : s.memWf = true) : (runClk fix e body s).memWf = true :=
  deliver_wf _ _ (storeAll_wf e.host s.host h)
theorem exec_memWf (c : Instr) {s t : State} (h : s.memWf = true) (ht : exec c s = .next t) : t.memWf = true := by
  obtain ⟨e, body, hx | hx⟩ := exec_shape c s <;>
  · obtain rfl := Host.Outcome.next.inj (hx.symm.trans ht)
    exact runClk_memWf _ e body h

/-- Settles O5: every command's step is made by `runClk` (`exec_shape`), and idling changes nothing. -/
theorem hostMemoryStaysCanonical : Obligations.HostMemoryStaysCanonical := by
  intro s t h ht
  unfold step at ht
  split at ht
  case h_1 => exact Host.Outcome.next.inj ht ▸ h
  case h_2 c rest _ => exact exec_memWf c (s := { s with pending := rest }) h ht

end Sys2Proof.Machine
end

section
/-! Proofs for chapter 01: the counters (R18, R19), the reset pins (R352 to R358), and lanes, cores and banks that spares replace (R12 to R15, R301 to R305). -/

namespace Sys2Proof.Machine

/-! ### The counters (R18, R19) -/

/-- Settles O6: each part of the reset state is a constant. -/
theorem resetMeetsTheInvariants : Obligations.ResetMeetsTheInvariants := by
  unfold Obligations.ResetMeetsTheInvariants
  refine ⟨?_, ?_, rfl⟩ <;> decide

/-- A command that starts nothing over leaves the counters as time has moved them. -/
theorem exec_clk {c : Instr} {s t : State} (hc : startsOver c = false) (ht : exec c s = .next t) : ∃ e, t.clk = clkOf e s := by
  have hrun : ∃ e body, exec c s = .next (runClk (fun clk _ => clk) e body s) := by
    cases c with
    | perstNAssert | perstNDeassert | powerLoss | nodeSectionApplied | trialTimeout | rootPllRelock => cases hc
    | modelLoad e ph => cases ph <;> exact ⟨e, _, rfl⟩
    | _ => exact ⟨_, _, rfl⟩
  obtain ⟨e, body, hx⟩ := hrun
  obtain rfl := Host.Outcome.next.inj (hx.symm.trans ht)
  exact ⟨e, rfl⟩
/-- Time moves every counter on by one number of cycles, which is 0 while `PERST_N` is asserted. -/
theorem advance_adds (n : Node) (c : Clock) (dt : Nat) : ∃ d, (c.advance n dt).node = c.node + d ∧ (c.advance n dt).ptn = c.ptn.map (fun o => o.map (· + d)) := by
  unfold Clock.advance
  split
  · exact ⟨0, rfl, by simp⟩
  · exact ⟨_, rfl, rfl⟩

/-- Settles O7: the counters of such a command are those of `Clock.advance`. -/
theorem countersAreMonotonic : Obligations.CountersAreMonotonic := by
  intro c s t hc ht
  obtain ⟨e, he⟩ := exec_clk hc ht
  rw [he]
  exact advance_adds s.node s.clk e.dt

/-! ### Reset pins (R352 to R358) and the boot ROM's choice (R28, R30) -/

theorem exec_perstNAssert (e : Env) (s : State) : exec (.perstNAssert e) s = .next (endsBoot e s (perstAssert (nodeOf e s))) := rfl
theorem exec_powerLoss (e : Env) (s : State) : exec (.powerLoss e) s = .next (endsBoot e s (powerLoss (nodeOf e s))) := rfl
/-- The counters stand at zero where a command leaves `PERST_N` asserted, and the node's runs on elsewhere. -/
theorem bootFix_asserted {c : Clock} {n : Node} (h : n.pins.perst = false) : bootFix c n = {} := if_pos (by rw [h]; rfl)
theorem bootFix_node {c : Clock} {n : Node} (h : n.pins.perst = true) : (bootFix c n).node = c.node := by rw [bootFix, h]; rfl

/-- The directory's slot is tried where no trial waits. -/
theorem chooseSlot_active {clk : Clock} {n : Node} (hs : n.pins.straps.getLsbD 2 = false) (hf : n.bflash.suitable = true) (ht : n.bflash.trial = none) :
    chooseSlot clk n = { n with boot := { n.boot with step := 1, bootAt := clk.node, trySlot := n.bflash.active } } := by
  simp only [chooseSlot, modBoot_pins, modBoot_bflash, hs, hf, ht, Bool.not_true, Bool.false_eq_true, if_false]
  rfl
/-- A trial's slot is tried once its flag is cleared. -/
theorem chooseSlot_trial {clk : Clock} {n : Node} {k : Nat} (hs : n.pins.straps.getLsbD 2 = false) (hf : n.bflash.suitable = true) (ht : n.bflash.trial = some k) :
    chooseSlot clk n = { n with boot := { n.boot with step := 1, bootAt := clk.node, trySlot := k, isTrial := true }, bflash := { n.bflash with trial := none } } := by
  simp only [chooseSlot, modBoot_pins, modBoot_bflash, hs, hf, ht, Bool.not_true, Bool.false_eq_true, if_false]
  rfl
/-- Strap 2 asks for recovery mode. -/
theorem chooseSlot_recovery {clk : Clock} {n : Node} (hs : n.pins.straps.getLsbD 2 = true) :
    chooseSlot clk n = enterRecovery (modBoot (fun b => { b with step := 1, bootAt := clk.node }) n) := by
  simp only [chooseSlot, modBoot_pins, hs, if_true]
/-- The node as the boot ROM finds it at the rise of `PERST_N`: straps sampled, clocks up, rail 3 enabled. -/
def released (straps : BitVec 4) (clk : Clock) (n : Node) : Node :=
  { n with pins := { n.pins with perst := true, straps := straps, thermtrip := true, pwrOffOk := true, vrEn := 8, vrAt := clk.node }, pwr := { n.pwr with refOk := true, rootLock := true } }
theorem exec_perstNDeassert {e : Env} {straps : BitVec 4} {s : State} {n : Node} (hp : (nodeOf e s).pins.perst = false) (hs : straps.getLsbD 3 = false)
    (hn : chooseSlot (clkOf e s) (released straps (clkOf e s) (nodeOf e s)) = n) : exec (.perstNDeassert e straps) s = .next (endsBoot e s n) := by
  have hboot : perstDeassert straps (clkOf e s) (nodeOf e s) = n := by
    simp only [perstDeassert, hp, hs, Bool.false_eq_true, if_false]
    exact hn
  rw [← hboot]
  rfl
/-- A relock while the node stands still, untripped and powered, boots it anew. -/
theorem exec_rootPllRelock {e : Env} {s : State} {n : Node} (hp : (nodeOf e s).pins.perst = true) (hst : (nodeOf e s).boot.stopped = true) (hl : (nodeOf e s).pwr.rootLock = false)
    (ht : (nodeOf e s).pins.thermtrip = true) (hv : (nodeOf e s).pins.vrEn ≠ 0) (hn : chooseSlot (clkOf e s) (modPwr (fun w => { w with rootLock := true }) (nodeReset false (nodeOf e s))) = n) :
    exec (.rootPllRelock e) s = .next (endsBoot e s n) := by
  have hboot : rootRelock (clkOf e s) (nodeOf e s) = n := by
    rw [rootRelock, if_neg (by simpa [hp, hst, hl, ht] using hv), hn]
  rw [← hboot]
  rfl

/-- Settles O28: what a node reset keeps and what the boot ROM chooses, case by case of the directory and the straps. -/
theorem resetPinsComplete : Obligations.ResetPinsComplete := by
  refine ⟨?_, ?_, ?_, ?_, ?_, ?_⟩
  · intro e s
    exact ⟨_, exec_perstNAssert e s, bootFix_asserted (c := clkOf e s) (n := perstAssert (nodeOf e s)) rfl, rfl, rfl, rfl, rfl, rfl, rfl, rfl, rfl, rfl, rfl, rfl, rfl, rfl, rfl, rfl, rfl⟩
  · intro e straps s hp h3 h2 hf ht
    exact ⟨_, exec_perstNDeassert hp h3 (chooseSlot_active h2 hf ht), rfl, rfl, rfl, rfl, rfl, rfl, rfl, rfl, rfl⟩
  · intro e straps k s hp h3 h2 hf ht
    exact ⟨_, exec_perstNDeassert hp h3 (chooseSlot_trial h2 hf ht), rfl, rfl, rfl, rfl⟩
  · intro e straps s hp h3 h2
    exact ⟨_, exec_perstNDeassert hp h3 (chooseSlot_recovery h2), rfl, congrArg Fn.enabled (getFn_modFn_self _ _ (by omega)), rfl⟩
  · intro e s
    exact ⟨_, exec_powerLoss e s, bootFix_asserted (c := clkOf e s) (n := powerLoss (nodeOf e s)) rfl, rfl, rfl, rfl, rfl, rfl, rfl, rfl⟩
  · intro e s hp hst hl hth hv h2 hf ht
    exact ⟨_, exec_rootPllRelock hp hst hl hth hv (chooseSlot_active h2 hf ht), bootFix_node hp, rfl, rfl, rfl, rfl, rfl, rfl⟩

/-! ### A step from what its body does -/

theorem run_to {e : Env} {s : State} {b : Clock → Mem → Node → Node} {n : Node} (ha : alive (nodeOf e s) = true) (hb : b (clkOf e s) (hostOf e s) (nodeOf e s) = n) :
    run e b s = .next (endsWith e s n) := hb ▸ run_ok ha
/-- The same for a host command that its row takes. -/
theorem host_to {r : Row} {mine chk ptn job} {q : QRef} {e : Env} {s : State} {t x n m} (ht : Taken r mine chk ptn q e s t x n) (hj : job (clkOf e s) (hostOf e s) t x n = m) :
    run e (hostCmd r mine chk ptn job q) s = .next (endsWith e s m) := hj ▸ host_ok ht

/-! ### Lanes (R12, R13) -/

/-- Two changes of a slot that agree on what it holds are one change. -/
theorem vmod_congr {α : Type} [Inhabited α] {n : Nat} {v : Vector α n} {i : Nat} {f g : α → α} (h : f (vget v i) = g (vget v i)) : vmod v i f = vmod v i g := by
  unfold vmod
  split
  · rename_i hi
    have hv : vget v i = v[i] := by simp [vget, hi]
    rw [← hv, h]
  · rfl
theorem modCore_congr {i : Nat} {n : Node} {f g : PCore → PCore} (h : f (vget n.cores i) = g (vget n.cores i)) : modCore i f n = modCore i g n := by
  unfold modCore
  rw [vmod_congr h]
/-- A lane's failure is recorded with the core and in the repair map, and reported. -/
def noteLane (core slice lane : Nat) (clk : Clock) (n : Node) : Node :=
  let c := vget n.cores core
  spareCore clk (if c.ptn < 8 then c.ptn else 0) spLane (core + 256 * slice + 65536 * lane) c.lcore core { modCore core (fun c => { c with lanes := c.lanes ++ [(slice, lane)] }) n with
    bflash := { n.bflash with map := { n.bflash.map with lanes := n.bflash.map.lanes ++ [(core, slice, lane)] } } }
/-- A failure that is new is recorded, and takes the core out where its slice has lost a lane before. -/
theorem laneFailure_new {core slice lane : Nat} {n : Node} (clk : Clock) (hc : core < 68) (hs : slice < 8) (hl : lane < 17) (hnew : (slice, lane) ∉ (vget n.cores core).lanes) :
    laneFailure core slice lane clk n = if (vget n.cores core).lanes.any (fun l => l.1 == slice) then loseCore clk core (noteLane core slice lane clk n) else noteLane core slice lane clk n := by
  rw [laneFailure, if_neg (by simp [hc, hs, hl, hnew])]
  rfl
theorem loseCore_inService {clk : Clock} {pc : Nat} {n : Node} (h : (vget n.cores pc).st = .inService) : loseCore clk pc n = (startSwap clk pc none n).getD (retireCore pc n) := by
  simp only [loseCore, h]
theorem loseCore_spare {clk : Clock} {pc : Nat} {n : Node} (h : (vget n.cores pc).st = .spare) : loseCore clk pc n = retireCore pc n := by
  simp only [loseCore, h]

/-! ### Core swaps (R15, R301) -/

/-- Errors of a core in use are counted, and start a swap where 64 of a core in service lie in its window. -/
theorem coreSwap_counts {pc : Nat} {ages : List Nat} {clk : Clock} {n m : Node} (hpc : pc < 68) (hst : (vget n.cores pc).st ≠ .retired) (hm : addErrors clk pc ages n = m) :
    coreSwap pc ages clk n = if (vget m.cores pc).st = .inService ∧ 64 ≤ ceInWindow m clk (vget m.cores pc) then (startSwap clk pc none m).getD m else m := by
  subst hm
  rw [coreSwap, if_neg (by simp [hst]; omega)]
  simp
/-- The node after the start of a swap of core `pc` for spare `k`. -/
def swapped (clk : Clock) (pc k : Nat) (t : Option Tok) (n : Node) : Node :=
  let c := vget n.cores pc
  modCore k (fun s => { s with st := .filling, ptn := c.ptn, lcore := c.lcore, peer := pc })
    (modCore pc (fun s => { s with st := .draining, peer := k, since := clk.node, restarted := false, tok := t }) (recordRepair (mapRetire pc k) n))
theorem startSwap_spare {clk : Clock} {pc k : Nat} {t : Option Tok} {n : Node} (h : pickSpare n pc = some k) : startSwap clk pc t n = some (swapped clk pc k t n) := by
  rw [startSwap, h]; rfl
theorem swapped_draining (clk : Clock) {pc k : Nat} (t : Option Tok) (n : Node) (hk : k ≠ pc) (hpc : pc < 68) :
    vget (swapped clk pc k t n).cores pc = { vget n.cores pc with st := .draining, peer := k, since := clk.node, restarted := false, tok := t } :=
  (vget_vmod_ne _ _ hk).trans (vget_vmod_self _ _ hpc)
theorem swapped_filling (clk : Clock) {pc k : Nat} (t : Option Tok) (n : Node) (hk : k ≠ pc) (hk68 : k < 68) :
    vget (swapped clk pc k t n).cores k = { vget n.cores k with st := .filling, ptn := (vget n.cores pc).ptn, lcore := (vget n.cores pc).lcore, peer := pc } := by
  refine (vget_vmod_self _ _ hk68).trans ?_
  rw [modCore_cores, vget_vmod_ne _ _ hk.symm]
  rfl

/-! ### Banks and `SPARE_ENGAGE` (R302, R304) -/

theorem bankSpare_due {ch pos : Nat} {clk : Clock} {n : Node} (hch : ch < 128) (hpos : pos < 32) (hs : (vget n.mem.chans ch).spare = false) (hc : (vget n.mem.chans ch).copying = none)
    (hd : bankDue clk (vget n.mem.chans ch) pos = true) : bankSpare ch pos clk n = modChan ch (fun c => { c with copying := some (pos, none) }) n := by
  have hg : (decide (128 ≤ ch) || decide (32 ≤ pos)) = false := by simp; omega
  simp [bankSpare, hg, hs, hc, hd]
/-- The node once the spare stands at bank `pos` of its channel, and the repair map says so. -/
def bankMoved (ch pos : Nat) (n : Node) : Node :=
  recordRepair (fun m => { m with banks := m.banks ++ [(ch, pos)], rows := m.rows.filter (fun r => !(r.1 == ch && r.2.1 == pos)) })
    (modChan ch (fun c => { c with copying := none, spare := true, rowsUsed := mdel c.rowsUsed pos, ueRows := c.ueRows.filter (fun r => r.1 != pos), ceRows := c.ceRows.filter (fun r => r.1 != pos) }) n)
/-- The report, the attention and the completion that follow leave memory and boot flash as they are. -/
theorem bankCutover_copied {ch pos : Nat} {t : Option Tok} (clk : Clock) {n : Node} (hch : ch < 128) (hc : (vget n.mem.chans ch).copying = some (pos, t)) :
    (bankCutover ch clk n).mem = (bankMoved ch pos n).mem ∧ (bankCutover ch clk n).bflash = (bankMoved ch pos n).bflash := by
  simp only [bankCutover, hc, if_neg (show ¬128 ≤ ch by omega), postO_mem, postO_bflash, apply_ite Node.mem, apply_ite Node.bflash, ite_self, raiseAt_mem, raiseAt_bflash, spareRecord, addFault_mem, addFault_bflash]
  exact ⟨rfl, rfl⟩
theorem bankMoved_chan {ch : Nat} (pos : Nat) (n : Node) (h : ch < 128) : (vget (bankMoved ch pos n).mem.chans ch).spare = true ∧ (vget (bankMoved ch pos n).mem.chans ch).copying = none := by
  have hchan := vget_vmod_self n.mem.chans (fun c => { c with copying := none, spare := true, rowsUsed := mdel c.rowsUsed pos, ueRows := c.ueRows.filter (fun r => r.1 != pos), ceRows := c.ceRows.filter (fun r => r.1 != pos) }) h
  exact ⟨congrArg Chan.spare hchan, congrArg Chan.copying hchan⟩
theorem mem_bankMoved_banks (ch pos : Nat) (n : Node) : (ch, pos) ∈ (bankMoved ch pos n).bflash.map.banks := List.mem_append_right _ (List.mem_singleton_self _)

theorem spareEngage_bank {clk : Clock} {host : Mem} {t : Tok} {x : Sqe} {n : Node} (hx : x.arg0 = 1) (hc : (vget n.mem.chans (x.arg1 % 128)).copying = none) (hs : (vget n.mem.chans (x.arg1 % 128)).spare = false) :
    spareEngage clk host t x n = modChan (x.arg1 % 128) (fun c => { c with copying := some (x.arg1 / 256, some t) }) n := by
  simp [spareEngage, hx, hc, hs]
theorem spareEngage_core {clk : Clock} {host : Mem} {t : Tok} {x : Sqe} {n : Node} {pc : Nat} (hx : x.arg0 = 0)
    (hf : (List.range 68).find? (fun i => (vget n.cores i).lcore == x.arg1 && (vget n.cores i).st != .retired) = some pc) (hst : (vget n.cores pc).st = .inService) :
    spareEngage clk host t x n = (startSwap clk pc (some t) n).getD (post clk t stNoSpace 0 n) := by
  simp only [spareEngage, hx, if_true, hf, hst]
  cases startSwap clk pc (some t) n <;> rfl

/-- Settles O35: one clause each for lanes, core swaps, their cutover, `SPARE_ENGAGE` and banks. -/
theorem sparesComeIn : Obligations.SparesComeIn := by
  refine ⟨?_, ?_, ?_, ?_, ?_, ?_, ?_, ?_, ?_⟩
  · rintro e core slice lane s c ha hc hs hl rfl hnone
    have hlanes : modCore core (fun c => { c with lanes := [(slice, lane)] }) (nodeOf e s) = modCore core (fun c => { c with lanes := c.lanes ++ [(slice, lane)] }) (nodeOf e s) :=
      modCore_congr (by rw [hnone]; rfl)
    rw [hlanes]
    refine run_to ha ?_
    rw [laneFailure_new _ hc hs hl (by simp [hnone]), if_neg (by simp [hnone])]
    rfl
  · rintro e core slice lane s c m ha hc hs hl rfl hnew hsecond hm
    have hlose : laneFailure core slice lane (clkOf e s) (nodeOf e s) = loseCore (clkOf e s) core m := by
      rw [laneFailure_new _ hc hs hl hnew, if_pos (by simpa using hsecond)]
      exact congrArg (loseCore (clkOf e s) core) hm
    refine ⟨fun z hst hz => run_to ha ?_, fun hst hz => run_to ha ?_, fun hst => run_to ha ?_⟩
    · rw [hlose, loseCore_inService hst, hz, Option.getD_some]
    · rw [hlose, loseCore_inService hst, hz, Option.getD_none]
    · rw [hlose, loseCore_spare hst]
  · rintro e pc ages s n c ha hpc hst hn rfl
    have hcounts := coreSwap_counts hpc hst hn
    refine ⟨fun hfew => run_to ha ?_, fun k hin hmany hpick hk hk68 => ?_⟩
    · rw [hcounts, if_neg (by grind)]
    · rw [if_pos ⟨hin, hmany⟩, startSwap_spare hpick, Option.getD_some] at hcounts
      have hold := swapped_draining (clkOf e s) none n hk hpc
      have hnew := swapped_filling (clkOf e s) none n hk hk68
      exact ⟨_, run_to ha hcounts, congrArg PCore.st hold, congrArg PCore.peer hold, congrArg PCore.st hnew, (congrArg PCore.lcore hnew).trans rfl, (congrArg PCore.ptn hnew).trans rfl, hn ▸ rfl⟩
  · intro e pc s ha hpc hst hre hdue
    refine run_to ha ?_
    rw [blockRestart, if_neg (by simp [hst, hre]; omega)]
  · rintro e pc s c ha hpc rfl hst hpeer
    refine run_to ha ?_
    rw [swapCutover, if_neg (by simp [hst]; omega)]
    rfl
  · intro e q s t x n ht hx hc hs
    exact host_to ht (spareEngage_bank hx hc hs)
  · intro e q s t x n m pc ht hx hf hst
    have hjob := spareEngage_core (clk := clkOf e s) (host := hostOf e s) (t := t) hx hf hst
    refine ⟨fun hz => host_to ht ?_, fun hz => host_to ht ?_⟩
    · rw [hjob, hz, Option.getD_some]
    · rw [hjob, hz, Option.getD_none]
  · rintro e ch pos s c ha hch hpos rfl hs hc hd
    exact run_to ha (bankSpare_due hch hpos hs hc hd)
  · intro e ch pos t s ha hch hc
    obtain ⟨hmem, hflash⟩ := bankCutover_copied (clkOf e s) hch hc
    refine ⟨_, run_ok ha, ?_⟩
    rw [endsWith_node, hmem, hflash]
    obtain ⟨hspare, hdone⟩ := bankMoved_chan pos (nodeOf e s) hch
    exact ⟨hspare, hdone, mem_bankMoved_banks ch pos _⟩

end Sys2Proof.Machine
end

section
/-! Proofs for chapter 02: the boot steps of Table 2-6 and the trial of an image (R24 to R31, R33, R39). -/

namespace Sys2Proof.Machine

/-! ### Arrays and lists -/

theorem vget_mapIdx {α β : Type} [Inhabited α] [Inhabited β] {n : Nat} (v : Vector α n) (f : Nat → α → β) {i : Nat} (h : i < n) : vget (v.mapIdx f) i = f i (vget v i) := by
  simp [vget, h]
theorem mem_nubNat {k : Nat} {l : List Nat} : k ∈ nubNat l ↔ k ∈ l := by
  have hfold : ∀ (l acc : List Nat), k ∈ l.foldl (fun acc x => if acc.contains x then acc else acc ++ [x]) acc ↔ k ∈ acc ∨ k ∈ l := by
    intro l
    induction l with
    | nil => simp
    | cons x xs ih =>
      intro acc
      rw [List.foldl_cons, ih]
      split
      · rename_i hx
        have : x ∈ acc := by simpa using hx
        grind
      · simp [or_assoc]
  simpa [nubNat] using hfold l []

/-! ### The host link and the image (R24 to R31) -/

/-- A host link that trains is noted. -/
def linkNoted (rate width : Nat) (n : Node) : Node := modBoot (fun b => { b with hostUp := true, linkRate := rate, linkWidth := width }) n
theorem hostLinkUp_notes {rate width : Nat} {n : Node} (h1 : 1 ≤ rate) (h5 : rate ≤ 5) (hw : width ∈ [1, 2, 4, 8, 16]) :
    hostLinkUp rate width n = if n.boot.step = 0 || n.pins.vrPg != 31 then linkNoted rate width n else toStep 2 (linkNoted rate width n) := by
  have hw : [1, 2, 4, 8, 16].contains width = true := List.contains_iff_mem.mpr hw
  rw [hostLinkUp, hw, if_neg (by simp [inR, h1, h5])]
  rfl
theorem imageReadDone_first {n : Node} (hb : booting n = true) (hpg : n.pins.vrPg = 31) (hr : n.boot.imgRead = false) :
    imageReadDone n = modBoot (fun b => { b with imgRead := true, step := max b.step 3 }) n := if_pos (by simp [hb, hpg, hr])
theorem imageVerified_passes {n : Node} (hb : booting n = true) (hr : n.boot.imgRead = true) (hc : n.bflash.ctrAuth = true) (hok : checkImage n.bflash.counter (imgSlot n n.boot.trySlot).image = 0) :
    imageVerified n = modBoot (fun b => { b with image := (imgSlot n n.boot.trySlot).image, slot := b.trySlot, mode := if b.isTrial then 2 else 0, step := max b.step 4 }) n := by
  simp only [imageVerified, hb, hr, hc, hok, Bool.not_true, Bool.or_self, Bool.false_eq_true, if_false, if_true]
  rfl
/-- The node after a slot's image has failed its check: the reason is recorded, and no trial goes on. -/
def slotFailed (n : Node) : Node :=
  modBoot (fun b => { b with tried := b.tried ++ [n.boot.trySlot], isTrial := false, imgRead := false })
    (recordFail n.boot.trySlot (checkImage n.bflash.counter (imgSlot n n.boot.trySlot).image) n)
theorem imageVerified_fails {n : Node} (hb : booting n = true) (hr : n.boot.imgRead = true) (hc : n.bflash.ctrAuth = true) (hbad : checkImage n.bflash.counter (imgSlot n n.boot.trySlot).image ≠ 0) :
    imageVerified n = if 1 - n.boot.trySlot ∈ n.boot.tried then enterRecovery (slotFailed n) else modBoot (fun b => { b with trySlot := 1 - n.boot.trySlot }) (slotFailed n) := by
  simp only [imageVerified, hb, hr, hc, hbad, Bool.not_true, Bool.or_self, Bool.false_eq_true, if_false, List.contains_iff_mem]
  rfl
/-- A recorded reason leaves the slot that is tried and the image as they are. -/
theorem recordFail_boot (slot reason : Nat) (n : Node) : (recordFail slot reason n).boot.trySlot = n.boot.trySlot ∧ (recordFail slot reason n).boot.image = n.boot.image := by
  simp only [recordFail, modBoot_boot]
  split <;> exact ⟨rfl, rfl⟩
/-- The other slot is tried where it has not been. -/
theorem imageVerified_retries {n : Node} (hb : booting n = true) (hr : n.boot.imgRead = true) (hc : n.bflash.ctrAuth = true) (hbad : checkImage n.bflash.counter (imgSlot n n.boot.trySlot).image ≠ 0)
    (ho : 1 - n.boot.trySlot ∉ n.boot.tried) :
    imageVerified n = modBoot (fun b => { b with tried := b.tried ++ [b.trySlot], isTrial := false, imgRead := false, trySlot := 1 - b.trySlot })
      (recordFail n.boot.trySlot (checkImage n.bflash.counter (imgSlot n n.boot.trySlot).image) n) := by
  rw [imageVerified_fails hb hr hc hbad, if_neg ho]
  obtain ⟨htry, -⟩ := recordFail_boot n.boot.trySlot (checkImage n.bflash.counter (imgSlot n n.boot.trySlot).image) n
  simp only [slotFailed, modBoot, htry]
theorem imageVerified_recovers {n : Node} (hb : booting n = true) (hr : n.boot.imgRead = true) (hc : n.bflash.ctrAuth = true) (hbad : checkImage n.bflash.counter (imgSlot n n.boot.trySlot).image ≠ 0)
    (ho : 1 - n.boot.trySlot ∈ n.boot.tried) : imageVerified n = enterRecovery (slotFailed n) := (imageVerified_fails hb hr hc hbad).trans (if_pos ho)
theorem slotFailed_image (n : Node) : (slotFailed n).boot.image = n.boot.image := (recordFail_boot _ _ n).2
theorem enterRecovery_enabled (n : Node) : (getFn (enterRecovery n) 0).enabled = true := congrArg Fn.enabled (getFn_modFn_self _ _ (by omega))
/-- While the node tries a slot it runs no image. -/
theorem booting_image {n : Node} (h : booting n = true) : n.boot.image = none := by
  simp only [booting, Bool.and_eq_true, Option.isNone_iff_eq_none] at h
  exact h.2
theorem repairMapApplied_first {n : Node} (hi : n.boot.image.isSome = true) (hm : n.boot.mapRead = false) :
    repairMapApplied n = toStep 5 (bindLinks (bindMem (modBoot (fun b => { b with mapRead := true, mapGood := n.bflash.mapAuth, running := if n.bflash.mapAuth then n.bflash.map else {} }) n))) :=
  if_neg (by simp [hm, Option.isSome_iff_ne_none.mp hi])

/-! ### The node section (R25, Table 2-6) -/

/-- The partitions of the map serve with the entry's cores, stacks and threads. -/
theorem getP_applyNode_valid {clk : Clock} {i : Image} {n : Node} {p : Nat} {x : PtnEntry} (hp : p < 8) (hx : i.node.map[p]? = some x) (hv : x.valid = true) :
    getP (applyNode clk i n) p = { getP n p with ent := x, st := .inService, share := x.threads, epochAt := clk.node } := by
  unfold getP applyNode
  simp only [modLnk_ptns]
  rw [foldNode_inv Node.ptns _ (qosImage i.node.qos) (fun _ _ => rfl), modMem_ptns]
  refine (vget_mapIdx _ _ hp).trans ?_
  simp [hx, hv]
theorem getP_applyNode_absent {clk : Clock} {i : Image} {n : Node} {p : Nat} (hp : p < 8) (hx : ∀ x, i.node.map[p]? = some x → x.valid = false) :
    getP (applyNode clk i n) p = { getP n p with ent := {}, st := .absent } := by
  unfold getP applyNode
  simp only [modLnk_ptns]
  rw [foldNode_inv Node.ptns _ (qosImage i.node.qos) (fun _ _ => rfl), modMem_ptns]
  refine (vget_mapIdx _ _ hp).trans (if_neg ?_)
  cases hm : i.node.map[p]? with
  | none => simp
  | some x => simp [hx x hm]
theorem enabled_applyNode {clk : Clock} {i : Image} {n : Node} {f : Nat} (hf : f < 64) :
    (getFn (applyNode clk i n) f).enabled = decide (f ≤ min (min 63 i.node.totalVfs) i.node.numVfs) := by
  unfold getFn applyNode
  simp only [modLnk_fns]
  rw [foldNode_inv Node.fns _ (qosImage i.node.qos) (fun _ _ => rfl), modMem_fns]
  exact congrArg Fn.enabled (vget_mapIdx _ _ hf)
theorem applyNode_boot (clk : Clock) (i : Image) (n : Node) : (applyNode clk i n).boot = n.boot := by
  unfold applyNode
  simp only [modLnk_boot]
  rw [foldNode_inv Node.boot _ (qosImage i.node.qos) (fun _ _ => rfl), modMem_boot]
theorem applyNode_pins (clk : Clock) (i : Image) (n : Node) : (applyNode clk i n).pins = n.pins := by
  unfold applyNode
  simp only [modLnk_pins]
  rw [foldNode_inv Node.pins _ (qosImage i.node.qos) (fun _ _ => rfl), modMem_pins]

/-- What the clause on the node section speaks of: the boot, the pins, the partitions and which functions are enabled. -/
def bootView (n : Node) : Boot × Pins × Vector Ptn 8 × (Nat → Bool) := (n.boot, n.pins, n.ptns, fun f => (getFn n f).enabled)
theorem bootView_eq_iff {n m : Node} : bootView n = bootView m ↔ n.boot = m.boot ∧ n.pins = m.pins ∧ n.ptns = m.ptns ∧ ∀ f, (getFn n f).enabled = (getFn m f).enabled := by
  simp only [bootView, Prod.mk.injEq, funext_iff]
theorem bootView_raiseAt (code f : Nat) (n : Node) : bootView (raiseAt code f n) = bootView n := by
  have henabled : (fun k => (getFn (raiseAt code f n) k).enabled) = fun k => (getFn n k).enabled := by
    funext k
    unfold getFn
    rw [raiseAt_fns, vget_vmod]
    split <;> rfl
  simp only [bootView, henabled, raiseAt_boot, raiseAt_pins, raiseAt_ptns]
theorem bootView_settleLink (l : Nat) (n : Node) : bootView (settleLink l n) = bootView n := by
  unfold settleLink
  dsimp only
  split
  · rfl
  · split
    · rfl
    · exact bootView_raiseAt _ _ _
theorem bootView_startTrain (clk : Clock) (l : Nat) (n : Node) : bootView (startTrain clk l n) = bootView n := bootView_settleLink l _
/-- The links that train, and the cores that are bound, change nothing of it. -/
theorem bootView_nodeSectionApplied {clk : Clock} {i : Image} {n : Node} (hi : n.boot.image = some i) (hm : n.boot.mapRead = true) (h6 : n.boot.step < 6) :
    bootView (nodeSectionApplied clk n) = bootView (toStep 6 (applyNode clk i n)) := by
  have hbind : ∀ m : Node, bootView (toStep 6 (if m.boot.mapGood then bindCores m else m)) = bootView (toStep 6 m) := by
    intro m
    split <;> rfl
  have htrain : ∀ (l : Nat) (m : Node), bootView (if (getL m l).enable then startTrain clk l m else m) = bootView m := by
    intro l m
    split
    · exact bootView_startTrain clk l m
    · rfl
  simp only [nodeSectionApplied, hi]
  rw [if_neg (by simp [hm]; omega), foldNode_inv bootView _ _ htrain, hbind]

theorem nodeSectionApplied_step {clk : Clock} {i : Image} {n : Node} (hi : n.boot.image = some i) (hm : n.boot.mapRead = true) (h6 : n.boot.step < 6) :
    (nodeSectionApplied clk n).boot.step = 6 := by
  obtain ⟨hboot, -, -, -⟩ := bootView_eq_iff.mp (bootView_nodeSectionApplied (clk := clk) hi hm h6)
  rw [hboot, toStep, modBoot_boot, applyNode_boot]
  exact Nat.max_eq_right (by omega)
theorem nodeSectionApplied_pins {clk : Clock} {i : Image} {n : Node} (hi : n.boot.image = some i) (hm : n.boot.mapRead = true) (h6 : n.boot.step < 6) :
    (nodeSectionApplied clk n).pins = n.pins := by
  obtain ⟨-, hpins, -, -⟩ := bootView_eq_iff.mp (bootView_nodeSectionApplied (clk := clk) hi hm h6)
  rw [hpins, toStep, modBoot_pins, applyNode_pins]
theorem getP_nodeSectionApplied {clk : Clock} {i : Image} {n : Node} (p : Nat) (hi : n.boot.image = some i) (hm : n.boot.mapRead = true) (h6 : n.boot.step < 6) :
    getP (nodeSectionApplied clk n) p = getP (applyNode clk i n) p := by
  obtain ⟨-, -, hptns, -⟩ := bootView_eq_iff.mp (bootView_nodeSectionApplied (clk := clk) hi hm h6)
  rw [getP, hptns, toStep, modBoot_ptns, getP]
theorem enabled_nodeSectionApplied {clk : Clock} {i : Image} {n : Node} {f : Nat} (hi : n.boot.image = some i) (hm : n.boot.mapRead = true) (h6 : n.boot.step < 6) (hf : f < 64) :
    (getFn (nodeSectionApplied clk n) f).enabled = decide (f ≤ min (min 63 i.node.totalVfs) i.node.numVfs) := by
  obtain ⟨-, -, -, hfns⟩ := bootView_eq_iff.mp (bootView_nodeSectionApplied (clk := clk) hi hm h6)
  rw [hfns, toStep, getFn_modBoot, enabled_applyNode hf]

/-! ### Counters that the image creates (R18) -/

theorem bootFix_ptn {c : Clock} {n : Node} {p : Nat} (hp : p < 8) (h : n.pins.perst = true) :
    vget (bootFix c n).ptn p = if (getP n p).st = .absent then none else some ((vget c.ptn p).getD c.node) := by
  rw [bootFix, if_neg (by simp [h])]
  refine (vget_mapIdx _ _ hp).trans ?_
  simp only [beq_iff_eq]
theorem alive_perst {n : Node} (h : alive n = true) : n.pins.perst = true := ((Bool.and_eq_true _ _).mp h).1
theorem bootUp_ok {e : Env} {s : State} {b : Clock → Node → Node} (ha : alive (nodeOf e s) = true) : runBootUp e b s = .next (endsBoot e s (b (clkOf e s) (nodeOf e s))) := by
  rw [runBootUp, boot_ok, if_pos ha]

/-! ### Training of the memories (R29, R180) and the test of a node without a good map -/

/-- The node once tier 1 is trained. -/
def tier1Up (clk : Clock) (n : Node) : Node := doneStep 7 (modMem (fun m => { m with rsvT1 := 8704, heatAt := clk.node, patrolAt := clk.node, sramAt := clk.node }) n)
theorem tier1Trained_first {clk : Clock} {n : Node} (h6 : 6 ≤ n.boot.step) (h7 : 7 ∉ n.boot.done) :
    tier1Trained clk n = if n.boot.mapGood then tier1Up clk n else modBoot (fun b => { b with testing := true, mode := 3, testAt := clk.node }) (tier1Up clk n) :=
  if_neg (by simp [h7]; omega)
theorem mem_doneStep (k : Nat) (n : Node) : k ∈ (doneStep k n).boot.done := mem_nubNat.mpr List.mem_cons_self
theorem identsDone_t2 (n : Node) : (identsDone n).mem.t2 = n.mem.t2 := by
  unfold identsDone
  split <;> rfl
theorem mem_identsDone {k : Nat} {n : Node} (h : k ∈ n.boot.done) : k ∈ (identsDone n).boot.done := by
  unfold identsDone
  split
  · exact h
  · exact mem_nubNat.mpr (List.mem_cons_of_mem _ h)
/-- Step 0x09 ends with tier 2 where no cartridge is left to identify. -/
theorem nine_mem_identsDone {n : Node} (h8 : 8 ∈ n.boot.done) (hc : ∀ c ∈ n.flash.carts.toList, c.st ≠ .identifying) : 9 ∈ (identsDone n).boot.done := by
  by_cases h9 : 9 ∈ n.boot.done
  · exact mem_identsDone h9
  · have hguard : (!n.boot.done.contains 8 || n.boot.done.contains 9 || n.flash.carts.toList.any (fun c => c.st == .identifying)) = false := by
      simp only [Bool.or_eq_false_iff, List.any_eq_false, beq_iff_eq]
      exact ⟨⟨by simpa using h8, by simpa using h9⟩, hc⟩
    rw [identsDone, hguard]
    exact mem_nubNat.mpr List.mem_cons_self
/-- A channel of tier 2 as its DIMM leaves it (R180). -/
def fitted (d : Dimm) (x : T2) : T2 := match d with
  | .empty => { x with st := 0, gib := 0 }
  | .failed g => { x with st := 2, gib := g }
  | .active g => { x with st := 1, gib := g }
/-- The node with tier 2 trained on the DIMMs `ds`. -/
def tier2Up (ds : List Dimm) (n : Node) : Node := doneStep 8 (modMem (fun m => { m with t2 := m.t2.mapIdx (fun c x => fitted (ds.getD c .empty) x) }) n)
theorem tier2Trained_first {ds : List Dimm} {n : Node} (h6 : 6 ≤ n.boot.step) (h8 : 8 ∉ n.boot.done) : tier2Trained ds n = identsDone (tier2Up ds n) := by
  rw [tier2Trained, if_neg (by simp [h8]; omega)]
  rfl
theorem vget_tier2Up {ds : List Dimm} {n : Node} {c : Nat} (hc : c < 12) : vget (tier2Up ds n).mem.t2 c = fitted (ds.getD c .empty) (vget n.mem.t2 c) := vget_mapIdx n.mem.t2 _ hc
theorem tier2Up_active {ds : List Dimm} {n : Node} {c g : Nat} (hc : c < 12) (hg : ds[c]? = some (.active g)) : (vget (tier2Up ds n).mem.t2 c).st = 1 ∧ (vget (tier2Up ds n).mem.t2 c).gib = g := by
  rw [vget_tier2Up hc, List.getD_eq_getElem?_getD, hg]
  exact ⟨rfl, rfl⟩
theorem tier2Up_empty {ds : List Dimm} {n : Node} {c : Nat} (hc : c < 12) (hlen : ds.length ≤ c) : (vget (tier2Up ds n).mem.t2 c).st = 0 := by
  rw [vget_tier2Up hc, List.getD_eq_getElem?_getD, List.getElem?_eq_none hlen]
  rfl
/-- The node once the test has ended: what it found is the map, bound and written. -/
def testEnded (found : RepairMap) (clk : Clock) (n : Node) : Node :=
  bindCores (bindLinks (bindMem (noteSet 0x1000 48 (modBoot (fun b => { b with
    testing := false, mapGood := true, rebuilt := true, running := rebuiltMap found, mode := if b.isTrial then 2 else 0, testCyc := b.testCyc + (clk.node - b.testAt) })
    { n with bflash := { n.bflash with map := rebuiltMap found, mapAuth := true } }))))
theorem repairTestEnd_testing {found : RepairMap} {clk : Clock} {n : Node} (h : n.boot.testing = true) : repairTestEnd found clk n = testEnded found clk n :=
  if_neg (by simp [h])

/-! ### READY (R24, R39): the sections come into force, and objects are made for them -/

/-- What READY sets, and the making of objects keeps: the boot, and the section of partition `q` with the slot it came from. -/
def sectionView (q : Nat) (n : Node) : Boot × Option PtnSection × Nat := (n.boot, (getP n q).sec, (getP n q).srcSlot)

theorem sectionView_modP {p q : Nat} {g : Ptn → Ptn} (n : Node) (hg : ∀ x, (g x).sec = x.sec ∧ (g x).srcSlot = x.srcSlot) : sectionView q (modP p g n) = sectionView q n := by
  simp only [sectionView, getP, modP_boot, modP_ptns, vget_vmod]
  split
  · simp only [(hg _).1, (hg _).2]
  · rfl
theorem sectionView_post (clk : Clock) (t : Tok) (st r q : Nat) (n : Node) : sectionView q (post clk t st r n) = sectionView q n := by
  obtain ⟨i, hi⟩ := getP_post clk t st r q n
  simp only [sectionView, hi, post_boot]
theorem sectionView_raiseAt (code f q : Nat) (n : Node) : sectionView q (raiseAt code f n) = sectionView q n := rfl
theorem sectionView_freeObj (p ob q : Nat) (n : Node) : sectionView q (freeObj p ob n) = sectionView q n := by
  unfold freeObj
  split
  · rfl
  · refine (sectionView_modP _ ?_).trans rfl
    exact fun x => ⟨rfl, rfl⟩
theorem sectionView_movePage (p : Nat) (o : Obj) (i gp tier q : Nat) (n : Node) : sectionView q (movePage p o i gp tier n) = sectionView q n := by
  unfold movePage
  split <;> rfl
theorem sectionView_conform (p ob q : Nat) (n : Node) : sectionView q (conform p ob n) = sectionView q n := by
  unfold conform
  split
  · rfl
  · refine foldNode_inv (sectionView q) _ _ (fun u m => ?_) n
    split
    · split
      · rfl
      · exact sectionView_movePage _ _ _ _ _ _ _
    · rfl
theorem sectionView_settlePols (clk : Clock) (p q : Nat) (n : Node) : sectionView q (settlePols clk p n) = sectionView q n := by
  have hdone : ∀ (c : Tok × Nat) (m : Node), sectionView q (post clk c.1 stSuccess 0 (modP p (fun x => { x with polCmds := x.polCmds.erase c }) (conform p c.2 m))) = sectionView q m := by
    intro c m
    rw [sectionView_post, sectionView_modP, sectionView_conform]
    exact fun x => ⟨rfl, rfl⟩
  refine foldNode_inv (sectionView q) _ _ (fun c m => ?_) n
  dsimp only
  split
  · exact hdone c m
  · split
    · split
      · split
        · exact hdone c m
        · rw [sectionView_post, sectionView_freeObj, hdone]
      · exact hdone c m
    · exact sectionView_conform _ _ _ _
theorem sectionView_dropUses (clk : Clock) (p q : Nat) (f : ObjUse → Bool) (n : Node) : sectionView q (dropUses clk p f n) = sectionView q n := by
  simp only [dropUses]
  split
  · rfl
  · rw [sectionView_settlePols, foldNode_inv (sectionView q) _ (freeObj p) (fun ob m => sectionView_freeObj p ob q m)]
theorem sectionView_allocT2 {p ob q : Nat} {o : Obj} : ∀ (gs : List (Nat × Nat)) {n m : Node}, allocT2 p ob o gs n = some m → sectionView q m = sectionView q n
  | [], n, m, h => by
    obtain rfl := Option.some.inj h
    rfl
  | (i, gp) :: gs, n, m, h => by
    unfold allocT2 at h
    split at h
    · cases h
    · exact (sectionView_allocT2 gs h).trans rfl
theorem sectionView_allocPages {p ob q : Nat} {o : Obj} {gs : List (Nat × Nat)} {n m : Node} (h : allocPages p ob o gs n = some m) : sectionView q m = sectionView q n := by
  unfold allocPages at h
  split at h
  · obtain ⟨ms, -, rfl⟩ := Option.map_eq_some_iff.mp h
    rfl
  · exact sectionView_allocT2 gs h
theorem sectionView_makeObj {p q bytes : Nat} {u : ObjUse} {policy : W64} {n m : Node} (h : makeObj p u policy bytes n = some m) : sectionView q m = sectionView q n := by
  simp only [makeObj] at h
  split at h
  · obtain rfl := Option.some.inj h
    rfl
  · split at h
    · cases h
    · split at h
      · cases h
      · obtain ⟨k, hk, rfl⟩ := Option.map_eq_some_iff.mp h
        refine (sectionView_modP _ ?_).trans (sectionView_allocPages hk)
        exact fun x => ⟨rfl, rfl⟩
theorem sectionView_getD {q : Nat} {n : Node} {o : Option Node} (h : ∀ m, o = some m → sectionView q m = sectionView q n) : sectionView q (o.getD n) = sectionView q n := by
  cases o with
  | none => rfl
  | some m => exact h m rfl
theorem sectionView_makePool (clk : Clock) (p q : Nat) (n : Node) : sectionView q (makePool clk p n) = sectionView q n := by
  simp only [makePool]
  split
  · split
    · rfl
    · rw [sectionView_getD (fun m hm => sectionView_makeObj hm), sectionView_dropUses]
  · exact sectionView_getD (fun m hm => sectionView_makeObj hm)
theorem sectionView_makeTbl {p k q : Nat} {d : Tbl} {n m : Node} (h : makeTbl p k d n = some m) : sectionView q m = sectionView q n := by
  obtain ⟨b, hb, hm⟩ := Option.bind_eq_some_iff.mp h
  obtain ⟨a, ha, hb⟩ := Option.bind_eq_some_iff.mp hb
  exact (sectionView_makeObj hm).trans ((sectionView_makeObj hb).trans (sectionView_makeObj ha))
theorem sectionView_applyPtn (clk : Clock) (p q : Nat) (n : Node) : sectionView q (applyPtn clk p n) = sectionView q n := by
  rw [applyPtn, foldNode_inv (sectionView q) _ _ (fun t m => sectionView_getD (fun k hk => sectionView_makeTbl hk)), sectionView_makePool]

/-- The node at READY, before objects are made: every partition of the map holds its section of the image. -/
def sectionsIn (i : Image) (n : Node) : Node :=
  modBoot (fun b => { b with ready := true, step := 10 }) (identsDone { n with
    ptns := n.ptns.mapIdx (fun p x => if x.st == .absent then x else { x with sec := i.parts.find? (fun s => s.ptn == p), srcSlot := n.boot.slot }) })
theorem sectionView_ready {clk : Clock} {i : Image} {n : Node} (q : Nat) (hi : n.boot.image = some i) (hr : n.boot.ready = false) (h6 : 6 ≤ n.boot.step) (h7 : 7 ∈ n.boot.done) (h8 : 8 ∈ n.boot.done)
    (ht : n.boot.testing = false) (hm : n.boot.mapGood = true) (hc : ∀ c ∈ n.flash.carts.toList, c.st ≠ .identifying) :
    sectionView q (ready clk n) = sectionView q (sectionsIn i n) := by
  have hcarts : n.flash.carts.toList.any (fun c => c.st == .identifying) = false := by
    simp only [List.any_eq_false, beq_iff_eq]
    exact hc
  have happly := fun l => foldNode_inv (sectionView q) l (applyPtn clk) (fun p m => sectionView_applyPtn clk p q m) (sectionsIn i n)
  simp only [ready, hi]
  rw [if_neg (by simp [hr, h7, h8, ht, hm, hcarts]; omega)]
  split
  · exact (sectionView_raiseAt _ _ _ _).trans (happly _)
  · exact happly _
theorem identsDone_ptns (n : Node) : (identsDone n).ptns = n.ptns := by
  unfold identsDone
  split <;> rfl
theorem getP_sectionsIn {i : Image} {n : Node} {p : Nat} (hp : p < 8) (hst : (getP n p).st ≠ .absent) :
    getP (sectionsIn i n) p = { getP n p with sec := i.parts.find? (fun s => s.ptn == p), srcSlot := n.boot.slot } := by
  unfold getP sectionsIn
  rw [modBoot_ptns, identsDone_ptns]
  exact (vget_mapIdx _ _ hp).trans (if_neg (mt beq_iff_eq.mp hst))

/-! ### A trial that is not ready in time (R33) -/

theorem trialTimeout_expires {clk : Clock} {n : Node} (htr : n.boot.isTrial = true) (hr : n.boot.ready = false) (ht : n.boot.testing = false) (hdue : n.boot.bootAt + n.boot.testCyc + 6000000000 ≤ clk.node) :
    trialTimeout clk n = chooseSlot clk (recordFail n.boot.trySlot 0x09 (nodeReset false n)) :=
  if_neg (by simp [htr, hr, ht]; omega)

/-- Settles O30: one clause a boot step; what a step makes is read from the node that its own lemma names. -/
theorem bootProceeds : Obligations.BootProceeds := by
  refine ⟨?_, ?_, ?_, ?_, ?_, ?_, ?_, ?_, ?_, ?_⟩
  · intro e rate width s ha h1 h5 hw
    refine ⟨fun hstep hpg => run_to (e := e) ha ?_, fun hearly => run_to (e := e) ha ?_⟩
    · exact (hostLinkUp_notes h1 h5 hw).trans (if_neg (by simp [hstep, hpg]))
    · exact (hostLinkUp_notes h1 h5 hw).trans (if_pos (by simpa using hearly))
  · intro e s ha hb hpg hr
    exact run_to ha (imageReadDone_first hb hpg hr)
  · intro e s i ha hb hr hc hi
    rw [← hi]
    refine ⟨fun hok => run_to ha (imageVerified_passes hb hr hc hok), fun hbad ho => run_to ha (imageVerified_retries hb hr hc hbad ho), fun hbad ho => ?_⟩
    exact ⟨_, run_to ha (imageVerified_recovers hb hr hc hbad ho), rfl, enterRecovery_enabled _, (slotFailed_image _).trans (booting_image hb)⟩
  · intro e s ha hi hm
    exact run_to ha (repairMapApplied_first hi hm)
  · intro e s i ha hi hm h6
    have hperst : (nodeSectionApplied (clkOf e s) (nodeOf e s)).pins.perst = true := (congrArg Pins.perst (nodeSectionApplied_pins hi hm h6)).trans (alive_perst ha)
    refine ⟨_, bootUp_ok ha, nodeSectionApplied_step hi hm h6, fun p x hp hx hv => ?_, fun p hp hx => ?_, fun f hf => enabled_nodeSectionApplied hi hm h6 hf⟩
    · rw [endsBoot_node, endsBoot_clk, bootFix_ptn hp hperst, getP_nodeSectionApplied p hi hm h6, getP_applyNode_valid hp hx hv]
      exact ⟨rfl, rfl, rfl, rfl⟩
    · rw [endsBoot_node, endsBoot_clk, bootFix_ptn hp hperst, getP_nodeSectionApplied p hi hm h6, getP_applyNode_absent hp hx]
      exact ⟨rfl, rfl⟩
  · intro e s ha h6 h7
    refine ⟨_, run_to ha (tier1Trained_first h6 h7), ?_⟩
    rw [endsWith_node]
    have h7up : 7 ∈ (tier1Up (clkOf e s) (nodeOf e s)).boot.done := mem_doneStep 7 _
    split
    · exact ⟨h7up, rfl, rfl⟩
    · exact ⟨h7up, rfl, rfl⟩
  · intro e ds s ha h6 h8
    refine ⟨_, run_to ha (tier2Trained_first h6 h8), ?_⟩
    rw [endsWith_node, identsDone_t2]
    have h8up : 8 ∈ (tier2Up ds (nodeOf e s)).boot.done := mem_doneStep 8 _
    exact ⟨mem_identsDone h8up, fun c g hc hg => tier2Up_active hc hg, fun c hc hlen => tier2Up_empty hc hlen, fun hcarts => nine_mem_identsDone h8up hcarts⟩
  · intro e m s ha ht
    exact ⟨_, run_to ha (repairTestEnd_testing ht), rfl, rfl, rfl, rfl, rfl, rfl⟩
  · intro e s i ha hi hr h6 h7 h8 ht hm hc
    have hview := fun q => sectionView_ready (clk := clkOf e s) q hi hr h6 h7 h8 ht hm hc
    simp only [sectionView, Prod.mk.injEq] at hview
    refine ⟨_, run_ok ha, ?_, ?_, fun p hp hst => ?_⟩
    · rw [endsWith_node, (hview 0).1]
      rfl
    · rw [endsWith_node, (hview 0).1]
      rfl
    · obtain ⟨-, hsec, hslot⟩ := hview p
      rw [endsWith_node, hsec, hslot, getP_sectionsIn hp hst]
      exact ⟨rfl, rfl⟩
  · intro e s ha htr hr ht hslot hdue hs hf htrial
    have hbody := trialTimeout_expires htr hr ht hdue
    rw [hslot, chooseSlot_active (n := recordFail 1 0x09 (nodeReset false (nodeOf e s))) hs hf htrial] at hbody
    refine ⟨_, bootUp_ok ha, ?_⟩
    rw [endsBoot_node, hbody]
    exact ⟨rfl, rfl, rfl, rfl⟩

end Sys2Proof.Machine
end

section
/-! Proofs for chapter 02: image commands and live loads (R34 to R38), attestation (R40, R41). -/

namespace Sys2Proof.Machine

/-! ### Attestation (R40, R41) -/

theorem spdmGetVersion_up {tr : Transport} {n : Node} (hup : spdmUp n tr = true) :
    spdmGetVersion tr n = answer tr 0x04 [] (modSpdm tr (fun _ => { version := true }) n) := if_pos hup
theorem spdmGetCapabilities_up {tr : Transport} {n : Node} (hup : spdmUp n tr = true) (hv : (getSpdm n tr).version = true) :
    spdmGetCapabilities tr n = answer tr 0x61 [] (modSpdm tr (fun c => { c with caps := true }) n) := by
  simp [spdmGetCapabilities, hup, hv]
/-- RSASSA-PSS 3072 is taken wherever it is offered (log 16). -/
theorem spdmNegotiate_rsa {tr : Transport} {algs : List SigAlg} {n : Node} (hup : spdmUp n tr = true) (hc : (getSpdm n tr).caps = true) (hr : .rsa ∈ algs) :
    spdmNegotiate tr algs n = answer tr 0x63 [1] (modSpdm tr (fun c => { c with alg := some .rsa }) n) := by
  simp [spdmNegotiate, hup, hc, hr]
theorem spdmNegotiate_slh {tr : Transport} {algs : List SigAlg} {n : Node} (hup : spdmUp n tr = true) (hc : (getSpdm n tr).caps = true) (hr : .rsa ∉ algs) (hs : .slh ∈ algs) :
    spdmNegotiate tr algs n = answer tr 0x63 [2] (modSpdm tr (fun c => { c with alg := some .slh }) n) := by
  simp [spdmNegotiate, hup, hc, hr, hs]
theorem spdmGetDigests_up {tr : Transport} {n : Node} (hup : spdmUp n tr = true) (ha : (getSpdm n tr).alg.isSome = true) :
    spdmGetDigests tr n = answer tr 0x01 (sha384 certChain) n := by
  simp [spdmGetDigests, hup, ha]
theorem spdmGetCertificate_up {tr : Transport} {off len : Nat} {n : Node} (hup : spdmUp n tr = true) (ha : (getSpdm n tr).alg.isSome = true) :
    spdmGetCertificate tr off len n = answer tr 0x02 (slice certChain off len) n := by
  simp [spdmGetCertificate, hup, ha]
theorem signed_rsa {tr : Transport} {code : Nat} {content : List Byte} {n : Node} (ha : (getSpdm n tr).alg = some .rsa) :
    signed tr code content n = emit (.spdm tr (Config.spdmBody code content ++ Config.rsaSign (Config.spdmBody code content))) n := by
  simp only [signed, ha]
theorem spdmChallenge_up {tr : Transport} {nonce : List Byte} {n : Node} (hup : spdmUp n tr = true) :
    spdmChallenge tr nonce n = signed tr 0x03 (sha384 certChain ++ nonce) n := if_pos hup
/-- One index of Table 2-14 asks for one measurement. -/
theorem spdmGetMeasurements_one {tr : Transport} {k : Nat} {nonce : List Byte} {n : Node} (hup : spdmUp n tr = true) (h1 : 1 ≤ k) (h12 : k ≤ 12) :
    spdmGetMeasurements tr k nonce n = signed tr 0x60 ([BitVec.ofNat 8 k] ++ measurement n k ++ nonce) n := by
  rw [spdmGetMeasurements, if_neg (by simp [hup]), if_neg (by omega), if_neg (by omega), if_pos h12]

/-- Settles O32: each request's answer where its predecessors have been answered. -/
theorem attestationAnswers : Obligations.AttestationAnswers := by
  intro e tr s ha hup
  refine ⟨run_to ha (spdmGetVersion_up hup), fun hv => run_to ha (spdmGetCapabilities_up hup hv), fun hc algs => ⟨fun hr => run_to ha (spdmNegotiate_rsa hup hc hr), fun hr hs => run_to ha (spdmNegotiate_slh hup hc hr hs)⟩, fun halg => ?_⟩
  have hsome : (getSpdm (nodeOf e s) tr).alg.isSome = true := by rw [halg]; rfl
  refine ⟨run_to ha (spdmGetDigests_up hup hsome), fun off len => run_to ha (spdmGetCertificate_up hup hsome), fun nonce => run_to ha ?_, fun k nonce h1 h12 => run_to ha ?_⟩
  · exact (spdmChallenge_up hup).trans (signed_rsa halg)
  · exact (spdmGetMeasurements_one hup h1 h12).trans (signed_rsa halg)

/-! ### Image commands (R34, R35, R39) -/

theorem imageVerify_passes {clk : Clock} {host : Mem} {t : Tok} {x : Sqe} {n : Node} (hc : n.bflash.ctrAuth = true) (hr : checkImage n.bflash.counter (imgSlot n x.arg0).image = 0) :
    imageVerify clk host t x n = post clk t stSuccess 0 (modSlot x.arg0 (fun k => { k with verified := true, staged := true }) n) := by
  simp [imageVerify, hc, hr]
theorem imageVerify_fails {clk : Clock} {host : Mem} {t : Tok} {x : Sqe} {n : Node} (hc : n.bflash.ctrAuth = true) (hr : checkImage n.bflash.counter (imgSlot n x.arg0).image ≠ 0) :
    imageVerify clk host t x n = post clk t stImageRejected 0 (recordFail x.arg0 (checkImage n.bflash.counter (imgSlot n x.arg0).image) (modSlot x.arg0 (fun k => { k with verified := false, staged := false }) n)) := by
  simp [imageVerify, hc, hr]
theorem imageSelect_verified {clk : Clock} {host : Mem} {t : Tok} {x : Sqe} {n : Node} (hv : (imgSlot n x.arg0).verified = true) :
    imageSelect clk host t x n = post clk t stSuccess 0 { n with bflash := { n.bflash with trial := some x.arg0 } } := if_pos hv
theorem imageSelect_unverified {clk : Clock} {host : Mem} {t : Tok} {x : Sqe} {n : Node} (hv : (imgSlot n x.arg0).verified = false) :
    imageSelect clk host t x n = post clk t stImageRejected 0 n := if_neg (by simp [hv])
theorem imageCommit_running {clk : Clock} {host : Mem} {t : Tok} {x : Sqe} {n : Node} {i : Image} (hi : n.boot.image = some i) :
    imageCommit clk host t x n = post clk t stSuccess 0 { n with
      bflash := { n.bflash with active := n.boot.slot, counter := max n.bflash.counter i.secVer.toNat }
      boot := { n.boot with mode := if n.boot.mode = 2 then 0 else n.boot.mode, isTrial := false } } := by
  simp only [imageCommit, modBoot, hi, Option.map_some, Option.getD_some]

/-! ### Live loads (R36 to R38) -/

/-- A load that is not refused starts at once where no other load is in progress. -/
theorem partitionImageLoad_starts {clk : Clock} {host : Mem} {t : Tok} {x : Sqe} {n : Node} (hv : (imgSlot n x.arg0).verified = true) (hs : (imgSlot n x.arg0).staged = true)
    (hr : loadRefused n x.arg0 ((List.range 8).filter (fun p => x.arg1.testBit p)) = none) (hl : n.boot.liveTok = none) :
    partitionImageLoad clk host t x n = stepLive clk (modBoot (fun b => { b with
      liveTok := some t, liveSlot := x.arg0, liveQ := ((List.range 8).filter (fun p => x.arg1.testBit p)).filterMap (secIn n x.arg0) }) n) := by
  simp [partitionImageLoad, hv, hs, hr, hl]
/-- With nothing left of the partition's commands the section is installed, and fetching resumes. -/
theorem liveLoadDrainEnd_drained {clk : Clock} {p : Nat} {n : Node} {l : Load} (hl : (getP n p).load = some l) (hst : (getP n p).st = .loading) (hrun : (getP n p).run = none) (hd : liveDrained n p = true) :
    liveLoadDrainEnd p clk n = stepLive clk (modP p (fun x => { x with st := .inService, idleFor := 0 }) (installSec clk p l.slot l.sec n)) := by
  simp [liveLoadDrainEnd, hl, hst, hrun, hd]
/-- What still runs at the limit meets a partition reset that installs the section. -/
theorem drainLimit_expires {clk : Clock} {p : Nat} {n : Node} {l : Load} (hl : (getP n p).load = some l) (hst : (getP n p).st = .loading) (hrun : (getP n p).run = none) (hd : liveDrained n p = false)
    (hdue : l.deadline ≤ pctr clk p) :
    drainLimit p clk n = raiseAt attnImage 0 (startReset clk p
      { seq := 0, ctr := 0, kind := fkDrainLimit, d1 := (ioPairs n p).foldl (fun a q => a + q.2.2.cmds.length) 0 } none
      (modP p (fun x => { x with load := some { l with install := true } }) n)) := by
  simp only [drainLimit, hl, hst, hrun, hd]
  rw [if_neg (by simp; omega)]
  rfl

/-- Settles O31: one clause each for the image commands and for the start, the drain and the limit of a live load. -/
theorem imageCommandsComplete : Obligations.ImageCommandsComplete := by
  refine ⟨?_, ?_, ?_, ?_, ?_, ?_, ?_⟩
  · intro e q form s t x n ht
    exact host_to ht rfl
  · intro e q s t x n ht hc
    exact ⟨fun hr => host_to ht (imageVerify_passes hc hr), fun hr => host_to ht (imageVerify_fails hc hr)⟩
  · intro e q s t x n ht
    exact ⟨fun hv => host_to ht (imageSelect_verified hv), fun hv => host_to ht (imageSelect_unverified hv)⟩
  · intro e q s t x n i ht hi
    exact host_to ht (imageCommit_running hi)
  · intro e q s t x n ht hv hs hr hl
    exact host_to ht (partitionImageLoad_starts hv hs hr hl)
  · intro e p s l ha hl hst hrun hd
    exact run_to ha (liveLoadDrainEnd_drained hl hst hrun hd)
  · intro e p s l ha hl hst hrun hd hdue
    exact run_to ha (drainLimit_expires hl hst hrun hd hdue)

end Sys2Proof.Machine
end

section
/-! Proofs for chapter 03: collections, updates, generations and their swaps. -/

namespace Sys2Proof.Machine

/-! ### Collections (R42, R43, R61, R63, R66) -/

/-- A job on the collection that `TARGET` names runs with it. -/
theorem onColl_named {admin : Bool} {g : Clock → Mem → Tok → Sqe → Nat → Nat → Coll → Node → Node} {clk : Clock} {host : Mem} {t : Tok} {x : Sqe} {n : Node} {p c : Nat} {y : Coll} (hn : names admin n t x p c y) :
    onColl admin g clk host t x n = g clk host t x p c y n := by
  obtain ⟨href, hget⟩ := hn
  simp only [onColl, href, hget]
theorem collectionCreate_makes {clk : Clock} {host : Mem} {t : Tok} {x : Sqe} {n : Node} {p c : Nat} (hp : (getFn n t.fn).map = some p) (hd : descBad n (getP n p) (descOf (Mem.readN host x.addr0 128)) = none)
    (hf : firstFree (getP n p).colls 0 256 = some c) :
    collectionCreate clk host t x n = post clk t stSuccess (256 * p + c)
      (modP p (fun y => { y with colls := mset y.colls c { desc := descOf (Mem.readN host x.addr0 128), own := { owner := n.lnk.nodeId, ownerP := p } } }) n) := by
  simp only [collectionCreate, hp, hd, hf]
theorem collectionDrop_starts {clk : Clock} {host : Mem} {t : Tok} {x : Sqe} {n : Node} {p c : Nat} {y : Coll} (hn : names true n t x p c y) (hd : y.drop = none) :
    collectionDrop clk host t x n = finishDrop clk p c (modC p c (fun c => { c with drop := some (t, x.flag 1) }) n) := by
  rw [collectionDrop, onColl_named hn, if_neg (by simp [hd])]

/-- The mount waits: the node is not ready, the collection is mounted already, or a sanitisation holds its data back. -/
def mountHeld (n : Node) (p c : Nat) (y : Coll) : Bool :=
  !n.boot.ready || y.st != .mounting || (collObjs p c y).any (fun o => (objSlots n o).any (fun k => (getCart n k).sanHold))
theorem mountHeld_false {n : Node} {p c : Nat} {y : Coll} (hr : n.boot.ready = true) (hst : y.st = .mounting) (hsan : ∀ o ∈ collObjs p c y, ∀ k ∈ objSlots n o, (getCart n k).sanHold = false) :
    mountHeld n p c y = false := by
  simpa [mountHeld, hr, hst] using hsan

section
variable {p c : Nat} {ok : Bool} {clk : Clock} {host : Mem} {n : Node} {y : Coll} (hc : getC n p c = some y) (hdue : mountHeld n p c y = false)
include hc hdue
theorem collectionMount_created (hroot : y.root = none) :
    collectionMount p c ok clk host n = modC p c (fun z => { z with st := if z.own.st == .frozen then .frozen else .created, before := .created, cur := none }) n := by
  unfold mountHeld at hdue
  simp only [collectionMount, hc, hdue, hroot]
  simp
theorem collectionMount_serves {g g2 : Gen} {m z : Node} {lost : List Nat} (hroot : y.root = some g) (hok : ok = true) (hfmt : g.hdr.fmt ≤ imgFmt n) (hw : objWhole n g.store = true)
    (hrep : replayAll y.desc (poolSize (getP n p)) (usedChunks (getP n p)) g (logAbove y g.hdr.baseSeq) = some g2)
    (hread : readStore g2.store (List.range (((fobj n g2.store).map (·.blocks)).getD 0)) n = (m, lost))
    (hmake : makeGen p c (markLost y.desc g2 lost) (modC p c (fun z => { z with
      st := if z.own.st == .frozen then .frozen else if z.swap.isSome then .swapping else .serving, before := .serving, cur := some (markLost y.desc g2 lost) }) m) = some z) :
    collectionMount p c ok clk host n = settleColls z := by
  unfold mountHeld at hdue
  have hgood : ¬ (!ok || decide (imgFmt n < g.hdr.fmt) || !objWhole n g.store) = true := by
    simpa [hok, hw] using hfmt
  simp only [collectionMount, hc, hdue, hroot, hrep, hread, BEq.rfl, Bool.and_true, hmake]
  simp [hgood]
theorem collectionMount_fails {g : Gen} (hroot : y.root = some g) (hbad : ok = false ∨ imgFmt n < g.hdr.fmt ∨ objWhole n g.store = false) :
    collectionMount p c ok clk host n = modC p c (fun z => { z with st := .failed, cur := none }) n := by
  unfold mountHeld at hdue
  have hbad : (!ok || decide (imgFmt n < g.hdr.fmt) || !objWhole n g.store) = true := by
    simpa [or_assoc] using hbad
  simp only [collectionMount, hc, hdue, hroot, hbad]
  simp
end

/-- A restoration that nothing holds back reads the record's blocks; only with all of them read is the record good again. -/
theorem recordRestore_reads {p c : Nat} {gen : W64} {loc : RecLoc} {n m : Node} {y : Coll} {g : Gen} {lost : List Nat} (hc : getC n p c = some y) (hg : genNamed y gen = some g)
    (hheld : ∀ b ∈ recBlocks y.desc g loc, blkHeld n g.store b = false) (hread : readStore g.store (recBlocks y.desc g loc) n = (m, lost)) :
    recordRestore p c gen loc n = if lost = [] then damage p c gen false loc m else m := by
  simp only [recordRestore, hc, hg, Option.bind_some, Option.map_some, hread]
  rw [if_neg (by simpa using hheld)]
  simp only [List.isEmpty_iff]

/-- Settles O36: creation, the start of a drop, the outcomes of a mount and of a restoration. -/
theorem collectionsComeAndGo : Obligations.CollectionsComeAndGo := by
  refine ⟨?_, ?_, ?_, ?_⟩
  · intro e q s t x n p c d ht hp hd hbad hf
    subst hd
    exact host_to ht (collectionCreate_makes hp hbad hf)
  · intro e q s t x n p c y ht hn hd
    exact host_to ht (collectionDrop_starts hn hd)
  · intro e p c ok s y ha hr hc hst hsan
    have hdue := mountHeld_false hr hst hsan
    refine ⟨fun hroot => run_to ha (collectionMount_created hc hdue hroot), ?_, fun g hroot hbad => run_to ha (collectionMount_fails hc hdue hroot hbad)⟩
    intro g g2 m lost z hroot hok hfmt hw hrep hread hmake
    exact run_to ha (collectionMount_serves hc hdue hroot hok hfmt hw hrep hread hmake)
  · intro e p c gen loc s y g m lost ha hc hg hheld hread
    have hrest := recordRestore_reads hc hg hheld hread
    exact ⟨fun hl => run_to ha (hrest.trans (if_pos hl)), fun hl => run_to ha (hrest.trans (if_neg hl))⟩

/-! ### Updates (R51 to R55) -/

theorem deleteJob_takes {clk : Clock} {host : Mem} {t : Tok} {x : Sqe} {n : Node} {p c : Nat} {y : Coll} (hn : names false n t x p c y) (hu : updRefused y = none) :
    deleteJob clk host t x n = takeUpd clk p c { tok := some t, seq := y.seq + 1, kind := .delete, id := BitVec.ofNat 64 x.arg0, durable := x.durable } n := by
  simp only [deleteJob, onColl_named hn, hu]
theorem deleteJob_refuses {clk : Clock} {host : Mem} {t : Tok} {x : Sqe} {n : Node} {p c st r : Nat} {y : Coll} (hn : names false n t x p c y) (hu : updRefused y = some (st, r)) :
    deleteJob clk host t x n = post clk t st r n := by
  simp only [deleteJob, onColl_named hn, hu]
/-- A vector (form 0) waits as the record that the partition's quantisation makes of it. -/
theorem insertJob_takes {kind : RecKind} {clk : Clock} {host : Mem} {t : Tok} {x : Sqe} {n : Node} {p c k : Nat} {y : Coll} {v w : List W32} {r : SapRec} {u : Upd} (hn : names false n t x p c y) (hu : updRefused y = none)
    (hform : x.arg2 / 65536 % 16 = 0) (hv : words32 (Mem.readN host x.addr0 (4 * y.desc.dim)) y.desc.dim = v) (hfin : firstBad v = none) (hw : prepVec (metricOf y.desc.metric) v = some w)
    (hupd : u = { tok := some t, seq := y.seq + 1, kind := kind, id := BitVec.ofNat 64 x.arg0, durable := x.durable, vec := v, sap := some r })
    (hsap : makeSap y.desc (quantOf (getP n p)) { u with vec := [], sap := some { id := BitVec.ofNat 64 x.arg0, seq := y.seq + 1, attr := BitVec.ofNat 64 x.arg1, tag := BitVec.ofNat 16 x.arg2 } } w = (r, k)) :
    insertJob kind clk host t x n = takeUpd clk p c u (count p .degenerate k n) := by
  subst hupd
  simp only [insertJob, onColl_named hn, hu, hform, hv, hfin, hw, hsap]
  simp
/-- The oldest update commits where nothing holds it, its collection's commits or its partition. -/
theorem commitPoint_commits {p c : Nat} {clk : Clock} {host : Mem} {n : Node} {y : Coll} {u : Upd} {us : List Upd} (hc : getC n p c = some y) (hus : y.upds = u :: us) (henc : u.waitEnc = false) (hheld : u.held = false)
    (hopen : commitsOpen y = true) (hst : (getP n p).st ≠ .resetting) :
    commitPoint p c u.seq clk host n = finishDrop clk p c (commitUpd clk p c u (ungate p n)) := by
  have hnext : nextUpd y = some u := by simp [nextUpd, hus, henc, hheld]
  simp only [commitPoint, hc, hnext]
  exact if_pos (by simp [hopen, hst])

section
variable {clk : Clock} {p c : Nat} {u : Upd} {n m : Node} {y : Coll} (hm : readAll clk p 0 u.tok u.ctx (walkLocs p c u) (walkLocs p c u) n = m) (hc : getC m p c = some y)
include hm hc
theorem commitUpd_refused {st : Nat} (ha : applyUpd (getP m p) y u = .refuse st) : commitUpd clk p c u n = postO clk u.tok st 0 (dropUpd p c u (walkMeets p c y u m)) := by
  simp only [commitUpd, hm, hc, ha]
theorem commitUpd_delete {g : Gen} {l : Nat} (hk : u.kind = .delete) (hd : u.durable = false) (ha : applyUpd (getP m p) y u = .done g l) :
    commitUpd clk p c u n = postO clk u.tok stSuccess 0 (commitLog clk p .coll c (.coll { seq := u.seq, kind := .delete, id := u.id, list := l, sap := u.sap, epoch := (getP m p).epoch }) none
      (dropOrig clk p c u.id.toNat (growIds clk p c (killMeets clk p c y u (modC p c (fun z => { z with
        cur := some g, applied := u.seq, log := z.log ++ [{ seq := u.seq, kind := .delete, id := u.id, list := l, sap := u.sap, epoch := (getP m p).epoch }] })
        (dropUpd p c u (walkMeets p c y u m))))))) := by
  simp only [commitUpd, hm, hc, ha, hk, hd, BEq.rfl, if_true, Bool.false_eq_true, if_false]
end

/-- Settles O37: what is fetched waits under the next number, and the oldest is applied or refused at its commit point. -/
theorem updatesAreSequenced : Obligations.UpdatesAreSequenced := by
  refine ⟨?_, ?_, ?_, ?_, ?_⟩
  · intro e q s t x n p c y ht hn hu
    exact host_to ht (deleteJob_takes hn hu)
  · intro e q s t x n p c y st r ht hn hu
    exact host_to ht (deleteJob_refuses hn hu)
  · intro kind row cmd e q s t x n p c y v w r k u hrow ht hn hu hform hv hfin hw hupd hsap
    have hjob := insertJob_takes (clk := clkOf e s) hn hu hform hv hfin hw hupd hsap
    obtain ⟨rfl, rfl, rfl⟩ | ⟨rfl, rfl, rfl⟩ := hrow
    · exact host_to ht hjob
    · exact host_to ht hjob
  · intro e p c s y u us ha hc hus henc hheld hopen hst
    exact run_to ha (congrArg (settleXfers (clkOf e s) p) (commitPoint_commits hc hus henc hheld hopen hst))
  · intro clk p c u n m y hm hc
    refine ⟨fun st ha => commitUpd_refused hm hc ha, fun g l z hk hd ha hz => ?_⟩
    subst hz
    exact commitUpd_delete hm hc hk hd ha

/-! ### Loads (R58) -/

section
variable {parts : List ListPart} {clk : Clock} {host : Mem} {t : Tok} {x : Sqe} {n m : Node} {p c : Nat} {y : Coll} {buf : List Byte} (hn : names false n t x p c y) (hd : y.drop = none)
  (hbuf : patch (if x.arg0 = 0 then [] else y.loadBuf) x.arg0 (Mem.readN host x.addr0 x.arg1) = buf) (hm : modC p c (fun c => { c with loadBuf := buf }) n = m)
include hn hd hbuf hm
theorem generationLoad_gathers (hlast : x.flag 1 = false) : generationLoad parts clk host t x n = post clk t stSuccess 0 m := by
  simp only [generationLoad, onColl_named hn, hd, hbuf, hm, hlast]
  rfl
theorem generationLoad_badHeader {off : Nat} (hlast : x.flag 1 = true) (hbad : genBad y (genHeader buf) buf = some off) : generationLoad parts clk host t x n = invalid clk t off 1 m := by
  simp only [generationLoad, onColl_named hn, hd, hbuf, hm, hlast, hbad]
  rfl
theorem generationLoad_level (hlast : x.flag 1 = true) (hgood : genBad y (genHeader buf) buf = none) (hfmt : imgFmt m < (genHeader buf).fmt) :
    generationLoad parts clk host t x n = post clk t stFormatLevel 0 m := by
  simp only [generationLoad, onColl_named hn, hd, hbuf, hm, hlast, hgood, hfmt]
  rfl
theorem generationLoad_staged {z : Node} (hlast : x.flag 1 = true) (hgood : genBad y (genHeader buf) buf = none) (hfmt : (genHeader buf).fmt ≤ imgFmt m)
    (hz : stageGen clk p c y.desc (genHeader buf) buf parts m = some z) : generationLoad parts clk host t x n = post clk t stSuccess 0 z := by
  simp only [generationLoad, onColl_named hn, hd, hbuf, hm, hlast, hgood, Nat.not_lt.mpr hfmt, hz]
  rfl
theorem generationLoad_noRoom (hlast : x.flag 1 = true) (hgood : genBad y (genHeader buf) buf = none) (hfmt : (genHeader buf).fmt ≤ imgFmt m)
    (hz : stageGen clk p c y.desc (genHeader buf) buf parts m = none) : generationLoad parts clk host t x n = post clk t stNoSpace 0 m := by
  simp only [generationLoad, onColl_named hn, hd, hbuf, hm, hlast, hgood, Nat.not_lt.mpr hfmt, hz]
  rfl
end

section
variable {clk : Clock} {p c : Nat} {d : CollDesc} {h : GenHeader} {bs : List Byte} {parts : List ListPart} {n m : Node} {ls : List (Nat × GList)} (hm : dropStaged clk p c n = m)
  (hls : listsFrom d (t1Chans (getP m p)).length bs parts = ls)
include hm hls
theorem stageGen_noRoom (hfull : freeT1 m p < (genBytes d h.fmt ls).1 ∨ freeT2 m p < (genBytes d h.fmt ls).2 ∨ freeFlash m < bs.length) : stageGen clk p c d h bs parts n = none := by
  simp only [stageGen, hm, hls]
  exact if_pos (by simpa [or_assoc] using hfull)
theorem stageGen_room {m2 : Node} {o : Nat} (h1 : (genBytes d h.fmt ls).1 ≤ freeT1 m p) (h2 : (genBytes d h.fmt ls).2 ≤ freeT2 m p) (hf : bs.length ≤ freeFlash m) (hstore : storeGen clk p bs m = (m2, o)) :
    stageGen clk p c d h bs parts n =
      let g : Gen := { freshGen h ls with size := bs.length, store := o, parts := parts.foldl (fun m q => mset m (leAt bs q.node 4) q) [] }
      makeGen p c g (modC p c (fun c => { c with staged := some g, loadBuf := [] }) m2) := by
  simp only [stageGen, hm, hls, hstore]
  exact if_neg (by simp [h1, h2, hf])
end

/-! ### Swaps (R59, R62) -/

/-- A swap that nothing refuses begins on the staged generation, and replays the log into it unless it has to wait. -/
theorem generationSwap_starts {clk : Clock} {host : Mem} {t : Tok} {x : Sqe} {n m : Node} {p c : Nat} {y : Coll} {g : Gen} {w : Swap} (hn : names true n t x p c y) (hd : y.drop = none) (hfr : y.own.st ≠ .frozen) (hsw : y.swap = none)
    (hst : y.staged = some g) (hgen : g.hdr.gen.toNat = x.arg0) (hcr : y.st = .created → g.hdr.baseSeq = 0) (hlog : y.logFrom ≤ g.hdr.baseSeq + 1) (hfmt : g.hdr.fmt ≤ imgFmt n)
    (hw : w = { tok := t, gen := g.hdr.gen, freezeAt := if x.arg1 % 2 ^ 32 = 0 then 256 else x.arg1 % 2 ^ 32
                limitAt := pctr clk p + 300000000 * (if x.arg1 / 2 ^ 32 = 0 then 600 else x.arg1 / 2 ^ 32), done := g.hdr.baseSeq, base := cleanGen g, work := g })
    (hm : modC p c (fun c => { c with swap := some w, before := c.st, st := if c.st == .serving || c.st == .readOnly then .swapping else c.st }) n = m) :
    generationSwap clk host t x n = if swapWaits m p c then m else catchUp clk p c false m := by
  subst hw
  have hfrozen : (y.own.st == .frozen) = false := by simpa using hfr
  have hstale : (decide (g.hdr.baseSeq + 1 < y.logFrom) || (y.st == .created && g.hdr.baseSeq != 0)) = false := by
    simpa [hlog] using hcr
  simp only [generationSwap, onColl_named hn, hd, hfrozen, hsw, hst, hgen, hstale, Nat.not_lt.mpr hfmt, hm, Option.isSome_none, Bool.false_eq_true, ne_eq, not_true_eq_false, if_false]
theorem catchUp_replays {clk : Clock} {p c : Nat} {freeze : Bool} {n : Node} {y : Coll} {w : Swap} {g : Gen} (hc : getC n p c = some y) (hsw : y.swap = some w)
    (hrep : replayAll y.desc (poolSize (getP n p)) (usedChunks (getP n p)) w.work (logAbove y w.done) = some g) :
    catchUp clk p c freeze n = modC p c (fun c => { c with swap := some { w with work := g, done := c.applied, frozen := freeze } }) n := by
  simp only [catchUp, hc, hsw, hrep]
theorem swapFreeze_catchesUp {clk : Clock} {host : Mem} {p c : Nat} {n : Node} {y : Coll} {w : Swap} (hc : getC n p c = some y) (hsw : y.swap = some w) (hwait : swapWaits n p c = false) (hfr : w.frozen = false) :
    swapFreeze p c clk host n = catchUp clk p c (decide ((logAbove y w.done).length ≤ w.freezeAt)) n := by
  simp only [swapFreeze, hc, hsw, hwait, hfr]
  rfl
/-- The commit point: the new generation is the root and the current one, the old one is retired, and the held updates follow. -/
theorem swapCommit_commits {clk : Clock} {host : Mem} {p c : Nat} {n : Node} {y : Coll} {w : Swap} (hc : getC n p c = some y) (hsw : y.swap = some w) (hwait : swapWaits n p c = false) (hfr : w.frozen = true) :
    swapCommit p c clk host n = finishDrop clk p c (post clk w.tok stSuccess 0 (commitAll clk p c (y.upds.length + 1) (trimLog clk p c (retireGens clk p c
      (modC p c (fun c => { c with
        cur := some w.work, root := some w.base, staged := if c.staged.any (fun g => g.hdr.gen == w.gen) then none else c.staged
        st := CollSt.swapped c, swap := none, cuts := c.cuts.erase w.base.hdr.baseSeq
        retired := c.retired ++ (if c.cur.isNone then c.root.toList else c.cur.toList) }) (flushStore clk w.base.store n)))))) := by
  simp only [swapCommit, hc, hsw, hwait, hfr]
  rfl
theorem endSwap_ends {clk : Clock} {p c status : Nat} {n : Node} {y : Coll} {w : Swap} (hc : getC n p c = some y) (hsw : y.swap = some w) :
    endSwap clk p c status n = finishDrop clk p c (commitAll clk p c (y.upds.length + 1) (post clk w.tok status 0
      (modC p c (fun c => { c with swap := none, st := if c.st == .swapping then c.before else c.st }) n))) := by
  simp only [endSwap, hc, hsw]
theorem swapLimit_expires {clk : Clock} {host : Mem} {p c : Nat} {n : Node} {y : Coll} {w : Swap} (hc : getC n p c = some y) (hsw : y.swap = some w) (hfr : w.frozen = false) (hdue : w.limitAt ≤ pctr clk p) :
    swapLimit p c clk host n = endSwap clk p c stSwapTimeout n := by
  simp only [swapLimit, hc, hsw, hfr]
  exact if_pos (by simpa using hdue)

/-! ### Discards and exports (R61, R189, R254) -/

theorem generationDiscard_cuts {clk : Clock} {host : Mem} {t : Tok} {x : Sqe} {n : Node} {p c : Nat} {y : Coll} (hn : names true n t x p c y) (hsw : y.swap = none) (h0 : x.arg0 = 0) :
    generationDiscard clk host t x n = post clk t stSuccess 0 (trimLog clk p c (modC p c (fun c => { c with cuts := [], exports := [] }) n)) := by
  rw [generationDiscard, onColl_named hn, if_neg (by simp [hsw]), if_pos h0]
/-- A generation number discards the staged generation, and nothing when it names another. -/
theorem generationDiscard_staged {clk : Clock} {host : Mem} {t : Tok} {x : Sqe} {n : Node} {p c : Nat} {y : Coll} {g : Gen} (hn : names true n t x p c y) (hsw : y.swap = none) (h0 : x.arg0 ≠ 0) (hst : y.staged = some g) :
    generationDiscard clk host t x n = if g.hdr.gen.toNat ≠ x.arg0 then invalid clk t 0x18 0 n
      else post clk t stSuccess 0 (trimLog clk p c (modC p c (fun c => { c with cuts := c.cuts.erase g.hdr.baseSeq }) (dropStaged clk p c n))) := by
  rw [generationDiscard, onColl_named hn, if_neg (by simp [hsw]), if_neg h0, hst]
theorem length_toLe : ∀ k v : Nat, (toLe k v).length = k
  | 0, _ => rfl
  | k + 1, v => congrArg Nat.succ (length_toLe k (v / 256))
/-- `SHARD_EXPORT` of a collection whose records all fit one command: the cut, then every live record. -/
theorem shardExport_whole {clk : Clock} {host : Mem} {t : Tok} {x : Sqe} {n : Node} {p c : Nat} {y : Coll} {g : Gen} {bad : List RecLoc} (hn : names false n t x p c y) (hd : y.drop = none) (hmt : y.st ≠ .mounting) (hfl : y.st ≠ .failed)
    (hfr : y.own.st ≠ .frozen) (hcur : x.arg1 = 0) (hlen : 8 ≤ x.arg0) (hg : y.cur = some g) (hfit : (liveRecs g).length ≤ (x.arg0 - 8) / sapSize y.desc) (hbad : (liveRecs g).filterMap (·.2) = bad) :
    shardExport clk host t x n = post clk t (if bad = [] then stSuccess else stDataPoison) 0 (modC p c (fun c => { c with cuts := c.cuts ++ [c.applied] })
      (emit (.data x.addr0 (toLe 8 y.applied ++ ((liveRecs g).map (exportBytes y.desc)).flatten)) (metLocs clk p 0 0xFFFFFFFF (some t) (bad.map (fun r => .shard p c g.hdr.gen r)) n))) := by
  have htake := List.take_of_length_le hfit
  have hdrop := List.drop_of_length_le hfit
  rw [shardExport, onColl_named hn, if_neg (by simp [hd, hmt, hfl]), if_neg (by simpa using hfr), if_neg (by simp [hlen])]
  simp only [hcur, hg, if_true, length_toLe, htake, hdrop, hbad, List.isEmpty_iff, Option.map_some, Option.getD_some]

/-- Settles O38: one clause each for loads, staging, the start, steps and ends of a swap, discards and exports. -/
theorem generationsLoadAndSwap : Obligations.GenerationsLoadAndSwap := by
  refine ⟨?_, ?_, ?_, ?_, ?_, ?_, ?_⟩
  · intro e q parts s t x n m p c y buf ht hn hd hbuf hm
    exact ⟨fun hl => host_to ht (generationLoad_gathers hn hd hbuf hm hl), fun off hl hbad => host_to ht (generationLoad_badHeader hn hd hbuf hm hl hbad),
      fun hl hg hf => host_to ht (generationLoad_level hn hd hbuf hm hl hg hf), fun z hl hg hf hz => host_to ht (generationLoad_staged hn hd hbuf hm hl hg hf hz),
      fun hl hg hf hz => host_to ht (generationLoad_noRoom hn hd hbuf hm hl hg hf hz)⟩
  · intro clk p c d h bs parts n m m2 o ls g hm hls
    refine ⟨stageGen_noRoom hm hls, fun h1 h2 hf hstore hg => ?_⟩
    rw [stageGen_room hm hls h1 h2 hf hstore, hg]
  · intro e q s t x n m p c y g w ht hn hd hfr hsw hst hgen hcr hlog hfmt hw hm
    have hstart := generationSwap_starts (host := hostOf e s) hn hd hfr hsw hst hgen hcr hlog hfmt hw hm
    exact ⟨fun hwait => host_to ht (hstart.trans (if_neg (by simp [hwait]))), fun hwait => host_to ht (hstart.trans (if_pos hwait))⟩
  · intro e p c s y w g ha hc hsw hwait
    refine ⟨fun hfr hrep => ?_, fun hfr => run_to ha (swapCommit_commits hc hsw hwait hfr), fun hfr hdue => ?_⟩
    · exact run_to ha ((swapFreeze_catchesUp hc hsw hwait hfr).trans (catchUp_replays hc hsw hrep))
    · exact run_to ha ((swapLimit_expires hc hsw hfr hdue).trans (endSwap_ends hc hsw))
  · intro e q s t x n p c y ht hn hsw h0
    exact host_to ht (generationDiscard_cuts hn hsw h0)
  · intro e q s t x n p c y g ht hn hsw h0 hst
    have hdisc := generationDiscard_staged (clk := clkOf e s) (host := hostOf e s) hn hsw h0 hst
    exact ⟨fun heq => host_to ht (hdisc.trans (if_neg (not_not.mpr heq))), fun hne => host_to ht (hdisc.trans (if_pos hne))⟩
  · intro e q s t x n p c y g bad ht hn hd hmt hfl hfr hcur hlen hg hfit hbad
    exact host_to ht (shardExport_whole hn hd hmt hfl hfr hcur hlen hg hfit hbad)

end Sys2Proof.Machine
end

section
/-! Proofs for chapter 04: configuration registers, searches and audits, and the walk of a query. -/

namespace Sys2Proof.Machine

/-! ### Configuration registers (R84, R201, R229, R285, R346) -/

/-- A write of BAR2 that nothing holds back, in a CTL cycle without a set of R8: the block's own rule. -/
theorem exec_registerWrite_onBus {e : Env} {f off : Nat} {s : State} (w : Width) (v : W64) (hb : onBus f (nodeOf e s) = true) (ho : off % 8 = 0) :
    exec (.registerWrite e f .bar2 off w v) s = .next (endsWith e s (writeBar2 f off w v (clkOf e s) (nodeOf e s))) := by
  simp only [onBus, Bool.and_eq_true, Bool.not_eq_true', List.isEmpty_iff] at hb
  obtain ⟨⟨⟨hr, ha⟩, he⟩, hnone⟩ := hb
  rw [exec_registerWrite, registerWrite_bar2 w v _ hr ha he ho, setNow_nil hnone, afterSets_zero]
theorem writePtn_qryCfg (pf : Bool) (p : Nat) (ses : Bool) (w : Width) (v : W64) (clk : Clock) (n : Node) :
    writePtn pf p ses 0x038 w v clk n = cfgReg (0x50038 + 0x1000 * p) ses w v (fmask 0 32) 32 (qryOk (getP n p)) (getP n p).qryCfg (fun c => modP p (fun y => { y with qryCfg := c })) n := by
  have hoff : 0x50038 + 0x1000 * p = 0x50000 + 0x1000 * p + 0x038 := by omega
  rw [hoff]; rfl
/-- `PTN_ESC_CFG` is the physical function's to write. -/
theorem writePtn_escCfg_vf (p : Nat) (ses : Bool) (w : Width) (v : W64) (clk : Clock) (n : Node) : writePtn false p ses 0x510 w v clk n = n := rfl
/-- The page of a partition that is not the function's own takes no write. -/
theorem writeBar2_ptn_foreign {f p o : Nat} (w : Width) (v : W64) (clk : Clock) {n : Node} (hp : p < 8) (ho : o < 0x1000) (hf : f ≠ 0) (hm : (getFn n f).map ≠ some p) :
    writeBar2 f (0x50000 + 0x1000 * p + o) w v clk n = n := by
  have hpage : (0x50000 + 0x1000 * p + o - 0x50000) / 0x1000 = p := by omega
  have hmine : ((getP n p).st == .absent || !(f == 0 || (getFn n f).map == some p)) = true := by simp [hf, hm]
  simp (disch := omega) only [writeBar2, Bool.and_eq_true, decide_eq_true_eq, if_neg, if_pos, hpage, hmine, if_true]
/-- The blocks of the node itself take no write of a virtual function. -/
theorem writeBar2_node_vf {f off : Nat} (w : Width) (v : W64) (clk : Clock) {n : Node} (hf : f ≠ 0) (ho : 0x58000 ≤ off) : writeBar2 f off w v clk n = n := by
  have hpf : (!(f == 0)) = true := by simp [hf]
  simp (disch := omega) only [writeBar2, Bool.and_eq_true, decide_eq_true_eq, if_neg, hpf, if_true]
theorem exec_registerWrite_node_vf {e : Env} {f off : Nat} {s : State} (w : Width) (v : W64) (hb : onBus f (nodeOf e s) = true) (hf : f ≠ 0) (ho : 0x58000 ≤ off) (hal : off % 8 = 0) :
    exec (.registerWrite e f .bar2 off w v) s = .next (idles e s) := by
  rw [exec_registerWrite_onBus w v hb hal, writeBar2_node_vf w v _ hf ho, idles]
theorem writeBar2_migCfg (w : Width) (v : W64) (clk : Clock) (n : Node) :
    writeBar2 0 0x60008 w v clk n = cfgReg 0x60008 (inSession 0 n) w v (fmask 0 32) 32 migOk n.mem.migCfg (fun c => modMem (fun m => { m with migCfg := c })) n := rfl
theorem writeBar2_flsCfg (w : Width) (v : W64) (clk : Clock) (n : Node) :
    writeBar2 0 0x70000 w v clk n = cfgReg 0x70000 (inSession 0 n) w v (fmask 0 32) 32 flsOk n.flash.cfg (fun c => modFls (fun x => { x with cfg := c })) n := rfl
theorem writeBar2_pwrLimit (w : Width) (v : W64) (clk : Clock) (n : Node) :
    writeBar2 0 0x80018 w v clk n = cfgReg 0x80018 (inSession 0 n) w v (fmask 26 14 ||| fmask 0 10) 56 limitOk n.pwr.limit (fun c => modPwr (fun x => { x with limit := c })) n := rfl

/-- Settles O21: each write is the rule of its register's block, and who may not write there leaves the node as it is. -/
theorem configurationWritesReachTheirRegister : Obligations.ConfigurationWritesReachTheirRegister := by
  intro e fn p w v s hb hp hs
  refine ⟨fun hown => ⟨?_, ?_⟩, fun ⟨hf, hm⟩ off ho hal => ?_, fun hf => ⟨?_, ?_, ?_, ?_⟩, fun hf => ?_⟩
  · have hoff : 0x50038 + 0x1000 * p = 0x50000 + 0x1000 * p + 0x038 := by omega
    rw [exec_registerWrite_onBus w v hb (by omega), ← writePtn_qryCfg (fn == 0), hoff, writeBar2_ptn w v _ hp (by omega) hs hown]
  · have hoff : 0x50508 + 0x1000 * p = 0x50000 + 0x1000 * p + 0x508 := by omega
    rw [exec_registerWrite_onBus w v hb (by omega), ← writePtn_wdCfg (fn == 0), hoff, writeBar2_ptn w v _ hp (by omega) hs hown]
  · rw [exec_registerWrite_onBus w v hb (by omega), writeBar2_ptn_foreign w v _ hp ho hf hm, idles]
  · have hoff : 0x50510 + 0x1000 * p = 0x50000 + 0x1000 * p + 0x510 := by omega
    have hpf : (fn == 0) = false := by simpa using hf
    rw [exec_registerWrite_onBus w v hb (by omega), hoff, idles]
    by_cases hm : (getFn (nodeOf e s) fn).map = some p
    · rw [writeBar2_ptn w v _ hp (by omega) hs (.inr hm), hpf, writePtn_escCfg_vf]
    · rw [writeBar2_ptn_foreign w v _ hp (by omega) hf hm]
  · exact exec_registerWrite_node_vf w v hb hf (by omega) (by omega)
  · exact exec_registerWrite_node_vf w v hb hf (by omega) (by omega)
  · exact exec_registerWrite_node_vf w v hb hf (by omega) (by omega)
  · subst hf
    refine ⟨?_, ?_, ?_⟩
    · rw [exec_registerWrite_onBus w v hb rfl, writeBar2_migCfg]
    · rw [exec_registerWrite_onBus w v hb rfl, writeBar2_flsCfg]
    · rw [exec_registerWrite_onBus w v hb rfl, writeBar2_pwrLimit]

/-! ### Searches and audits (R67, R69, R70, R92) -/

section
variable {clk : Clock} {host : Mem} {t : Tok} {x : Sqe} {n : Node} {p : Nat} (hp : (getFn n t.fn).map = some p)
include hp
theorem searchJob_starts {ck : Checked} (hck : checkSearch n host t.fn p false 0 (Mem.readN host x.addr0 128) = .ok ck) :
    searchJob clk host t x n = startQuery clk p (some t) (isUrgent n t) none none 0 ck n := by
  simp only [searchJob, hp, hck]
theorem searchJob_refuses {st r : Nat} (hck : checkSearch n host t.fn p false 0 (Mem.readN host x.addr0 128) = .error (st, r)) :
    searchJob clk host t x n = post clk t st r n := by
  simp only [searchJob, hp, hck]
/-- An audit of one block starts that block as query 0 of the audit. -/
theorem auditJob_one {ck : Checked} (h1 : x.arg0 = 1) (hck : checkSearch n host t.fn p true 0 (Mem.readN host x.addr0 128) = .ok ck) :
    auditJob clk host t x n = startQuery clk p (some t) (isUrgent n t) (some 0) none 0 ck n := by
  have hblocks : checkBlocks n host t.fn p x.addr0 1 0 [] = .ok [ck] := by
    simp only [checkBlocks, Nat.mul_zero, Nat.add_zero, hck, List.any_nil, Bool.false_eq_true, if_false, List.nil_append]
  simp only [auditJob, hp, h1, hblocks, List.foldl_cons, List.foldl_nil]
end

/-! ### The walk of a query (R71) -/

/-- A walk whose threads have their contexts reads the nodes of its next expansion and takes it. -/
theorem routeExpansion_walks {p i : Nat} {clk : Clock} {host : Mem} {n m : Node} {y : Query} (hy : getY n p i = some y) (hph : y.phase = .route) (hst : (getP n p).st ≠ .resetting)
    (hpin : (pinOf n p y).isSome = true) (hctx : (queryThread clk p i n).bind (routeThread clk p i) = some m) :
    routeExpansion p i clk host n = walked clk p i (readAll clk p 0 y.tok (((getY m p i).map (·.ctx)).getD noCtx) (routeLocs p i) (routeLocs p i) m) := by
  have hgo : (y.phase != .route || (getP n p).st == .resetting || (pinOf n p y).isNone) = false := by
    simpa [hph, hst, Option.isSome_iff_ne_none] using hpin
  simp only [routeExpansion, hy, hgo, hctx, Bool.false_eq_true, if_false]
/-- The walk that a query takes next is one expansion of the walk it has. -/
theorem nextWalk_expands {n : Node} {p i : Nat} {y : Query} {c : Coll} {g : Gen} {w : Walk} (h : nextWalk n p i = some (y, c, g, w)) :
    w = expandOne (walkCfg (getP n p) c.desc y) g y.walk := by
  simp only [nextWalk, Option.bind_eq_some_iff, Option.map_eq_some_iff, Prod.mk.injEq] at h
  obtain ⟨_, _, _, _, rfl, rfl, rfl, rfl⟩ := h
  rfl

/-- Settles O39: the job of each command on what its checks answer, and the walk by whether the expansion ends it. -/
theorem searchesStart : Obligations.SearchesStart := by
  refine ⟨?_, ?_, ?_, ?_, ?_⟩
  · intro e q s t x n p ck ht hp hck
    exact host_to ht (searchJob_starts hp hck)
  · intro e q s t x n p st r ht hp hck
    exact host_to ht (searchJob_refuses hp hck)
  · intro e q s t x n p ck ht hp h1 hck
    exact host_to ht (auditJob_one hp h1 hck)
  · intro e p i s y m ha hy hph hst hpin hctx
    exact run_to ha (routeExpansion_walks hy hph hst hpin hctx)
  · intro clk p i n m y c g w hw hm
    refine ⟨nextWalk_expands hw, fun hdone => ?_, fun hdone => ?_⟩
    · simp only [walked, hw, hm, hdone, Bool.not_false, if_true]
    · simp only [walked, hw, hm, hdone, Bool.not_true, Bool.false_eq_true, if_false]

end Sys2Proof.Machine
end

section
/-! Proofs for chapter 04: passes launch, end and press, and selections run (R75 to R83, R86, R122). -/

namespace Sys2Proof.Machine

/-! ### What the steps of a pass change in a partition -/

/-- What a change of a partition keeps, the partition keeps. -/
theorem getP_modP_keeps {α : Type} (f : Ptn → α) {g : Ptn → Ptn} (hg : ∀ x, f (g x) = f x) (q p : Nat) (n : Node) : f (getP (modP q g n) p) = f (getP n p) := by
  show f (vget (vmod n.ptns q g) p) = f (vget n.ptns p)
  rw [vget_vmod]
  split
  · exact hg _
  · rfl
/-- An update of a partition is given by what it makes of that partition as it stands. -/
theorem modP_congr {p : Nat} {f g : Ptn → Ptn} {n : Node} (h : f (getP n p) = g (getP n p)) : modP p f n = modP p g n := by
  have hv : vmod n.ptns p f = vmod n.ptns p g := by
    unfold vmod
    split
    case isTrue hp =>
      have hget : getP n p = n.ptns[p] := by simp [getP, vget, hp]
      rw [← hget, h]
    case isFalse => rfl
  rw [modP, hv]; rfl
theorem passes_modY (p i : Nat) (g : Query → Query) (n : Node) (q : Nat) : (getP (modY p i g n) q).passes = (getP n q).passes := getP_modP_keeps Ptn.passes (fun _ => by rfl) p q n
theorem passes_delCtx (p i : Nat) (n : Node) (q : Nat) : (getP (delCtx p i n) q).passes = (getP n q).passes := getP_modP_keeps Ptn.passes (fun _ => by rfl) p q n
theorem length_modFirst {α : Type} (c : α → Bool) (f : α → α) : ∀ l : List α, (modFirst c f l).length = l.length
  | [] => rfl
  | x :: xs => by
    rw [modFirst]
    split
    · rfl
    · simp [length_modFirst c f xs]
/-- A value that is set reads back, in any order of the keys. -/
theorem mget_mset_self {α : Type} (k : Nat) (v : α) : ∀ m : List (Nat × α), mget (mset m k v) k = some v
  | [] => by simp [mset, mget_cons]
  | (a, x) :: m => by
    simp only [mset]
    split
    · simp [mget_cons]
    · split
      · simp [mget_cons]
      · rw [mget_cons, if_neg (by omega), mget_mset_self k v m]

/-! ### Launches (R75 to R77, R82) -/

/-- What a launch changes in its partition, its statistics, counters and contexts apart. -/
def launchView (x : Ptn) : List (Nat × Pass) × Nat × List (Nat × Coll) × List GEntry := (x.passes, x.nextPass, x.colls, x.gather)
theorem launchView_count (p : Nat) (c : PtnCtr) (k : Nat) (n : Node) (q : Nat) : launchView (getP (count p c k n) q) = launchView (getP n q) := getP_modP_keeps launchView (fun _ => by rfl) p q n
theorem launchView_modYs (p i : Nat) (g : Stats → Stats) (n : Node) (q : Nat) : launchView (getP (modYs p i g n) q) = launchView (getP n q) := getP_modP_keeps launchView (fun _ => by rfl) p q n
/-- The members' statistics. -/
theorem launchView_foldYs (p : Nat) (g : Visit → Stats → Stats) (vs : List Visit) (n : Node) (q : Nat) :
    launchView (getP (foldNode vs (fun v => modYs p v.query (g v)) n) q) = launchView (getP n q) :=
  foldNode_inv (fun n => launchView (getP n q)) vs _ (fun v n => launchView_modYs p v.query (g v) n q) n
/-- A context that is taken, or not for want of one, is no part of the view. -/
theorem launchView_takeCtx (p : Nat) (c : Ctx) (k : Nat) (n : Node) (q : Nat) : launchView (getP ((takeCtx p c n).getD (k, n)).2 q) = launchView (getP n q) := by
  unfold takeCtx
  dsimp only
  split
  · rfl
  · exact getP_modP_keeps launchView (fun _ => by rfl) p q n
theorem launchView_passCtxs (clk : Clock) (p core blocks : Nat) (near : Bool) (e : GEntry) (n : Node) (q : Nat) :
    launchView (getP (passCtxs clk p core blocks near e n).2.2 q) = launchView (getP n q) := by
  unfold passCtxs
  dsimp only
  split
  · exact launchView_takeCtx ..
  · exact (launchView_takeCtx ..).trans (launchView_takeCtx ..)
/-- A launch takes members out of the gather table, and the entry with its last one. -/
theorem launchView_leaveGather {p : Nat} (hp : p < 8) (k : Nat) (e : GEntry) (n : Node) :
    ∃ gs, launchView (getP (leaveGather p k e n) p) = ((getP n p).passes, (getP n p).nextPass, (getP n p).colls, gs) ∧ gs.length ≤ (getP n p).gather.length := by
  refine ⟨_, by rw [leaveGather, getP_modP_self n _ hp]; rfl, ?_⟩
  split
  · exact List.length_erase_le
  · rw [length_modFirst]
theorem launchView_newPass {x : Ptn} {ps : List (Nat × Pass)} {k : Nat} {cs : List (Nat × Coll)} {gs : List GEntry} (a : Pass) (h : launchView x = (ps, k, cs, gs)) :
    launchView { x with passes := mset x.passes x.nextPass a, nextPass := x.nextPass + 1 } = (mset ps k a, k + 1, cs, gs) := by
  simp only [launchView, Prod.mk.injEq] at h
  obtain ⟨rfl, rfl, rfl, rfl⟩ := h
  rfl
/-- The first ready entry with room launches, where its pass is near-bank or the core is free. -/
theorem passLaunch_launches {p core : Nat} {clk : Clock} {host : Mem} {n : Node} {g : GEntry} (hp : p < 8) (hs : schedules (getP n p) = true)
    (hg : (sortBy readyBefore ((getP n p).gather.filter (readyEntry (pctr clk p) n p))).find? (hasRoom n p) = some g) (hroom : (modeOf n p g).1 = true ∨ coreFree (getP n p) core = true) :
    ∃ a gs, launchView (getP (passLaunch p core clk host n) p) = (mset (getP n p).passes (getP n p).nextPass a, (getP n p).nextPass + 1, (getP n p).colls, gs) ∧
      gs.length ≤ (getP n p).gather.length ∧ a.list = g.list ∧ a.coll = g.coll ∧ a.gen = g.gen ∧ a.ended = false ∧ a.near = (modeOf n p g).1 ∧
      a.members.map (·.query) = (g.members.take (modeOf n p g).2).map (·.query) := by
  have hgo : (!(modeOf n p g).1 && !coreFree (getP n p) core) = false := by
    rcases hroom with h | h <;> simp [h]
  obtain ⟨gs, hgs, hlen⟩ := launchView_leaveGather hp (modeOf n p g).2 g n
  simp only [passLaunch, hs, hg, if_true, hgo, Bool.false_eq_true, if_false]
  rw [launchView_count, launchView_count, launchView_foldYs, getP_modP_self _ _ hp]
  exact ⟨_, gs, launchView_newPass _ ((launchView_passCtxs ..).trans hgs), hlen, rfl, rfl, rfl, rfl, rfl, by rw [List.map_map]; rfl⟩

/-! ### Ends of passes (R78, R79, R86) -/

theorem passes_listVisit (clk : Clock) (p i l q : Nat) (n : Node) : (getP (listVisit clk p i l n) q).passes = (getP n q).passes := by
  unfold listVisit
  dsimp only
  split
  · rfl
  · rw [passes_modY]
    exact getP_modP_keeps Ptn.passes (fun _ => by rfl) p q n
theorem passes_takeLists (clk : Clock) (p i k q : Nat) (n : Node) : (getP (takeLists clk p i k n) q).passes = (getP n q).passes := by
  unfold takeLists
  split
  · rfl
  · rw [passes_modY]
    exact foldNode_inv (fun n => (getP n q).passes) _ _ (fun l n => passes_listVisit clk p i l q n) n
/-- WIDEN visits further lists; it changes no pass. -/
theorem passes_widenQ (clk : Clock) (p i q : Nat) (n : Node) : (getP (widenQ clk p i n) q).passes = (getP n q).passes := by
  unfold widenQ
  split
  · rfl
  · dsimp only
    split
    · rw [modYs, passes_modY, passes_takeLists]
    · rfl
theorem mget_dropPass {p : Nat} (hp : p < 8) (i : Nat) (a : Pass) (n : Node) : mget (getP (dropPass p i a n) p).passes i = none := by
  rw [dropPass, passes_delCtx, passes_delCtx, getP_modP_self n _ hp, mget_mdel, if_pos rfl]
/-- A pass without press blocks is gone, and any other is left with contexts of its own. -/
theorem mget_pressThreads {p i : Nat} {clk : Clock} {a b : Pass} {n : Node} (hp : p < 8) (h : mget (getP (pressThreads clk p i a n) p).passes i = some b) :
    b.ended = a.ended ∧ b.blocks = a.blocks ∧ a.blocks ≠ [] := by
  unfold pressThreads at h
  split at h
  · rw [mget_dropPass hp] at h
    cases h
  · rename_i hne
    dsimp only at h
    rw [getP_modP_self _ _ hp, mget_mset_self] at h
    obtain rfl := Option.some.inj h
    exact ⟨rfl, rfl, by simpa using hne⟩
theorem length_of_mem_cutBlocks : ∀ (f i : Nat) (l : List Nat), ∀ k ∈ cutBlocks f i l, k.2.length ≤ 128
  | 0, _, _ => by simp [cutBlocks]
  | f + 1, i, l => by
    intro k hk
    rw [cutBlocks] at hk
    split at hk
    · cases hk
    · rcases List.mem_cons.1 hk with rfl | hk
      · exact List.length_take_le 128 l
      · exact length_of_mem_cutBlocks f (i + 1) (l.drop 128) k hk
/-- A pass that ends is gone, or holds press blocks. -/
theorem passEnd_blocks {p i : Nat} {clk : Clock} {host : Mem} {n : Node} {a b : Pass} (hp : p < 8) (ha : mget (getP n p).passes i = some a) (he : a.ended = false)
    (hb : mget (getP (passEnd p i clk host n) p).passes i = some b) : b.ended = true ∧ b.blocks ≠ [] ∧ ∀ k ∈ b.blocks, k.2.length ≤ 128 := by
  simp only [passEnd, ha, he, Bool.false_eq_true, if_false] at hb
  split at hb
  · rw [mget_dropPass hp] at hb
    cases hb
  split at hb
  · rw [mget_dropPass hp] at hb
    cases hb
  · rw [foldNode_inv (fun n => (getP n p).passes) _ _ (fun r n => by rw [passes_widenQ, passes_modY])] at hb
    obtain ⟨hend, hblk, hne⟩ := mget_pressThreads hp hb
    rw [hend, hblk]
    exact ⟨rfl, hne, length_of_mem_cutBlocks _ _ _⟩

/-! ### Press blocks (R79) -/

theorem pressUnit_presses {p i blk core f : Nat} {clk : Clock} {host : Mem} {n n1 m : Node} {a b : Pass} {rows : List Nat} {c : Coll} {y : GList} (ha : mget (getP n p).passes i = some a)
    (hrows : mget a.blocks blk = some rows) (hcore : core < 64) (hown : (getP n p).ent.cores.getLsbD core = true) (hctx : pressThread clk p i a n = some (b, n1)) (hlist : (passList n p b).isSome = true)
    (hm : readAll clk p 0 (passTok (getP n p) b) b.ctx (rowLocs p b rows) (rowLocs p b rows) n1 = m) (hread : passList m p b = some (c, f, y)) :
    pressUnit p i blk core clk host n = endPress clk p i blk b
      (modP p (fun z => { z with ctxs := z.ctxs.map (fun k => if (passQs z b).any (fun q => q.ctx == k.1) then (k.1, { k.2 with core := core }) else k) })
        (foldNode b.members (pressMember clk p core c b y rows) (if c.desc.metric = 3 then m else heatCodes p b rows m))) := by
  have hgo : (!(decide (core < 64) && (getP n p).ent.cores.getLsbD core) || (passList n p b).isNone) = false := by
    simpa [hcore, hown, Option.isSome_iff_ne_none] using hlist
  simp only [pressUnit, ha, hrows, hctx, Option.bind_some, Option.map_some, hgo, hm, hread, Bool.false_eq_true, if_false]

/-! ### Selections (R80, R120, R122) -/

/-- The deep-select core that serves a query (R14). -/
def selectCore (x : Ptn) (y : Query) : Nat := deepFor x (((mget x.ctxs y.ctx).map (·.core)).getD 0xFFFF)
/-- A selection above k = 64 stands in the order of arrival of its deep-select core. -/
def queueSelect (p i : Nat) (y : Query) (n : Node) : Node :=
  if (getP n p).selQ.any (fun s => s.2 == i) then n
  else modP p (fun x => { x with selQ := x.selQ ++ [(selectCore x y, i)] }) n
theorem queueSelect_queued {p i : Nat} {n : Node} {s : Nat × Nat} (y : Query) (h : (getP n p).selQ.find? (fun q => q.2 == i) = some s) : queueSelect p i y n = n :=
  if_pos (List.any_eq_true.2 ⟨s, List.mem_of_find?_eq_some h, List.find?_some h⟩)
/-- A selection that arrives takes the last place. -/
theorem queueSelect_arrives {p i : Nat} {n : Node} (y : Query) (h : ∀ q ∈ (getP n p).selQ, q.2 ≠ i) :
    queueSelect p i y n = modP p (fun x => { x with selQ := x.selQ ++ [(selectCore (getP n p) y, i)] }) n :=
  (if_neg (by simpa using fun a ha => h (a, i) ha rfl)).trans (modP_congr rfl)
theorem find?_append_last {α : Type} {c : α → Bool} {l : List α} {a : α} (hl : ∀ b ∈ l, c b = false) (ha : c a = true) : (l ++ [a]).find? c = some a := by
  rw [List.find?_append, List.find?_eq_none.2 fun b hb => by simp [hl b hb], Option.none_or, List.find?_cons_of_pos ha]

section
variable {p i : Nat} {clk : Clock} {host : Mem} {n : Node} {y : Query} (hy : getY n p i = some y) (hover : pressOver (getP n p) i y = true) (hst : (getP n p).st ≠ .resetting)
include hy hover hst
theorem selectTop_small (hk : y.k ≤ 64) : selectTop p i clk host n = selectNow clk p i y n := by
  simp [selectTop, hy, hover, hst, hk]
/-- Above k = 64 the first selection at the deep-select core runs, once it has the space it needs; any other waits. -/
theorem selectTop_deep {core : Nat} {m : Node} (hk : 64 < y.k) (hm : queueSelect p i y n = m) (hq : (getP m p).selQ.find? (fun q => q.2 == i) = some (core, i)) :
    selectTop p i clk host n =
      if (getP m p).selQ.find? (fun q => q.1 == core) ≠ some (core, i) then selectWait clk p i core 2 y m
      else if 65536 < y.k ∧ freeT1 m p < 24 * y.k then selectWait clk p i core 4 y m
      else selectNow clk p i y (delKids p y.ctx 7 (modP p (fun z => { z with selQ := z.selQ.filter (fun q => q.2 != i) }) m)) := by
  have hgo : (!pressOver (getP n p) i y || (getP n p).st == .resetting) = false := by simp [hover, hst]
  unfold queueSelect selectCore at hm
  simp only [selectTop, hy, hgo, Bool.false_eq_true, if_false, if_neg (show ¬ y.k ≤ 64 by omega), hm, hq]
/-- A selection that finds its deep-select core without others runs at once. -/
theorem selectTop_arrives {m : Node} (hp : p < 8) (hk : 64 < y.k) (hnew : ∀ q ∈ (getP n p).selQ, q.2 ≠ i) (hidle : ∀ q ∈ (getP n p).selQ, q.1 ≠ selectCore (getP n p) y)
    (hm : modP p (fun x => { x with selQ := x.selQ ++ [(selectCore (getP n p) y, i)] }) n = m) (hroom : y.k ≤ 65536 ∨ 24 * y.k ≤ freeT1 m p) :
    selectTop p i clk host n = selectNow clk p i y (delKids p y.ctx 7 (modP p (fun z => { z with selQ := z.selQ.filter (fun q => q.2 != i) }) m)) := by
  have hselQ : (getP m p).selQ = (getP n p).selQ ++ [(selectCore (getP n p) y, i)] := by rw [← hm, getP_modP_self n _ hp]
  have hplace : (getP m p).selQ.find? (fun q => q.2 == i) = some (selectCore (getP n p) y, i) := by
    rw [hselQ]
    exact find?_append_last (fun q hq => by simpa using hnew q hq) (beq_self_eq_true i)
  have hfirst : (getP m p).selQ.find? (fun q => q.1 == selectCore (getP n p) y) = some (selectCore (getP n p) y, i) := by
    rw [hselQ]
    exact find?_append_last (fun q hq => by simpa using hidle q hq) (beq_self_eq_true _)
  rw [selectTop_deep hy hover hst hk ((queueSelect_arrives y hnew).trans hm) hplace, if_neg (not_not.2 hfirst), if_neg (by omega)]
end

/-- Settles O40: each command by its own lemma, a selection by its size and its place in the order of arrival. -/
theorem passesRun : Obligations.PassesRun := by
  refine ⟨?_, ?_, ?_, ?_, ?_⟩
  · intro e p s ha
    exact run_to ha rfl
  · intro e p core s x g ha hp hx hs hg hroom
    subst hx
    obtain ⟨a, gs, hview, hlen, hlist, hcoll, hgen, hend, hnear, hmem⟩ := passLaunch_launches (host := hostOf e s) hp hs hg hroom
    simp only [launchView, Prod.mk.injEq] at hview
    obtain ⟨hpasses, hnext, hcolls, hgather⟩ := hview
    exact ⟨_, a, run_ok ha, hnext, by rw [endsWith_node, hpasses, mget_mset_self], hlist, hcoll, hgen, hend, hnear, hmem, rfl, hcolls, by rw [endsWith_node, hgather]; exact hlen⟩
  · intro e p i s x a ha hp hx hget hend
    subst hx
    exact ⟨_, run_ok ha, rfl, fun b hb => passEnd_blocks (host := hostOf e s) hp hget hend hb⟩
  · intro e p i blk core s x a b rows c f y n m ha hx hget hrows hcore hown hctx hlist hm hread
    subst hx
    exact run_to ha (pressUnit_presses hget hrows hcore hown hctx hlist hm hread)
  · intro e p i s x y ha hx hy hover hst
    subst hx
    refine ⟨fun hk => run_to ha (selectTop_small hy hover hst hk), fun core hk hq => ?_, fun m hk hnew hp hm hroom => ?_⟩
    · have hdeep := selectTop_deep (clk := clkOf e s) (host := hostOf e s) hy hover hst hk (queueSelect_queued y hq) hq
      refine ⟨fun hlater => run_to ha ?_, fun hfirst => ⟨fun hbig hfull => run_to ha ?_, fun hroom => run_to ha ?_⟩⟩
      · rw [hdeep, if_pos hlater]
      · rw [hdeep, if_neg (not_not.2 hfirst), if_pos ⟨hbig, hfull⟩]
      · rw [hdeep, if_neg (not_not.2 hfirst), if_neg (by omega)]
    · exact run_to ha (selectTop_arrives hy hover hst hp hk (fun q hq => (hnew q hq).1) (fun q hq => (hnew q hq).2) hm hroom)

end Sys2Proof.Machine
end

section
/-! Proofs for chapter 06: merge steps keep the counts, and collectives run (R127 to R136, R370). -/

namespace Sys2Proof.Machine

/-! ### The best-first order and the removal of duplicates -/

theorem insertBy_eq_orderedInsert {α : Type} (before : α → α → Bool) (x : α) : ∀ l : List α, insertBy before x l = l.orderedInsert (fun a b => before a b = true) x
  | [] => rfl
  | y :: ys => by rw [insertBy, List.orderedInsert, insertBy_eq_orderedInsert before x ys]
theorem sortBy_perm {α : Type} (before : α → α → Bool) (l : List α) : (sortBy before l).Perm l := by
  have hsort : sortBy before l = l.insertionSort (fun a b => before a b = true) :=
    congrArg (fun f => l.foldr f []) (funext₂ fun x ys => insertBy_eq_orderedInsert before x ys)
  rw [hsort]
  exact List.perm_insertionSort _ l
theorem candSort_perm (larger : Bool) (l : List Cand) : (candSort larger l).Perm l := sortBy_perm _ l

/-- One candidate of the fold that `dedup` is. -/
def keepNew (acc : List Cand) (c : Cand) : List Cand := if acc.any (fun d => d.id == c.id) then acc else acc ++ [c]
theorem foldl_keepNew_sublist : ∀ l acc : List Cand, (l.foldl keepNew acc).Sublist (acc ++ l)
  | [], acc => by simp
  | c :: l, acc => by
    refine (foldl_keepNew_sublist l (keepNew acc c)).trans ?_
    unfold keepNew
    split
    · exact (List.sublist_cons_self c l).append_left acc
    · simp
theorem dedup_sublist (l : List Cand) : (dedup l).1.Sublist l := foldl_keepNew_sublist l []
/-- Every candidate is kept or counted as a duplicate. -/
theorem length_dedup (l : List Cand) : (dedup l).1.length + (dedup l).2 = l.length := Nat.add_sub_of_le (dedup_sublist l).length_le

/-! ### A merge step (R130) -/

/-- The entries of the inputs. -/
def mergeAll (ins : List Sel) : List Cand := (ins.map (·.entries)).flatten
/-- Those of them with a key. -/
def mergeGood (ins : List Sel) : List Cand := (mergeAll ins).filter (fun c => !isNaN32 c.key)
/-- These once per ID, best first, and the number removed. -/
def mergeUnique (larger : Bool) (ins : List Sel) : List Cand × Nat := dedup (candSort larger (mergeGood ins))
theorem mergeGood_sublist (ins : List Sel) : (mergeGood ins).Sublist (mergeAll ins) := List.filter_sublist
theorem length_mergeAll (ins : List Sel) : (mergeAll ins).length = (ins.map (fun i => i.entries.length)).sum := by
  rw [mergeAll, List.length_flatten, List.map_map]
  rfl
theorem length_mergeUnique (larger : Bool) (ins : List Sel) : (mergeUnique larger ins).1.length + (mergeUnique larger ins).2 = (mergeGood ins).length :=
  (length_dedup _).trans (candSort_perm larger _).length_eq
theorem mem_mergeAll_of_mem_mergeUnique {larger : Bool} {ins : List Sel} {c : Cand} (h : c ∈ (mergeUnique larger ins).1) : c ∈ mergeAll ins :=
  (mergeGood_sublist ins).subset ((candSort_perm larger _).mem_iff.1 ((dedup_sublist _).subset h))

section
variable (larger : Bool) (k : Nat) (ins : List Sel) (lost : Nat)
theorem mergeStep_entries : (mergeStep larger k ins lost).1.entries = (mergeUnique larger ins).1.take k := rfl
theorem mergeStep_parts : (mergeStep larger k ins lost).1.parts = (ins.map (·.parts)).sum := List.sum_eq_foldl_nat.symm
theorem mergeStep_missing : (mergeStep larger k ins lost).1.missing = (ins.map (·.missing)).sum + lost := by
  rw [List.sum_eq_foldl_nat]
  rfl
theorem mergeStep_nanCount : (mergeStep larger k ins lost).1.nanCount = (ins.map (·.nanCount)).sum + ((mergeAll ins).length - (mergeGood ins).length) := by
  rw [List.sum_eq_foldl_nat]
  rfl
theorem mergeStep_dupCount : (mergeStep larger k ins lost).1.dupCount = (ins.map (·.dupCount)).sum + (mergeUnique larger ins).2 := by
  rw [List.sum_eq_foldl_nat]
  rfl
theorem mergeStep_outCount : (mergeStep larger k ins lost).1.outCount = (ins.map (·.outCount)).sum + ((mergeUnique larger ins).1.drop k).length := by
  rw [List.sum_eq_foldl_nat]
  rfl
end
/-- The candidates that a selection accounts for: held, NaN, duplicates and left out. -/
theorem sum_accounted (ins : List Sel) :
    (ins.map (fun i => i.entries.length + i.nanCount + i.dupCount + i.outCount)).sum =
      (mergeAll ins).length + (ins.map (·.nanCount)).sum + (ins.map (·.dupCount)).sum + (ins.map (·.outCount)).sum := by
  simp only [List.sum_map_add, length_mergeAll]

/-- Settles O42: each entry of the inputs is NaN, a duplicate, held or left out, in that order of removal. -/
theorem mergeStepsKeepTheCounts : Obligations.MergeStepsKeepTheCounts := by
  intro larger k lost ins
  refine ⟨?_, mergeStep_parts .., mergeStep_missing .., fun c hc => ?_, ?_⟩
  · rw [mergeStep_entries]
    exact List.length_take_le ..
  · have hall : c ∈ mergeAll ins := mem_mergeAll_of_mem_mergeUnique (List.mem_of_mem_take hc)
    obtain ⟨_, hl, hcl⟩ := List.mem_flatten.1 hall
    obtain ⟨i, hi, rfl⟩ := List.mem_map.1 hl
    exact ⟨i, hi, hcl⟩
  · have hgood : (mergeGood ins).length ≤ (mergeAll ins).length := (mergeGood_sublist ins).length_le
    have huniq := length_mergeUnique larger ins
    rw [mergeStep_entries, mergeStep_nanCount, mergeStep_dupCount, mergeStep_outCount, sum_accounted, List.length_take, List.length_drop]
    omega

/-! ### Groups and fan-outs (R127, R129, R370) -/

/-- The group that a descriptor and its member table define. -/
def groupOf (bs : List Byte) (vals : List Nat) (old : Option Group) : Group :=
  { num := leAt bs 0 1, level := leAt bs 1 1, size := leAt bs 2 2, myRank := leAt bs 4 2, fanIn := if leAt bs 6 1 = 0 then 8 else leAt bs 6 1, waitUs := if leAt bs 8 4 = 0 then 2000 else leAt bs 8 4
    members := vals.map (fun v => (BitVec.ofNat 32 v, v / 2 ^ 32)), collId := BitVec.ofNat 64 (leAt bs 0x18 8), nextSeq := (old.map (·.nextSeq)).getD 1 }
theorem collectiveDefine_defines {clk : Clock} {host : Mem} {t : Tok} {x : Sqe} {n : Node} {p : Nat} {bs : List Byte} {vals : List Nat} (hp : (getFn n t.fn).map = some p) (hbs : Mem.readN host x.addr0 64 = bs)
    (hgood : groupBad n (getP n p) bs = none) (hvals : (List.range (leAt bs 2 2)).map (fun i => leNat (Mem.readN host (leAt bs 0x10 8 + 8 * i) 8)) = vals) (hmem : membersBad 0 vals [] = none)
    (hmine : vals.getD (leAt bs 4 2) 0 = n.lnk.nodeId.toNat + 2 ^ 32 * p) :
    collectiveDefine clk host t x n =
      post clk t stSuccess 0 (modP p (fun y => { y with groups := mset y.groups (leAt bs 0 1) (groupOf bs vals (mget (getP n p).groups (leAt bs 0 1))) }) n) := by
  simp only [collectiveDefine, hp, hbs, hgood, hvals, hmem, groupOf]
  rw [if_neg (not_not.2 hmine)]
  cases mget (getP n p).groups (leAt bs 0 1) <;> rfl

/-- What a fan-out, a partial and a closure name: the instance and its duplicate tag; and the sender's rank in a partial, the member's in a closure. -/
def msgInst (m : Msg) : W64 := BitVec.ofNat 64 (leAt m.body 0 8)
def msgDup (m : Msg) : W64 := BitVec.ofNat 64 (leAt m.body 8 8)
def msgRank (m : Msg) : Nat := leAt m.body 0x10 2
/-- The collection that a fan-out names, and the block and data of its search. -/
def fanColl (m : Msg) : W64 := BitVec.ofNat 64 (leAt m.body 0x10 8)
def fanBlock (m : Msg) : List Byte := slice m.body 0x20 128
def fanData (m : Msg) : List Byte := m.body.drop 0xA0
/-- The instance that a fan-out starts at a member that runs a search of its own. -/
def memberInst (m : Msg) (x : Ptn) (g : Group) (gr : Graph) (c : Coll) : Inst :=
  { inst := msgInst m, dupTag := msgDup m, group := g, root := leAt m.body 0x1A 2, rank := g.myRank, query := some x.nextQ, par := withDefaults gr (sparamsOf (fanBlock m))
    k := if hasStage gr .score then stagePar gr .score 8 2 16 else (withDefaults gr (sparamsOf (fanBlock m))).k, larger := largerOf c }
theorem leAt_slice (bs : List Byte) {off len k w : Nat} (h : k + w ≤ len) : leAt (slice bs off len) k w = leAt bs (off + k) w := by
  unfold leAt slice
  rw [List.drop_take, List.take_take, List.drop_drop, Nat.min_eq_left (by omega)]
theorem graph_fanBlock (m : Msg) : (sparamsOf (fanBlock m)).graph = leAt m.body 0x22 1 := leAt_slice m.body (by omega)
theorem fanout_starts {clk : Clock} {m : Msg} {n n1 : Node} {x : Ptn} {g : Group} {ck : Checked} {gr : Graph} {slot j : Nat} {c : Coll} (hx : getP n m.dstPtn = x) (hg : mget x.groups (leAt m.body 0x18 1) = some g)
    (hnew : x.insts.any (fun i => i.2.inst == msgInst m && i.2.group.num == g.num && !i.2.hedged) = false) (hgr : graphOf x (leAt m.body 0x22 1) = some gr)
    (hck : memberCheck x (fanColl m) (fanBlock m) (fanData m) = some ck) (hc : x.colls.find? (fun c => c.2.desc.collId == fanColl m) = some (slot, c))
    (hadd : addInst clk m.dstPtn (memberInst m x g gr c) (fanColl m) (fanBlock m) (fanData m) n = (j, n1)) :
    fanout clk m n = startQuery clk m.dstPtn none false none (some j) g.myRank ck n1 := by
  have hgraph := graph_fanBlock m
  simp only [msgInst, msgDup, fanColl, fanBlock, fanData, memberInst] at hnew hck hc hadd hgraph
  simp only [fanout, hx, hg, hnew, hck, hc, hgraph, hgr, Option.isSome_some, Option.isNone_some, if_true, hadd]
  rfl

/-! ### Partials, waits and closures (R132, R135, R136) -/

theorem partialRule_bad {clk : Clock} {m : Msg} {n : Node} (h : m.body.length < 0x98) : partialRule clk m n = count m.dstPtn .mergeBad 1 n := if_pos h

/-- A child's slot holds the partial of a message. -/
def childGot (clk : Clock) (m : Msg) (c : Child) : Child :=
  { c with got := some (partialSel m.body false), copy := false, src := m.src, srcP := m.srcPtn, inst := msgInst m, at_ := clk.node }
section
variable {clk : Clock} {m : Msg} {n : Node} {j : Nat} {i : Inst} (hcopy : (leAt m.body 0x16 2).testBit 8 = false)
  (hm : matchInst (getP n m.dstPtn) (msgInst m) (msgDup m) (msgRank m) false = some (j, i)) (hst : i.par.wantStats = false)
  (hfull : m.body.length = 0x98 + 24 * leAt m.body 0x18 4) (hk : leAt m.body 0x18 4 ≤ i.k)
include hcopy hm hst hfull hk
theorem partialRule_takes {c : Child} (hc : i.kids.find? (fun c => c.rank == msgRank m) = some c) (hnow : clk.node ≤ i.since + 300 * i.group.waitUs) (hgot : c.got = none) :
    partialRule clk m n = tryMerge clk m.dstPtn j (modI m.dstPtn j (fun i => { i with kids := modAll (fun c => c.rank == msgRank m) (childGot clk m) i.kids }) n) := by
  unfold msgInst msgDup msgRank at *
  simp only [partialRule, hcopy, hm, hst, hc, hgot]
  rw [if_neg (by omega), if_neg (by simp [hfull, hk]), if_neg (Nat.not_lt.2 hnow)]
  rfl
theorem partialRule_late (hnow : i.since + 300 * i.group.waitUs < clk.node) :
    partialRule clk m n = sendClosure clk m.dstPtn none m.level (m.src, m.srcPtn) (msgInst m) (msgDup m) (msgRank m)
      (count m.dstPtn .mergeLate 1 (waitOver clk m.dstPtn j n)) := by
  unfold msgInst msgDup msgRank at *
  simp only [partialRule, hcopy, hm, hst]
  rw [if_neg (by omega), if_neg (by simp [hfull, hk]), if_pos hnow]
end

theorem mergeWait_over {p j : Nat} {clk : Clock} {host : Mem} {n : Node} {i : Inst} (hi : getI n p j = some i) (hh : i.hedged = false) (hnow : i.since + 300 * i.group.waitUs ≤ clk.node) :
    mergeWait p j clk host n = waitOver clk p j n := by
  simp [mergeWait, hi, hh, Nat.not_lt.2 hnow]

theorem closureRule_stops {clk : Clock} {m : Msg} {n : Node} {j : Nat} {i : Inst}
    (hi : (getP n m.dstPtn).insts.find? (fun i => i.2.inst == msgInst m && i.2.dupTag == msgDup m && i.2.rank == msgRank m && !i.2.isRoot) = some (j, i)) :
    closureRule clk m n = if i.hedged then endCopy clk m.dstPtn j stSuperseded (count m.dstPtn .superseded 1 n) else stopInst clk m.dstPtn j false (count m.dstPtn .superseded 1 n) := by
  unfold msgInst msgDup msgRank at hi
  simp only [closureRule, hi]

/-- A delivered message whose rule makes a node. -/
theorem msg_to {kind l : Nat} {m : Msg} {rule : Clock → Node → Node} {e : Env} {s : State} {n z : Node} (hd : Delivered kind l m e s n) (hr : rule (clkOf e s) n = z) :
    run e (onMsg kind l m rule) s = .next (endsWith e s z) := hr ▸ msg_ok hd

/-- Settles O43: each clause is the rule of its command or message. -/
theorem collectivesRun : Obligations.CollectivesRun := by
  refine ⟨?_, ?_, ?_, ?_, ?_, ?_⟩
  · intro e q s t x n p bs vals ht hp hbs hgood hvals hmem hmine
    exact host_to ht (collectiveDefine_defines hp hbs hgood hvals hmem hmine)
  · intro e l m s n n1 g ck gr slot j c hd hg hnew hgr hck hc hadd
    exact msg_to hd (fanout_starts rfl hg hnew hgr hck hc hadd)
  · intro e l m s n j i c hd _ hcopy hm hst hfull hk hc
    exact ⟨fun hnow hgot => msg_to hd (partialRule_takes hcopy hm hst hfull hk hc hnow hgot), fun hnow => msg_to hd (partialRule_late hcopy hm hst hfull hk hnow)⟩
  · intro e l m s n hd hlen
    exact msg_to hd (partialRule_bad hlen)
  · intro e p j s i ha hi hh hnow
    exact run_to ha (mergeWait_over hi hh hnow)
  · intro e l m s n j i hd hi
    have hstop := closureRule_stops (clk := clkOf e s) hi
    exact ⟨fun hh => msg_to hd (by rw [hstop, hh]; rfl), fun hh => msg_to hd (by rw [hstop, hh]; rfl)⟩

end Sys2Proof.Machine
end

section
/-! Proofs for chapter 07: models load, launch, stream and end (R150 to R154). -/

namespace Sys2Proof.Machine

/-! ### Loads (R150, R151, log 157) -/

/-- A model whose copy is on its way for command `t`. -/
def startLoad (p m : Nat) (y : Mdl) (t : Tok) (n : Node) : Node := modP p (fun z => { z with mdls := mset z.mdls m { y with load := some t } }) n
/-- A model whose image has come: it is the next version, and the copy before it is kept for the batches that pin it. -/
def commitLoad (y : Mdl) (img : List Byte) : Mdl :=
  { y with version := y.version + 1, cur := some img, load := none, old := y.old ++ (y.cur.map (fun c => (y.version, c))).toList }

section
variable {whole : Bool} {clk : Clock} {host : Mem} {t : Tok} {x : Sqe} {n : Node} {p : Nat} {d : ModelDesc} {y : Mdl}
  (hp : (getFn n t.fn).map = some p) (hd : modelOf (getP n p) x.target = some d) (hlen : x.arg0 = imageBytes d) (hy : (mget (getP n p).mdls x.target).getD {} = y)
include hp hd hlen hy
theorem modelLoad_busy (hl : y.load.isSome = true) : modelLoad whole clk host t x n = post clk t stBusy 0 n := by
  simp only [modelLoad, hp, hd, hlen, hy, hl, ne_eq, not_true_eq_false, if_false, if_true]
theorem modelLoad_noSpace (hl : y.load = none) (hr : reserveCopy p x.target (y.version + 1) d n = none) : modelLoad whole clk host t x n = post clk t stNoSpace 0 n := by
  simp [modelLoad, hp, hd, hlen, hy, hl, hr]
/-- With the space of its copy a load starts, and a whole one comes to its end. -/
theorem modelLoad_starts {m : Node} (hl : y.load = none) (hr : reserveCopy p x.target (y.version + 1) d n = some m) :
    modelLoad whole clk host t x n = if whole then modelFinish p x.target clk host (startLoad p x.target y t m) else startLoad p x.target y t m := by
  simp [modelLoad, startLoad, hp, hd, hlen, hy, hl, hr]
end

section
variable {p m : Nat} {clk : Clock} {host : Mem} {n : Node} {y : Mdl} {t : Tok} {c : Cmd} {img : List Byte} (hy : mget (getP n p).mdls m = some y) (hl : y.load = some t) (hc : cmdOf n t = some c)
  (himg : Mem.readN host c.entry.addr0 c.entry.arg0 = img)
include hy hl hc himg
theorem modelFinish_commits (hdig : sha384 img = Mem.readN host c.entry.addr1 48) :
    modelFinish p m clk host n = post clk t stSuccess 0 (freeCopies clk p m (modP p (fun z => { z with mdls := mset z.mdls m (commitLoad y img) }) n)) := by
  simp only [modelFinish, hy, hl, hc, himg]
  exact if_neg (not_not.2 hdig)
theorem modelFinish_drops (hdig : sha384 img ≠ Mem.readN host c.entry.addr1 48) : modelFinish p m clk host n = invalid clk t 0 1 (dropLoad clk p m n) := by
  simp only [modelFinish, hy, hl, hc, himg]
  exact if_pos hdig
end

/-! ### Batches (R152 to R154) -/

/-- The start of a batch of a model that is held whole: its tasks leave the model's queue, and their threads run. -/
def startBatch (clk : Clock) (p : Nat) (b : Batch) (n : Node) : Node :=
  count p .mdlBatches 1 (modP p (fun a => { a with
    mdls := mmod a.mdls b.model (fun z => { z with queue := z.queue.drop b.tasks.length, nextRec := 0, window := [] })
    batches := mset a.batches a.nextB b, nextB := a.nextB + 1 }) (foldNode b.tasks (fun t n => stepCtx clk p t.ctx 3 n) n))

section
variable {p m : Nat} {clk : Clock} {host : Mem} {n : Node} {y : Mdl} {d : ModelDesc} (hy : mget (getP n p).mdls m = some y) (hd : modelOf (getP n p) m = some d) (hs : schedules (getP n p) = true)
include hy hd hs

/-- A due batch of a model that is held whole starts where its cores are free and its tasks get their contexts. -/
theorem batchLaunch_whole {k : Task} {ks ts : List Task} {z : Node} (hcur : y.cur.isSome = true) (hq : y.queue = k :: ks) (hdue : batchDue (pctr clk p) y.queue = true) (hwhole : d.flags.testBit 1 = false)
    (hcores : k.cores ≤ coresLeft (getP n p))
    (hts : taskThreads clk p ((batchOf y.queue).map (fun t => { t with thr := effThr (getP n p), forceN8 := bit (getP n p).qntCfg 24 })) n = some (ts, z)) :
    batchLaunch p m clk host n = startBatch clk p { model := m, tasks := ts, ver := y.version, cores := k.cores, at_ := pctr clk p } z := by
  have hlead : ((y.queue.head?).map (·.cores)).getD 0 = k.cores := by rw [hq]; rfl
  have hgo : (!schedules (getP n p) || y.cur.isNone || !batchDue (pctr clk p) y.queue || (d.flags.testBit 1 && (getP n p).batches.any (fun b => b.2.model == m)) || decide (coresLeft (getP n p) < k.cores)) = false := by
    simpa [hs, hdue, hwhole, hcores, Option.isSome_iff_ne_none] using hcur
  simp only [batchLaunch, hy, hd, hlead, hgo, hts]
  simp only [hwhole, Bool.false_eq_true, if_false, startBatch]

/-- The record that has come adds its layer behind the one before it; the fetch after it starts. -/
theorem layerFetched_runs {i j : Nat} {b : Batch} (hb : (getP n p).batches.find? (fun b => b.2.model == m) = some (i, b)) (hrec : y.nextRec = j + 1) (hslot : j < d.window ∨ b.ends.getD (j - d.window) 0 ≤ pctr clk p) {ends : List Nat}
    (hends : b.ends ++ [max (pctr clk p) (b.ends.getLast?.getD b.at_) + layerTime d b j] = ends) :
    layerFetched p m clk host n = modP p (fun x => { x with
      mdls := mmod x.mdls m (fun z => { z with window := (z.window ++ [j]).filter (fun k => decide (pctr clk p < ends.getD k 0)), nextRec := if j + 1 < layersOf d then j + 2 else 0 })
      batches := mset x.batches i { b with layer := j + 1, ends := ends } }) n := by
  have hgo : (decide (y.nextRec = 0) || !schedules (getP n p) || (decide (d.window ≤ j) && decide (pctr clk p < b.ends.getD (j - d.window) 0))) = false := by
    simpa [hrec, hs, imp_iff_not_or] using hslot
  simp only [layerFetched, hy, hd, hb, hrec, Nat.add_sub_cancel, hends] at hgo ⊢
  rw [if_neg (by simpa using hgo)]
end

/-- What a batch reads of its copy: words in error are met, and the pages used gain heat (R188, R182). -/
def readBatch (clk : Clock) (p : Nat) (d : ModelDesc) (b : Batch) (n : Node) : Node :=
  foldNode (modelReads d b.model b.ver b.tasks) (fun r n => heatUse p r.1 r.2.1 r.2.2 false n)
    (readAll clk p 0 (b.tasks.head?.bind (fun t => (taskParent n p t).2)) ((b.tasks.head?.map (·.ctx)).getD noCtx) (modelLocs p b.model b.ver d b.tasks true) (modelLocs p b.model b.ver d b.tasks false) n)
/-- A batch of the current copy that has run frees what it pins, and its tasks continue. -/
theorem batchEnd_continues {p i : Nat} {clk : Clock} {host : Mem} {n z : Node} {b : Batch} {y : Mdl} {d : ModelDesc} (hb : mget (getP n p).batches i = some b) (hy : mget (getP n p).mdls b.model = some y)
    (hd : modelOf (getP n p) b.model = some d) (hs : schedules (getP n p) = true) (hran : d.flags.testBit 1 = true → layersOf d ≤ b.layer ∧ b.ends.getLast?.getD 0 ≤ pctr clk p) (hver : y.version = b.ver)
    (hz : readBatch clk p d b n = z) :
    batchEnd p i clk host n = b.tasks.foldl (endTask clk p d (modelRead (getP z p) b.model b.ver d (y.cur.getD [])))
      (freeCopies clk p b.model (modP p (fun x => { x with batches := mdel x.batches i }) z)) := by
  have hgo : (!schedules (getP n p) || (d.flags.testBit 1 && (decide (b.layer < layersOf d) || decide (pctr clk p < b.ends.getLast?.getD 0)))) = false := by
    simpa [hs] using hran
  unfold readBatch at hz
  simp only [batchEnd, hb, hy, hd, hver, hgo, hz, Bool.false_eq_true, if_false, if_true]

/-- Settles O44: each clause is the lemma of its body. -/
theorem modelsRun : Obligations.ModelsRun := by
  refine ⟨?_, ?_, ?_, ?_, ?_⟩
  · intro e q s t x n p d y ht hp hd hlen hy
    exact ⟨fun hl => ⟨host_to ht (modelLoad_busy hp hd hlen hy hl), host_to ht (modelLoad_busy hp hd hlen hy hl)⟩, fun hl hr => host_to ht (modelLoad_noSpace hp hd hlen hy hl hr),
      fun m hl hr => ⟨host_to ht (modelLoad_starts hp hd hlen hy hl hr), host_to ht (modelLoad_starts hp hd hlen hy hl hr)⟩⟩
  · intro e p m s y t c img ha hy hl hc himg
    exact ⟨fun hdig => run_to ha (modelFinish_commits hy hl hc himg hdig), fun hdig => run_to ha (modelFinish_drops hy hl hc himg hdig)⟩
  · intro e p m s x y d k ks ts n ha hx hy hd hs hcur hq hdue hwhole hcores hts
    subst hx
    exact run_to ha (batchLaunch_whole hy hd hs hcur hq hdue hwhole hcores hts)
  · intro e p m i s x y d b j ends ha hx hy hd hs hb hrec hslot hends
    subst hx
    exact run_to ha (layerFetched_runs hy hd hs hb hrec hslot hends)
  · intro e p i s x b y d n ha hx hb hy hd hs hran hver hz
    subst hx
    exact run_to ha (congrArg (settleXfers (clkOf e s) p) (batchEnd_continues hb hy hd hs hran hver hz))

end Sys2Proof.Machine
end

section
/-! Proofs for chapter 08: tables come and go (R158, R161), their rows are written, read and pooled (R160 to R165), adds apply and rows migrate (R171 to R174). -/

namespace Sys2Proof.Machine

/-! ### Commands that name a table -/

/-- A job on a table that serves is the work it does there. -/
theorem onTbl_serves {g : Clock → Mem → Tok → Sqe → Nat → Tbl → Node → Node} {clk : Clock} {host : Mem} {t : Tok} {x : Sqe} {n : Node} {p : Nat} {y : Tbl}
    (hp : (getFn n t.fn).map = some p) (hy : getT n p x.target = some y) (hr : tblRefuses (some y) = none) : onTbl g clk host t x n = g clk host t x p y n := by
  simp only [onTbl, hp, hy, hr]
/-- The same for a table operation descriptor; an `UPDATE` takes a train table alone. -/
theorem onTop_serves {upd : Bool} {g : Clock → Mem → Tok → Sqe → Nat → TOp → Tbl → Node → Node} {clk : Clock} {host : Mem} {t : Tok} {x : Sqe} {n : Node} {bs : List Byte} {p : Nat} {y : Tbl}
    (hbs : Mem.readN host x.addr0 64 = bs) (hnames : topNames upd n t bs p y) (htrain : upd = true → y.train = true) : onTop upd g clk host t x n = g clk host t x p (topOf bs) y n := by
  obtain ⟨hp, hbad, hy, hr⟩ := hnames
  have hgo : (upd && !y.train) = false := by simpa using htrain
  simp only [onTop, hp, hbs, hbad, hy, hr, hgo, Bool.false_eq_true, if_false]

/-! ### Creation and drop (R158, R161) -/

/-- Both tiers and the Canopy have room for the table. -/
def roomForTbl (n : Node) (p : Nat) (d : Tbl) : Prop :=
  (tblBytes d.width d.rows d.hotRows d.policy).1 ≤ freeT1 n p ∧ (tblBytes d.width d.rows d.hotRows d.policy).2 ≤ freeT2 n p ∧
    d.canopyK + sumNat ((getP n p).tbls.map (fun y => y.2.canopyK)) ≤ 1024 * coresOf (getP n p)
/-- The table under its number, owned by this partition. -/
def addTbl (p k : Nat) (d : Tbl) (n : Node) : Node := modP p (fun y => { y with tbls := mset y.tbls k { d with own := { owner := n.lnk.nodeId, ownerP := p } } }) n

section
variable {clk : Clock} {host : Mem} {t : Tok} {x : Sqe} {n : Node} {p : Nat} {bs : List Byte} {d : Tbl} (hp : (getFn n t.fn).map = some p) (hbs : Mem.readN host x.addr0 64 = bs)
  (hok : tblBad (getP n p) bs = none) (hd : tblOf bs = d)
include hp hbs hok hd
theorem tableCreate_noRoom (h : ¬ roomForTbl n p d) : tableCreate clk host t x n = post clk t stNoSpace 0 n := by
  have hlack : freeT1 n p < (tblBytes d.width d.rows d.hotRows d.policy).1 ∨ freeT2 n p < (tblBytes d.width d.rows d.hotRows d.policy).2 ∨
      1024 * coresOf (getP n p) < d.canopyK + sumNat ((getP n p).tbls.map (fun y => y.2.canopyK)) := by unfold roomForTbl at h; omega
  simp only [tableCreate, hp, hbs, hok, hd]
  exact if_pos (by simpa [or_assoc] using hlack)
/-- Without room for one of its objects no table is made either. -/
theorem tableCreate_noObject (h : makeTbl p (leAt bs 0 1) d (addTbl p (leAt bs 0 1) d n) = none) : tableCreate clk host t x n = post clk t stNoSpace 0 n := by
  unfold addTbl at h
  simp only [tableCreate, hp, hbs, hok, hd, h, ite_self]
theorem tableCreate_makes {m : Node} (hroom : roomForTbl n p d) (h : makeTbl p (leAt bs 0 1) d (addTbl p (leAt bs 0 1) d n) = some m) :
    tableCreate clk host t x n = post clk t stSuccess 0 m := by
  obtain ⟨hT1, hT2, hcanopy⟩ := hroom
  unfold addTbl at h
  simp only [tableCreate, hp, hbs, hok, hd, h]
  exact if_neg (by simp [hT1, hT2, hcanopy])
end

/-- The drop of a table waits: it is in transfer, adds for it are left, or a query or a durable command still works on it. -/
def dropWaits (n : Node) (p tn : Nat) (y : Tbl) : Prop :=
  y.own.xfer.isSome = true ∨ (getP n p).adds.any (fun a => a.2.tbl == tn) = true ∨ (getP n p).queries.any (fun q => poolsFrom (getP n p) tn q.2) = true ∨ durOnTbl n p tn y = true

section
variable {clk : Clock} {p tn : Nat} {n : Node} {y : Tbl} {t : Tok} (hy : getT n p tn = some y) (ht : y.drop = some t)
include hy ht
theorem finishTblDrop_waits (h : dropWaits n p tn y) : finishTblDrop clk p tn n = n := by
  simp only [finishTblDrop, hy, ht]
  refine if_pos ?_
  unfold dropWaits at h
  simp only [Bool.or_eq_true]
  tauto
theorem finishTblDrop_ends (h : ¬ dropWaits n p tn y) :
    finishTblDrop clk p tn n = post clk t stSuccess 0 (modP p (fun x => { x with tbls := mdel x.tbls tn }) (dropNodeObj clk p .table tn (dropUses clk p (fun u => u == .home tn || u == .hot tn || u == .hotDir tn) n))) := by
  simp only [finishTblDrop, hy, ht]
  refine if_neg ?_
  unfold dropWaits at h
  simp only [Bool.or_eq_true]
  tauto
end

/-- Settles O45: a creation by the room it finds, a drop by what still works on the table. -/
theorem tablesComeAndGo : Obligations.TablesComeAndGo := by
  refine ⟨?_, ?_, ?_⟩
  · intro e q s t x n p bs d ht hp hbs hok hd
    refine ⟨fun m hT1 hT2 hcanopy hm => host_to ht (tableCreate_makes hp hbs hok hd ⟨hT1, hT2, hcanopy⟩ hm), fun hm => host_to ht (tableCreate_noObject hp hbs hok hd hm), fun hlack => host_to ht (tableCreate_noRoom hp hbs hok hd ?_)⟩
    rintro ⟨hT1, hT2, hcanopy⟩
    omega
  · intro e q s t x n p y ht hp hy hr
    exact host_to ht (onTbl_serves hp hy hr)
  · intro clk p tn n y t hy ht
    exact ⟨fun hxfer hadds hqueries hdur => finishTblDrop_ends hy ht (by simp [dropWaits, hxfer, hadds, hqueries, hdur]), finishTblDrop_waits hy ht⟩

/-! ### Rows (R160, R164) -/

section
variable {clk : Clock} {host : Mem} {t : Tok} {x : Sqe} {n : Node} {p : Nat} {y : Tbl} (hp : (getFn n t.fn).map = some p) (hy : getT n p x.target = some y) (hr : tblRefuses (some y) = none)
  (hrows : rowsBad y x = none)
include hp hy hr hrows
theorem tableWrite_sealed (hown : tblOwnRefuses y = none) (h : tblSealed (getP n p) x.target y = true) : tableWrite clk host t x n = post clk t stObjectSealed 0 n := by
  simp only [tableWrite, onTbl_serves hp hy hr, hrows, hown, h, if_true]
/-- A table that no hold keeps back takes its rows at once. -/
theorem tableWrite_writes {vs : List W32} (hown : tblOwnRefuses y = none) (hopen : tblSealed (getP n p) x.target y = false)
    (hvs : words32 (Mem.readN host x.addr0 (4 * (y.width * x.arg1))) (y.width * x.arg1) = vs) (hfin : firstBad vs = none) (hheld : tblHeld y = false) :
    tableWrite clk host t x n = finishCmd clk t (writeRows clk p x.target x.arg0 y.width t x.durable vs x.arg1 (markCmd t false true (modWait t (fun d => d) n))) := by
  simp only [tableWrite, onTbl_serves hp hy hr, hrows, hown, hopen, hvs, hfin, hheld, Bool.false_eq_true, if_false]
/-- Each row counts as an access before its words are read; what is copied is what the table holds after that. -/
theorem tableRead_copies {m : Node} {z : Tbl} {rs : List Nat} (hrs : (List.range x.arg1).map (x.arg0 + ·) = rs)
    (hm : foldNode rs (fun r n => readWords clk p (some t) 0xFFFFFFFF (rowWords p x.target y r) (isRow p x.target r) (heatRow p x.target r false n)) n = m) (hz : getT m p x.target = some z) :
    tableRead clk host t x n = post clk t (if rs.any (rowPoisoned z) then stDataPoison else stSuccess) 0 (emit (.data x.addr0 ((rs.map (rowBytes (getP m p) x.target z)).flatten)) m) := by
  simp only [tableRead, onTbl_serves hp hy hr, hrows, hrs, hm, hz, Option.getD_some]
end

/-! ### `POOL` (R162, R163, R165) -/

/-- The flag bytes of the bags: empty ones, and those that met poison. -/
def bagMarks (offs : List Nat) (outs : List (List W32 × Bool)) : List Byte :=
  List.zipWith (fun o k => BitVec.ofNat 8 (b2n (k.1 == k.2) + 2 * b2n o.2)) outs (offs.zip (offs.drop 1))
/-- The bags are pooled by a thread of the command, and while it runs the rows of the next `POOL` are prefetched. -/
theorem pool_answers {clk : Clock} {host : Mem} {t : Tok} {x : Sqe} {n n1 n2 m : Node} {p ci : Nat} {bs : List Byte} {y : Tbl} {ts : List Tri} {offs : List Nat} {outs : List (List W32 × Bool)}
    (hbs : Mem.readN host x.addr0 64 = bs) (hnames : topNames false n t bs p y) (hbags : readBags host (topOf bs) y.rows = .ok (ts, offs)) (hctx : addCtx p (threadCtx clk p 0x0A 3 (some t) n) n = (ci, n1))
    (hpool : poolBags clk p (topOf bs).table (some t) ci (preRows (getP n p) t (topOf bs).table) ts (topOf bs).cnt n1 = (n2, outs))
    (hm : prefetchNext host t p (topOf bs).table y (endPre p t (delCtx p ci n2)) = m) :
    poolJob clk host t x n = post clk t stSuccess 0 (if (topOf bs).bagFlags then emit (.data (topOf bs).flag (bagMarks offs outs)) (emit (.data (topOf bs).data ((outs.map (fun o => bytesOf32 o.1)).flatten)) m)
      else emit (.data (topOf bs).data ((outs.map (fun o => bytesOf32 o.1)).flatten)) m) := by
  simp only [poolJob, onTop_serves hbs hnames (by simp), hbags, hctx, hpool, hm, bagMarks]

/-- Settles O46: each command is the lemma of its job. -/
theorem rowsAreWrittenReadAndPooled : Obligations.RowsAreWrittenReadAndPooled := by
  refine ⟨?_, ?_, ?_⟩
  · intro e q s t x n p y vs ht hp hy hr hrows hown
    exact ⟨fun h => host_to ht (tableWrite_sealed hp hy hr hrows hown h), fun hopen hvs hfin hheld => host_to ht (tableWrite_writes hp hy hr hrows hown hopen hvs hfin hheld)⟩
  · intro e q s t x n m p y z rs ht hp hy hr hrows hrs hm hz
    exact host_to ht (tableRead_copies hp hy hr hrows hrs hm hz)
  · intro e q s t x n n1 n2 m p ci bs y ts offs outs ht hbs hnames hbags hctx hpool hm
    have hpooled := pool_answers hbs hnames hbags hctx hpool hm
    exact ⟨fun hflags => host_to ht (hpooled.trans (by rw [hflags, if_neg Bool.false_ne_true])), fun hflags => host_to ht (hpooled.trans (by rw [hflags, if_pos rfl, bagMarks]))⟩

/-! ### Adds (R171 to R173) -/

/-- The deltas of a ROW update, each with its index. -/
def rowDeltas (w cnt : Nat) (idx : List Nat) (data : List W32) : List (Nat × List W32) := List.zip idx ((List.range cnt).map (fun i => (data.drop (w * i)).take w))
/-- One add for each combined delta that is not zero, its infinite elements left out. -/
def issueDeltas (p : Nat) (t : Tok) (tn : Nat) (dur held : Bool) (ci : Nat) (ds : List (Nat × List W32)) (n : Node) : Node :=
  foldNode (ds.filter (fun d => !d.2.all zero32)) (fun d n => newAdd p { tok := some t, tbl := tn, row := d.1, op := .add (dropInf d.2), dur := dur, held := held, ctx := ci } n) n
theorem update_issues {clk : Clock} {host : Mem} {t : Tok} {x : Sqe} {n n1 n2 : Node} {p ci : Nat} {bs : List Byte} {y : Tbl} {o : TOp} {data : List W32} {idx : List Nat} {ds : List (Nat × List W32)}
    (hbs : Mem.readN host x.addr0 64 = bs) (hnames : topNames true n t bs p y) (ho : topOf bs = o) (htrain : y.train = true) (hown : tblOwnRefuses y = none) (hopen : tblSealed (getP n p) o.table y = false) (hmode : o.mode = 0)
    (hdata : words32 (Mem.readN host o.data (4 * y.width * o.cnt)) (y.width * o.cnt) = data) (hfin : firstBad data = none) (hidx : (words32 (Mem.readN host o.idx (4 * o.cnt)) o.cnt).map (·.toNat) = idx)
    (hin : (idx.takeWhile (fun r => decide (r < y.rows))).length = o.cnt) (hds : combineRows y.width (rowDeltas y.width o.cnt idx data) = ds)
    (hn1 : modWait t (fun d => d) (count p .embOverflow (sumNat (ds.map (fun d => (d.2.filter isInf32).length))) (count p .embRecords o.cnt n)) = n1) (hctx : addCtx p (threadCtx clk p 0x0B 3 (some t) n1) n1 = (ci, n2)) :
    updateJob clk host t x n = finishCmd clk t (sweepUpds p (issueDeltas p t o.table x.durable (tblHeld y) ci ds n2)) := by
  unfold rowDeltas at hds
  simp only [updateJob, onTop_serves hbs hnames fun _ => htrain, ho, hown, hopen, hmode, hdata, hfin, hidx, hin, Nat.lt_irrefl, hds, hn1, hctx, issueDeltas, Bool.false_eq_true, if_false, if_true]

/-- The oldest issued add of its row is applied. -/
theorem addApplied_oldest {p i : Nat} {clk : Clock} {host : Mem} {n : Node} {a : Add} (ha : mget (getP n p).adds i = some a) (hheld : a.held = false) (hst : (getP n p).st ≠ .resetting)
    (hfirst : (issuedOps (getP n p) a.tbl a.row).head?.map (·.1) = some i) : addApplied p i clk host n = applyAdd clk p i a (ungate p n) := by
  simp only [addApplied, ha]
  exact if_neg (by simp [hheld, hst, hfirst])
/-- The cut-over of its row holds an add back. -/
theorem issueAdd_held {p i : Nat} {a : Add} {n : Node} (h : inCutover n p a.tbl a.row = true) :
    issueAdd p i a n = modT p a.tbl (fun t => { t with migs := modAll (fun m => m.row == a.row) (fun m => { m with held := m.held ++ [i] }) t.migs })
      (modP p (fun x => { x with adds := mset x.adds i { a with held := true } }) n) := if_pos h
theorem inCutover_of_mig {p tn r : Nat} {n : Node} {y : Tbl} (hy : getT n p tn = some y) (h : y.migs.any (fun m => m.row == r && m.st == .cutover) = true) : inCutover n p tn r = true := by
  simpa only [inCutover, hy, Option.any_some] using h

/-! ### Migrations (R174) -/

theorem migrationCopyWritten_forwards {p tn r : Nat} {n : Node} (hst : (getP n p).st ≠ .resetting) :
    migrationCopyWritten p tn r n = modT p tn (fun y => { y with migs := modAll (fun m => m.row == r && m.st == .copy) (fun m => { m with st := .forward }) y.migs }) n := if_neg (by simpa using hst)
/-- The row at its new location: its copy with the operations of the log, the directory and no migration of it left. -/
def cutRow (r : Nat) (m : Mig) (z : Tbl) : Tbl :=
  { putRow z r (m.log.foldl (fun v op => opRow op v) m.copy) with
    dir := (match m.dest with
      | some k => mset z.dir r k
      | none => mdel z.dir r), migs := z.migs.filter (fun m => m.row != r) }
/-- The row's issued adds are applied before it moves; those held follow it. -/
theorem migrationCutover_moves {p tn r : Nat} {clk : Clock} {host : Mem} {n : Node} {y : Tbl} {m : Mig} (hy : getT n p tn = some y) (hm : y.migs.find? (fun m => m.row == r && m.st != .copy) = some m)
    (hst : (getP n p).st ≠ .resetting) : migrationCutover p tn r clk host n = releaseHeld p m.held (count p .migrations 1 (modT p tn (cutRow r m) (settleRow clk p tn r n))) := by
  simp only [migrationCutover, hy, hm]
  exact if_neg (by simpa using hst)

/-- A hot slot that no row has and none moves to. -/
def slotIdle (y : Tbl) (j : Nat) : Bool := !(y.dir.any (fun d => d.2 == j) || y.migs.any (fun m => m.dest == some j))
theorem hotRowBackoffMove_starts {p tn r k j : Nat} {clk : Clock} {host : Mem} {n : Node} {y : Tbl} {ch : Chan} (hy : mget (getP n p).tbls tn = some y) (hk : mget y.dir r = some k)
    (hch : vget n.mem.chans (slotChan (getP n p) k) = ch) (hoff : ch.thermal = true ∨ ch.satur = true) (hms : ch.backAt + 300000 ≤ pctr clk p) (hhot : fld (getP n p).embCfg 24 4 ≠ 0)
    (hstill : y.migs.any (fun m => m.row == r) = false) (hroom : migsOf (getP n p) < 64) (hst : (getP n p).st = .inService) (hdrop : y.drop = none) (hown : y.own.st ≠ .releasing)
    (hj : (List.range y.hotRows).find? (fun j => slotIdle y j && slotChan (getP n p) j != slotChan (getP n p) k) = some j) :
    hotRowBackoffMove p tn r clk host n = startMig p tn r (some j) n := by
  have hgo : (!(ch.thermal || ch.satur) || decide (pctr clk p < ch.backAt + 300000) || fld (getP n p).embCfg 24 4 == 0 || y.migs.any (fun m => m.row == r) || decide (64 ≤ migsOf (getP n p)) ||
      (getP n p).st != .inService || y.drop.isSome || y.own.st == .releasing) = false := by
    have hback : (ch.thermal || ch.satur) = true := by simpa using hoff
    simp [hback, hms, hhot, hstill, hroom, hst, hdrop, hown]
  unfold slotIdle at hj
  simp only [hotRowBackoffMove, hy, hk, hch, hgo, hj, Bool.false_eq_true, if_false]

/-- Settles O47: each clause is the lemma of its body; an add meets a cut-over where its table lists one of its row. -/
theorem addsApplyAndRowsMigrate : Obligations.AddsApplyAndRowsMigrate := by
  refine ⟨?_, ?_, ?_, ?_, ?_, ?_⟩
  · intro e q s t x n n1 n2 p ci bs y o data idx ds ht hbs hnames ho htrain hown hopen hmode hdata hfin hidx hin hds hn1 hctx
    exact host_to ht (update_issues hbs hnames ho htrain hown hopen hmode hdata hfin hidx hin hds hn1 hctx)
  · intro e p i s a ha hadd hheld hst hfirst
    exact run_to ha (congrArg (settleXfers (clkOf e s) p) (addApplied_oldest hadd hheld hst hfirst))
  · intro p i a n y hy hcut
    exact issueAdd_held (inCutover_of_mig hy hcut)
  · intro e p t r s ha hst
    exact run_to ha (migrationCopyWritten_forwards hst)
  · intro e p t r s y m ha hst hy hm
    exact run_to ha (congrArg (settleXfers (clkOf e s) p) (migrationCutover_moves hy hm hst))
  · intro e p t r k j s x y ch ha hx hy hk hch hoff hms hhot hstill hroom hst hdrop hown hj
    subst hx
    exact run_to ha (hotRowBackoffMove_starts hy hk hch hoff hms hhot hstill hroom hst hdrop hown hj)

end Sys2Proof.Machine
end

section
/-! Proofs for chapter 09: objects (R183, R184, R186), heat and migrations (R181, R182, R200), scrub, budgets and back-off (R187 to R199). -/

namespace Sys2Proof.Machine

/-! ### Objects (R183, R184, R186) -/

section
variable {clk : Clock} {host : Mem} {t : Tok} {x : Sqe} {n : Node} {p : Nat} {o : Obj}
/-- A job on the object that `TARGET` names runs with it. -/
theorem onObj_named {g : Clock → Mem → Tok → Sqe → Nat → Obj → Node → Node} (ho : objIs n t x p o) : onObj g clk host t x n = g clk host t x p o n := by
  unfold objIs at ho
  simp only [onObj, ho]

section
variable (hp : (getFn n t.fn).map = some p) (hfree : 0 < x.target) (hown : x.target < 0xF000) (hnew : mhas (getP n p).objs x.target = false) (hpol : policyBad (getP n p) (BitVec.ofNat 64 x.arg1) = false)
  (ho : o = { pages := freePages n.mem.pages (n.mem.pages.length + x.arg0) x.arg0 0, policy := BitVec.ofNat 64 x.arg1 })
include hp hfree hown hnew hpol ho
/-- An allocation that its fields allow is a question of room: the partition's free bytes, then a frame for each page. -/
theorem objectAlloc_allowed : objectAlloc clk host t x n =
    if freeT1 n p / 65536 + freeT2 n p / 4096 < x.arg0 then post clk t stNoSpace 0 n
    else (allocPages p x.target o (o.pages.mapIdx (fun i g => (i, g))) n).elim (post clk t stNoSpace 0 n)
      (fun m => post clk t stSuccess 0 (modP p (fun y => { y with objs := mset y.objs x.target o }) m)) := by
  have hname : (decide (x.target = 0) || decide (0xF000 ≤ x.target) || mhas (getP n p).objs x.target) = false := by
    simp [hnew, hown, Nat.ne_of_gt hfree]
  subst ho
  simp only [objectAlloc, hp, hname, hpol, Bool.false_eq_true, if_false]
  congr 1
  generalize allocPages _ _ _ _ n = r
  cases r <;> rfl
theorem objectAlloc_takes {m : Node} (hroom : x.arg0 ≤ freeT1 n p / 65536 + freeT2 n p / 4096) (hm : allocPages p x.target o (o.pages.mapIdx (fun i g => (i, g))) n = some m) :
    objectAlloc clk host t x n = post clk t stSuccess 0 (modP p (fun y => { y with objs := mset y.objs x.target o }) m) := by
  rw [objectAlloc_allowed hp hfree hown hnew hpol ho, if_neg (Nat.not_lt.mpr hroom), hm, Option.elim_some]
theorem objectAlloc_noSpace (hroom : freeT1 n p / 65536 + freeT2 n p / 4096 < x.arg0 ∨ allocPages p x.target o (o.pages.mapIdx (fun i g => (i, g))) n = none) :
    objectAlloc clk host t x n = post clk t stNoSpace 0 n := by
  rw [objectAlloc_allowed hp hfree hown hnew hpol ho]
  rcases hroom with hfull | hnone
  · exact if_pos hfull
  · rw [hnone, Option.elim_none, ite_self]
end

variable (ho : objIs n t x p o)
include ho
/-- No `OBJECT_POLICY` waits on the object: it goes at once. -/
theorem objectFree_frees (hpols : (getP n p).polCmds.any (fun c => c.2 == x.target) = false) : objectFree clk host t x n = post clk t stSuccess 0 (freeObj p x.target n) := by
  rw [objectFree, onObj_named ho, if_neg (by simp [hpols])]
theorem objectPolicy_sets (hlay : fld o.policy 8 4 = 0) (hpol : policyBad (getP n p) (BitVec.ofNat 64 x.arg1) = false) (hseal : bit o.policy 3 = true → bit (BitVec.ofNat 64 x.arg1) 3 = true) :
    objectPolicy clk host t x n = settlePols clk p (markCmd t false true (modMem (fun m => { m with pages := m.pages.map (fun g => if o.pages.contains g.1 then (g.1, { g.2 with pin := bit (BitVec.ofNat 64 x.arg1) 2 }) else g) })
      (modP p (fun y => { y with objs := mmod y.objs x.target (fun o => { o with policy := BitVec.ofNat 64 x.arg1 }), polCmds := y.polCmds ++ [(t, x.target)] }) n))) := by
  have hgood : (policyBad (getP n p) (BitVec.ofNat 64 x.arg1) || (bit o.policy 3 && !bit (BitVec.ofNat 64 x.arg1) 3)) = false := by simpa [hpol] using hseal
  simp only [objectPolicy, onObj_named ho, hlay, hgood, ne_eq, not_true_eq_false, Bool.false_eq_true, if_false]
theorem objectWrite_sealed (hseal : bit o.policy 3 = true) : objectWrite clk host t x n = post clk t stObjectSealed 0 n := by
  rw [objectWrite, onObj_named ho, if_pos hseal]
theorem objectWrite_writes (hopen : bit o.policy 3 = false) :
    objectWrite clk host t x n = post clk t stSuccess 0 (heatRange o x.arg0 x.arg1 true (markCmd t false true (putObj clk p x.target o x.arg0 (Mem.readN host x.addr0 x.arg1) n))) := by
  rw [objectWrite, onObj_named ho, if_neg (by simp [hopen])]

section
variable {m : Node} {a : Obj}
  (hm : readWords clk p (some t) 0xFFFFFFFF (locsAt p (getP n p) x.target (badIn p (getP n p) o x.arg0 x.arg1)) (inRange (getP n p) p x.target x.arg0 x.arg1) n = m) (ha : mget (getP m p).objs x.target = some a)
include hm ha
/-- What is copied is what the object holds once the read has met the errors in its range. -/
theorem objectRead_copies : objectRead clk host t x n = post clk t (if (badIn p (getP m p) a x.arg0 x.arg1).isEmpty then stSuccess else stDataPoison) 0
    (emit (.data x.addr0 (objCopy p (getP m p) a x.arg0 x.arg1)) (heatRange a x.arg0 x.arg1 false m)) := by
  simp only [objectRead, onObj_named ho, hm, ha, Option.getD_some]
theorem objectRead_clean (hgood : badIn p (getP m p) a x.arg0 x.arg1 = []) :
    objectRead clk host t x n = post clk t stSuccess 0 (emit (.data x.addr0 (objRead (getP m p) a x.arg0 x.arg1)) (heatRange a x.arg0 x.arg1 false m)) := by
  rw [objectRead_copies ho hm ha, objCopy, hgood]
  rfl
theorem objectRead_poisoned (hbad : badIn p (getP m p) a x.arg0 x.arg1 ≠ []) :
    objectRead clk host t x n = post clk t stDataPoison 0 (emit (.data x.addr0 (objCopy p (getP m p) a x.arg0 x.arg1)) (heatRange a x.arg0 x.arg1 false m)) := by
  rw [objectRead_copies ho hm ha, if_neg (by simpa using hbad)]
end
end

/-- Bytes written to a host object stand in its data, and the poison under them is gone (R188). -/
theorem putObj_host {clk : Clock} {p ob off : Nat} {o : Obj} {bs : List Byte} {n : Node} (hu : o.use_ = .host) :
    putObj clk p ob o off bs n = modP p (fun y => { y with objs := mmod y.objs ob (fun o => { o with
      data := Mem.writeN o.data off bs, poison := o.poison.filter (fun k => !(decide (off ≤ k) && decide (k < off + bs.length))) }) }) (overwrite (inRange (getP n p) p ob off bs.length) n) := by
  simp only [putObj, hu]

/-- Settles O48: each command is the lemma of its job; an allocation and a read split on their outcomes. -/
theorem objectCommandsComplete : Obligations.ObjectCommandsComplete := by
  refine ⟨?_, ?_, ?_, ?_, ?_, ?_⟩
  · intro e q s t x n m p o ht hp hfree hown hnew hpol ho
    exact ⟨fun hroom hm => host_to ht (objectAlloc_takes hp hfree hown hnew hpol ho hroom hm), fun hroom => host_to ht (objectAlloc_noSpace hp hfree hown hnew hpol ho hroom)⟩
  · intro e q s t x n p o ht ho hpols
    exact host_to ht (objectFree_frees ho hpols)
  · intro e q s t x n p o ht ho hlay hpol hseal
    exact host_to ht (objectPolicy_sets ho hlay hpol hseal)
  · intro e q s t x n p o ht ho
    exact ⟨fun hseal => host_to ht (objectWrite_sealed ho hseal), fun hopen => host_to ht (objectWrite_writes ho hopen)⟩
  · intro clk p ob off o bs n hu
    exact putObj_host hu
  · intro e q s t x n m p o a ht ho hm ha
    exact ⟨fun hgood => host_to ht (objectRead_clean ho hm ha hgood), fun hbad => host_to ht (objectRead_poisoned ho hm ha hbad)⟩

/-! ### Heat and migrations (R181, R182, R200) -/

/-- Every heat is halved and the next period begins. -/
def halveHeats (clk : Clock) (n : Node) : Node :=
  modMem (fun m => { m with heatAt := clk.node, pages := m.pages.map (fun g => (g.1, { g.2 with heat := g.2.heat / 2 })) }) n
/-- The pages in tier 2 that have reached `PROMOTE` and may move. -/
def hotPages (n : Node) : List (Nat × Page) :=
  n.mem.pages.filter (fun g => g.2.tier == 1 && g.2.mig.isNone && isAuto n g.2 && decide (fld n.mem.migCfg 16 8 ≤ g.2.heat) && (getP n g.2.ptn).st == .inService)
/-- At the end of a period: the pages outside what is allowed first, then the hot ones where there is bandwidth for them, then the halving. -/
theorem heatAge_due {clk : Clock} {n m : Node} (hdue : n.mem.heatAt + 300000 * fld n.mem.migCfg 0 8 ≤ clk.node) (hm : foldNode (List.range 8) conformAll n = m) :
    heatAge clk n = halveHeats clk (if fld m.mem.migCfg 24 8 = 0 then m else foldNode (hotPages n) (fun g n => promote g.1 (ungate g.2.ptn n)) m) := by
  rw [heatAge, if_neg (Nat.not_lt.mpr hdue), hm]
  rfl

/-- The rounds of copying change what is left to copy, not where the page goes (R181 step 3). -/
theorem at_copyRounds (y : Page) : ∀ (k : Nat) (m : PMig), y.at_ { copyRounds k m with dirty := [] } = y.at_ m
  | 0, _ => rfl
  | k + 1, m => by
    unfold copyRounds
    split
    · rfl
    · exact at_copyRounds y k _
/-- The page counts by its direction, or not where it stays in its tier. -/
def countMove (g : Page) (m : PMig) (n : Node) : Node :=
  if g.tier = 1 && m.tier == 0 then count g.ptn .pagePromote 1 n else if g.tier = 0 && m.tier == 1 then count g.ptn .pageDemote 1 n else n
section
variable {g : Page} {m : PMig} {n : Node}
theorem countMove_promotes (hg : g.tier = 1) (hm : m.tier = 0) : countMove g m n = count g.ptn .pagePromote 1 n := if_pos (by simp [hg, hm])
theorem countMove_demotes (hg : g.tier = 0) (hm : m.tier = 1) : countMove g m n = count g.ptn .pageDemote 1 n := by simp [countMove, hg, hm]
theorem countMove_within (h : g.tier = m.tier) : countMove g m n = n := by
  have hup : ¬ (g.tier = 1 ∧ m.tier = 0) := by omega
  have hdown : ¬ (g.tier = 0 ∧ m.tier = 1) := by omega
  simp [countMove, hup, hdown]
end
/-- A cut-over: the bad words of the page are met, its entry names the new frame, and what the move allows goes on. -/
theorem pageCutover_moves {gp off : Nat} {clk : Clock} {host : Mem} {n n1 : Node} {g : Page} {m : PMig} {o : Obj} {x : Ptn} (hg : getPage n gp = some g) (hm : g.mig = some m) (hx : getP n g.ptn = x) (hst : x.st ≠ .resetting)
    (ho : objOfPage n g = some o) (hoff : 65536 * posOf o gp = off)
    (hn1 : meetErrs clk 5 0 none 0xFFFFFFFF (inRange x g.ptn g.obj off 65536) (metLocs clk g.ptn 0 0xFFFFFFFF none (locsAt g.ptn x g.obj (badIn g.ptn x o off 65536)) n) = n1) :
    pageCutover gp clk host n = settlePols clk g.ptn (conformAll g.ptn (countMove g m (modPage gp (·.at_ m) n1))) := by
  have hrun : ¬ (x.st == .resetting) = true := by simpa using hst
  simp only [pageCutover, hg, hm, hx, if_neg hrun, ho, hoff, hn1, at_copyRounds, countMove]

/-- Settles O49: the end of a period splits on the bound of promotion, a cut-over on its direction. -/
theorem pagesMigrate : Obligations.PagesMigrate := by
  refine ⟨?_, ?_⟩
  · intro e s m ha hdue hm
    have hage := heatAge_due hdue hm
    exact ⟨fun hbw => run_to ha (by rw [hage, if_pos hbw, halveHeats]), fun hbw => run_to ha (by rw [hage, if_neg hbw, halveHeats, hotPages])⟩
  · intro e gp off s g m o x n1 n2 ha hg hm hx hst ho hoff hn1 hn2
    have hcut := pageCutover_moves (host := hostOf e s) hg hm hx hst ho hoff hn1
    have hn2 : modPage gp (·.at_ m) n1 = n2 := hn2
    rw [hn2] at hcut
    exact ⟨fun hup hto => run_to ha (by rw [hcut, countMove_promotes hup hto]), fun hdown hto => run_to ha (by rw [hcut, countMove_demotes hdown hto]), fun hin => run_to ha (by rw [hcut, countMove_within hin])⟩

/-! ### Scrub, budgets and back-off (R187, R188, R190, R191, R195, R198, R199) -/

section
variable {clk : Clock} {kind dop thread : Nat} {t : Option Tok} {f : Finding} {n : Node} (hp : locPtn f.loc < 8)
include hp
theorem meetError_corrects (hbits : f.bits = 1 ∨ f.bits = 2) : meetError clk kind dop t thread f n = count (locPtn f.loc) .memCe 1 n := by
  have hfound : f.bits ≠ 0 := by omega
  have hfew : f.bits ≤ 2 := by omega
  simp [meetError, hfound, Nat.not_le.mpr hp, hfew]
theorem meetError_poisons (hbits : f.bits = 3) (hnew : poisoned n f.loc = false) : meetError clk kind dop t thread f n = uncorrectable clk kind dop t thread f n := by
  simp [meetError, hbits, Nat.not_le.mpr hp, hnew]
end

/-- Table 9-10, row by row. -/
theorem stackBudget_of_row {t b : Nat} (h : (t < 85 ∧ b = 1600) ∨ (85 ≤ t ∧ t < 95 ∧ b = 80 * (105 - t)) ∨ (95 ≤ t ∧ t < 100 ∧ b = 400) ∨ (100 ≤ t ∧ b = 200)) : stackBudget t = b := by
  unfold stackBudget
  rcases h with ⟨h, rfl⟩ | ⟨h1, h2, rfl⟩ | ⟨h1, h2, rfl⟩ | ⟨h, rfl⟩
  · rw [if_pos h]
  · rw [if_neg (by omega), if_pos h2]
  · rw [if_neg (by omega), if_neg (by omega), if_pos h2]
  · rw [if_neg (by omega), if_neg (by omega), if_neg (by omega)]
theorem trip_cool {t : Nat} {n : Node} (h : t < 110) : trip t n = n := if_pos (by simp [h])
/-- A node whose clocks run is out of reset and its root PLL has not stopped. -/
theorem running_of_alive {n : Node} (h : alive n = true) : n.pins.perst = true ∧ n.boot.stopped = false := by
  have hclocks : n.pins.perst = true ∧ ctlStopped n = false := by simpa [alive] using h
  obtain ⟨hperst, hclk⟩ := hclocks
  simp only [ctlStopped, Bool.or_eq_false_iff] at hclk
  obtain ⟨⟨_, hstop⟩, _⟩ := hclk
  exact ⟨hperst, hstop⟩
theorem trip_hot {t : Nat} {n : Node} (h : 110 ≤ t) (hperst : n.pins.perst = true) (hstop : n.boot.stopped = false) :
    (trip t n).boot.stopped = true ∧ (trip t n).pins.thermtrip = false ∧ (trip t n).pwr.tripLast = sat 8 t := by
  have hgo : ¬ (decide (t < 110) || !n.pins.perst || n.boot.stopped) = true := by simp [h, hperst, hstop]
  rw [trip, if_neg hgo]
  exact ⟨rfl, rfl, rfl⟩
/-- A window sets its stack's budget and counts at each of its channels; the temperature may trip the node. -/
theorem stackWindow_of_lt {k t : Nat} {clk : Clock} {n : Node} (hk : k < 8) : stackWindow k t clk n = trip t (modMem (fun m => { m with
    stks := vmod m.stks k (fun _ => { temp := t, budget := stackBudget t }), chans := m.chans.mapIdx (fun c ch => if c / 16 = k then chanWindow clk (stackBudget t) ch else ch) }) n) :=
  if_neg (Nat.not_le.mpr hk)

/-- Two changes of a channel that agree on what it is are one change. -/
theorem modChan_congr {c : Nat} {n : Node} {f g : Chan → Chan} (h : f (vget n.mem.chans c) = g (vget n.mem.chans c)) : modChan c f n = modChan c g n := by
  simp only [modChan, modMem, vmod_congr h]
/-- A channel in back-off by its stack's budget (`th`) or by its waits (`sa`), since `now` unless it was in back-off already. -/
def offBy (th sa : Bool) (now : Nat) (ch : Chan) : Chan :=
  { ch with thermal := ch.thermal || th, satur := ch.satur || sa, clear := 0, backAt := if ch.thermal || ch.satur then ch.backAt else now }
/-- A channel that is out of back-off. -/
def backOn (ch : Chan) : Chan := { ch with thermal := false, satur := false }
section
variable {c w : Nat} {clk : Clock} {n : Node} {ch : Chan} {sa th : Bool} (hc : c < 128) (hch : vget n.mem.chans c = ch) (hsa : sa = decide (4096 ≤ w)) (hth : th = decide ((vget n.mem.stks (c / 16)).budget < 1600))
include hc hsa hth
theorem darnerBackoff_cases : darnerBackoff c w clk n = modChan c (fun x => if th || sa then offBy th sa (backNow clk x) x else if 16 ≤ x.clear then backOn x else x) n := by
  subst hsa hth
  exact if_neg (Nat.not_le.mpr hc)
include hch
theorem darnerBackoff_enters (hcase : sa = true ∨ th = true) : darnerBackoff c w clk n = modChan c (offBy th sa (backNow clk ch)) n := by
  have hon : (th || sa) = true := by simpa [or_comm] using hcase
  rw [darnerBackoff_cases hc hsa hth]
  exact modChan_congr (by rw [if_pos hon, hch])
theorem darnerBackoff_leaves (hsat : sa = false) (hcool : th = false) (hclear : 16 ≤ ch.clear) : darnerBackoff c w clk n = modChan c backOn n := by
  have hoff : ¬ (th || sa) = true := by simp [hsat, hcool]
  rw [darnerBackoff_cases hc hsa hth]
  exact modChan_congr (by rw [if_neg hoff, hch, if_pos hclear])
end

/-- Settles O50: a scrub pass is its definition; a window splits on the trip temperature, a channel's back-off on its causes. -/
theorem memoryUpkeepRuns : Obligations.MemoryUpkeepRuns := by
  refine ⟨?_, ?_, ?_, ?_, ?_, ?_⟩
  · intro e finds fs s n n1 tiers sram ha hn htiers hsram hfs hn1
    subst hn htiers hsram hfs hn1
    exact run_ok ha
  · intro clk f n hp
    exact ⟨meetError_corrects (f := { f with loc := normLoc n f.loc }) hp, meetError_poisons (f := { f with loc := normLoc n f.loc }) hp⟩
  · intro e p s ha
    exact run_ok ha
  · intro e k t b s ha hk ht hrow
    exact run_to ha (by rw [stackWindow_of_lt hk, trip_cool ht, stackBudget_of_row hrow]; rfl)
  · intro e k t s ha hk ht
    obtain ⟨hperst, hstop⟩ := running_of_alive ha
    exact ⟨_, run_to ha (stackWindow_of_lt hk), trip_hot ht hperst hstop⟩
  · intro e c w s ch sa th ha hc hch hsa hth
    exact ⟨fun hcase => run_to ha (darnerBackoff_enters hc hch hsa hth hcase), fun hsat hcool hclear => run_to ha (darnerBackoff_leaves hc hch hsa hth hsat hcool hclear)⟩

end Sys2Proof.Machine
end

section
/-! Proofs for chapter 10: cartridges come and go (R204 to R211), flash objects and discards (R212, R225, R226), map pages and programs (R213 to R222), Fold, the Wringer and erases (R217 to R223). -/

namespace Sys2Proof.Machine

/-! ### Identification (R204 to R206, R208) -/

theorem cartPresent_powers {k : Nat} {n : Node} (hk : k < 4) (hempty : (getCart n k).present = false) (hperst : n.pins.perst = true) :
    cartPresent k n = modCart k (fun c => { c with present := true, power := true, st := .identifying, why := 0, safe := false }) n := if_pos (by simp [hk, hempty, hperst])

/-- Links, dies or parameter pages that do not fit are no cartridge that the node can use. -/
theorem idCheck_unfit {id : CartIdent} (h : id.trained ≠ 0xFF ∨ id.dies.length ≠ 128 ∨ ∃ d ∈ id.dies, d.1 ≠ {}) : idCheck id = none :=
  if_pos (by simpa [or_assoc] using h)

section
variable {id : CartIdent} (htrained : id.trained = 0xFF) (hlen : id.dies.length = 128) (hpages : ∀ d ∈ id.dies, d.1 = {})
include htrained hlen hpages
/-- The checks of Table 10-3 that are left, in their order. -/
theorem idCheck_fit : idCheck id = if !id.idAnswers then some roNoId else if !recordOk (idRecordOf id.record) || !id.rsaOk || !id.slhOk then some roUnsigned
    else if (idRecordOf id.record).dieDigest ≠ leNat (sha384 ((id.dies.map (fun d => d.2.take 16)).flatten)) then some roMismatch else some 0 := by
  have hall : id.dies.all (fun d => d.1 == {}) = true := by simpa using hpages
  exact if_neg (by simp [htrained, hlen, hall])
theorem idCheck_noId (hid : id.idAnswers = false) : idCheck id = some roNoId := by
  rw [idCheck_fit htrained hlen hpages, if_pos (by simp [hid])]
theorem idCheck_unsigned (hid : id.idAnswers = true) (h : recordOk (idRecordOf id.record) = false ∨ id.rsaOk = false ∨ id.slhOk = false) : idCheck id = some roUnsigned := by
  rw [idCheck_fit htrained hlen hpages, if_neg (by simp [hid]), if_pos (by simpa [or_assoc] using h)]
section
variable (hid : id.idAnswers = true) (hrec : recordOk (idRecordOf id.record) = true) (hrsa : id.rsaOk = true) (hslh : id.slhOk = true)
include hid hrec hrsa hslh
theorem idCheck_mismatch (h : (idRecordOf id.record).dieDigest ≠ leNat (sha384 ((id.dies.map (fun d => d.2.take 16)).flatten))) : idCheck id = some roMismatch := by
  rw [idCheck_fit htrained hlen hpages, if_neg (by simp [hid]), if_neg (by simp [hrec, hrsa, hslh]), if_pos h]
theorem idCheck_passes (h : (idRecordOf id.record).dieDigest = leNat (sha384 ((id.dies.map (fun d => d.2.take 16)).flatten))) : idCheck id = some 0 := by
  rw [idCheck_fit htrained hlen hpages, if_neg (by simp [hid]), if_neg (by simp [hrec, hrsa, hslh]), if_neg (not_not.mpr h)]
end
end

/-- What Table 10-2 fixes of a record. -/
theorem recordOk_iff (r : IdRecord) : recordOk r = true ↔ r.magic = 0x544C454D ∧ r.recVer = 1 ∧ r.model = 0x0C64 ∧ r.channels = 8 ∧ r.dies = 16 ∧ r.planes = 4 ∧ r.blocks = 5015 ∧ r.spares = 48 ∧
    r.pagesQlc = 1536 ∧ r.pages1bit = 384 ∧ r.peRated = 1500 ∧ r.lblocks = 13671875000 ∧ r.bufGb = 640 := by
  simp [recordOk]

/-- A cartridge whose check of Table 10-3 ends in `why`: mounted and READ_ONLY for that reason. -/
def mountedReadOnly (clk : Clock) (k why : Nat) (id : CartIdent) (m : Node) : Node :=
  settleColls (raiseAt attnCartridge 0 (modCart k (fun c => { c with st := .readOnly, why := why }) (mountCart clk k id m)))

section
variable {clk : Clock} {host : Mem} {k : Nat} {id : CartIdent} {n : Node} (hst : (getCart n k).st = .identifying)
include hst
theorem cartIdentified_fails (hcheck : idCheck id = none) : cartIdentified k id clk host n = identsDone (modCart k (fun c => { c with st := .failed }) n) := by
  simp only [cartIdentified, hst, hcheck]
  rfl
variable {m : Node} (hnew : (getCart n k).known = false) (hlife : lifeUsed (lifeAtMount id.lifeA id.lifeB id.sets).wear < 900) (hm : identRead k id n = m)
include hnew hlife hm
/-- A first identification with life left is decided by what the check answers and by whose the directory is. -/
theorem cartIdentified_checked {fails : Nat} (hcheck : idCheck id = some fails) : cartIdentified k id clk host n = retryAll clk host (identsDone (
    if fails = 0 ∧ id.dirOurs = some false ∧ factoryBoot n = false then modCart k (fun c => { c with st := .foreign, ident := some id }) m
    else if fails = 0 then activate clk k (mountCart clk k id m) else mountedReadOnly clk k fails id m)) := by
  have hleft : ¬ 1000 ≤ lifeUsed (lifeAtMount id.lifeA id.lifeB id.sets).wear := by omega
  have hunder : ¬ 900 ≤ lifeUsed (lifeAtMount id.lifeA id.lifeB id.sets).wear := by omega
  have hboot : factoryBoot m = factoryBoot n := by subst hm; rfl
  simp only [identRead, hnew, Bool.false_eq_true, if_false] at hm
  simp only [cartIdentified, hst, hnew, hcheck, hm, Bool.false_eq_true, if_false, hleft, hunder, hboot]
  simp [mountedReadOnly]
theorem cartIdentified_readOnly {fails : Nat} (hcheck : idCheck id = some fails) (h : fails ≠ 0) :
    cartIdentified k id clk host n = retryAll clk host (identsDone (mountedReadOnly clk k fails id m)) := by
  rw [cartIdentified_checked hst hnew hlife hm hcheck, if_neg (fun ⟨hzero, _⟩ => h hzero), if_neg h]
theorem cartIdentified_active (hcheck : idCheck id = some 0) (hours : id.dirOurs ≠ some false) :
    cartIdentified k id clk host n = retryAll clk host (identsDone (activate clk k (mountCart clk k id m))) := by
  rw [cartIdentified_checked hst hnew hlife hm hcheck, if_neg (fun ⟨_, hother, _⟩ => hours hother), if_pos rfl]
theorem cartIdentified_foreign (hcheck : idCheck id = some 0) (hother : id.dirOurs = some false) (hboot : factoryBoot n = false) :
    cartIdentified k id clk host n = retryAll clk host (identsDone (modCart k (fun c => { c with st := .foreign, ident := some id }) m)) := by
  rw [cartIdentified_checked hst hnew hlife hm hcheck, if_pos ⟨rfl, hother, hboot⟩]
end

/-! ### Life records, removal, release and adoption (R207, R209 to R211) -/

theorem lifeRecordWrite_due {k : Nat} {clk : Clock} {n : Node} (hst : (getCart n k).st = .active) (hdue : (getCart n k).lifeAt + 180000000000 ≤ clk.node) :
    lifeRecordWrite k clk n = writeLife clk k n := if_pos (by simp [hst, hdue])

section
variable {clk : Clock} {host : Mem} {k : Nat} {n : Node} (hp : (getCart n k).present = true)
include hp
theorem cartRemoved_safe (hsafe : (getCart n k).safe = true) : cartRemoved k clk host n = forgetSlot k n := by
  simp [cartRemoved, hp, hsafe]
variable {mine : List Staged} {m : Node} (hsafe : (getCart n k).safe = false) (hmine : unsettled clk n k = mine)
  (hm : modFls (fun f => { f with progs := f.progs.filter (fun g => g.2.cart != k), stage := f.stage.filter (fun x => !mine.any (fun y => y.ver == x.ver)) })
    (parkSanits clk k (loseToks clk (waitOn n k) n)) = m)
include hsafe hmine hm
/-- What the slot had not yet taken goes to another cartridge. -/
theorem cartRemoved_moves {dest : Nat} (hdest : otherSlot m k = some dest) :
    cartRemoved k clk host n = retryAll clk host (settleKept clk (raiseAt attnCartridge 0 (settleColls (forgetSlot k (foldNode mine (programNow clk dest) m))))) := by
  simp [cartRemoved, hp, hsafe, hmine, hm, hdest]
theorem cartRemoved_loses (hnone : otherSlot m k = none) :
    cartRemoved k clk host n = retryAll clk host (settleKept clk (raiseAt attnCartridge 0 (settleColls (forgetSlot k m)))) := by
  simp [cartRemoved, hp, hsafe, hmine, hm, hnone]
end

/-- A command names a slot that is in one of the two states it takes. -/
theorem slot_named {k : Nat} {st a b : CartSt} (hk : k < 4) (h : st = a ∨ st = b) : (decide (4 ≤ k) || !(st == a || st == b)) = false := by
  have hslot : ¬ 4 ≤ k := by omega
  rcases h with rfl | rfl <;> simp [hslot]
theorem cartRelease_starts {clk : Clock} {host : Mem} {t : Tok} {x : Sqe} {n : Node} (hk : x.target < 4) (hst : (getCart n x.target).st = .active ∨ (getCart n x.target).st = .readOnly) (hstay : x.flag 1 = false) :
    cartRelease clk host t x n = retryAll clk host (settleColls (modCart x.target (fun c => { c with st := .releasing, why := 0, relTok := some t, relEvac := false }) n)) := by
  simp only [cartRelease, slot_named hk hst, hstay, Bool.false_and, Bool.false_eq_true, if_false]

section
variable {clk : Clock} {k : Nat} {n : Node}
theorem finishRelease_waits (h : n.flash.progs.any (fun g => g.2.cart == k) = true ∨ n.flash.stage.any (fun x => slotOfBlk n x.obj x.blk == some k) = true) : finishRelease clk k n = n := by
  refine if_pos ?_
  rcases h with h | h <;> rw [h] <;> simp
/-- Nothing is under way: the map, the journal and the life record are written, and the slot lets its cartridge go. -/
theorem finishRelease_ends {m : Node} (hst : (getCart n k).st = .releasing) (hevac : (getCart n k).relEvac = false) (hprogs : n.flash.progs.any (fun g => g.2.cart == k) = false) (hstage : n.flash.stage.any (fun x => slotOfBlk n x.obj x.blk == some k) = false)
    (hm : parkSanits clk k (flushJournal k (foldNode (n.flash.cache.filter (fun m => m.cart == k && m.dirty.isSome)) (fun m n => writePage k m.page n) n)) = m) :
    finishRelease clk k n = postO clk (getCart n k).relTok stSuccess 0 (settleKept clk (settleColls
      (modCart k (fun c => { c with st := .released, why := 0, power := false, safe := true, dirSeq := c.dirSeq + 1, relTok := none, relEvac := false }) (writeLife clk k (modCart k (fun c => { c with life := { c.life with openFlag := false } })
        (modFls (fun f => { f with cache := f.cache.filter (fun m => m.cart != k), reads := f.reads.filter (fun g => g.1 != k) }) m)))))) := by
  simp [finishRelease, hst, hevac, hprogs, hstage, hm]
end

section
variable {clk : Clock} {host : Mem} {t : Tok} {x : Sqe} {n : Node} (hk : x.target < 4) (hst : (getCart n x.target).st = .foreign ∨ (getCart n x.target).st = .released) (hkeep : x.flag 1 = false)
include hk hst hkeep
theorem cartAdopt_released (hid : (getCart n x.target).ident = none) : cartAdopt clk host t x n = retryAll clk host (post clk t stSuccess 0 (activate clk x.target n)) := by
  simp only [cartAdopt, slot_named hk hst, hkeep, hid, Bool.false_eq_true, if_false]
theorem cartAdopt_foreign {id : CartIdent} (hid : (getCart n x.target).ident = some id) (hnew : id.objs.any (fun o => mhas n.flash.objs o.1) = false) :
    cartAdopt clk host t x n = retryAll clk host (post clk t stSuccess 0 (activate clk x.target (mountCart clk x.target id n))) := by
  simp only [cartAdopt, slot_named hk hst, hkeep, hid, hnew, Bool.false_eq_true, if_false]
end

/-- A step of the always-on domain from what its body does. -/
theorem aon_to {e : Env} {s : State} {b : Clock → Mem → Node → Node} {n : Node} (hb : b (clkOf e s) (hostOf e s) (nodeOf e s) = n) : runAon e b s = .next (endsWith e s n) := hb ▸ aon_ok

/-- Settles O51: an identification splits on the first check that fails, a removal on the release before it, an adoption on what the slot knows of its cartridge. -/
theorem cartridgesServe : Obligations.CartridgesServe := by
  refine ⟨?_, ?_, ?_, recordOk_iff, ?_, ?_, ?_, ?_, ?_⟩
  · intro e k s hk hempty hperst
    exact aon_to (cartPresent_powers hk hempty hperst)
  · intro e k id s ha hst hbad
    exact run_to ha (cartIdentified_fails hst (idCheck_unfit hbad))
  · intro e k id s c m ha hc hst hnew htrained hlen hpages hlife hm
    subst hc
    have hro {why : Nat} (hcheck : idCheck id = some why) (hwhy : why ≠ 0) : exec (.cartIdentified e k id) s = .next (endsWith e s (retryAll (clkOf e s) (hostOf e s) (identsDone (mountedReadOnly (clkOf e s) k why id m)))) :=
      run_to ha (cartIdentified_readOnly hst hnew hlife hm hcheck hwhy)
    refine ⟨fun hid => hro (idCheck_noId htrained hlen hpages hid) (by decide), fun hid hbad => hro (idCheck_unsigned htrained hlen hpages hid hbad) (by decide), fun hid hrec hrsa hslh => ⟨fun hdies => ?_, fun hdies => ?_⟩⟩
    · exact hro (idCheck_mismatch htrained hlen hpages hid hrec hrsa hslh hdies) (by decide)
    · have hgood := idCheck_passes htrained hlen hpages hid hrec hrsa hslh hdies
      exact ⟨fun hours => run_to ha (cartIdentified_active hst hnew hlife hm hgood hours), fun hother hboot => run_to ha (cartIdentified_foreign hst hnew hlife hm hgood hother hboot)⟩
  · intro e k s ha hst hdue
    exact run_to ha (lifeRecordWrite_due hst hdue)
  · intro e k s hp
    refine ⟨fun hsafe => ?_, fun mine m hsafe hmine hm => ⟨fun dest hdest => ?_, fun hnone => ?_⟩⟩
    · exact aon_to (cartRemoved_safe hp hsafe)
    · exact aon_to (cartRemoved_moves hp hsafe hmine hm hdest)
    · exact aon_to (cartRemoved_loses hp hsafe hmine hm hnone)
  · intro e q s t x n ht hk hst hstay
    exact host_to ht (cartRelease_starts hk hst hstay)
  · intro clk k n m hst hevac
    exact ⟨finishRelease_waits, fun hprogs hstage hm => finishRelease_ends hst hevac hprogs hstage hm⟩
  · intro e q s t x n ht hk hst hkeep
    exact ⟨fun hid => host_to ht (cartAdopt_released hk hst hkeep hid), fun id hid hnew => host_to ht (cartAdopt_foreign hk hst hkeep hid hnew)⟩

/-! ### Flash objects (R212) -/

section
variable {clk : Clock} {host : Mem} {t : Tok} {x : Sqe} {n : Node} {slots serials : List Nat} {o : FObj}
theorem flashAlloc_makes (hslots : (if x.arg2 = 0 then activeSlots n else (List.range 4).filter (fun s => x.arg2.testBit s)) = slots) (hpos : 0 < x.arg0) (hhost : x.arg0 < 0x80000000) (hnew : fobj n x.arg0 = none)
    (hactive : ∀ k ∈ slots, (getCart n k).st = .active) (hsome : slots ≠ []) (hserials : slots.map (fun k => (getCart n k).serial) = serials)
    (ho : o = { ptn := ((getFn n t.fn).map).getD 0, blocks := x.arg1, carts := serials, dense := x.flag 1 }) (hroom : ∀ c ∈ serials.zipIdx, reservedOn n c.1 + objShare o c.2 ≤ cartBlocks) (hfree : 4096 * x.arg1 ≤ freeFlash n) :
    flashAlloc clk host t x n = post clk t stSuccess 0 (writeDir (modFls (fun f => { f with objs := mset f.objs x.arg0 { o with base := serials.mapIdx (fun j c => baseFor n c (objShare o j)) } }) n)) := by
  have hname : ¬ (x.arg0 = 0 || decide (0x80000000 ≤ x.arg0) || (fobj n x.arg0).isSome) = true := by simp [hnew]; omega
  have hready : ¬ slots.any (fun s => (getCart n s).st != .active) = true := by simpa using hactive
  have hfits : ¬ (slots.isEmpty || serials.zipIdx.any (fun c => decide (cartBlocks < reservedOn n c.1 + objShare { o with base := serials.mapIdx (fun j c => baseFor n c (objShare o j)) } c.2)) ||
      decide (freeFlash n < 4096 * x.arg1)) = true := by
    have hshare (j : Nat) : objShare { o with base := serials.mapIdx (fun j c => baseFor n c (objShare o j)) } j = objShare o j := rfl
    simp only [hshare]
    simpa [hsome, hfree] using hroom
  subst ho
  simp only [flashAlloc, hslots, if_neg hname, if_neg hready, hserials]
  exact if_neg hfits
end

/-! ### Commands on ranges (R213 to R216, R221, R225, R226) -/

/-- The entry that a row takes has the row's opcode. -/
theorem taken_opc {r : Row} {mine chk ptn} {q : QRef} {e : Env} {s : State} {t x n} (h : Taken r mine chk ptn q e s t x n) : x.opc = r.opc := by
  obtain ⟨hacc, hfetch⟩ := h
  simp only [accepts, hfetch, Bool.and_eq_true] at hacc
  obtain ⟨_, ⟨⟨⟨⟨⟨⟨⟨hopc, _⟩, _⟩, _⟩, _⟩, _⟩, _⟩, _⟩⟩ := hacc
  exact eq_of_beq hopc

section
variable {clk : Clock} {host : Mem} {t : Tok} {x : Sqe} {n m : Node}
theorem flashStart_ends (h : flashTry clk host t x (waiting t n) = (m, true)) : flashStart clk host t x n = started t m := by
  unfold waiting at h
  simp only [flashStart, h, if_true, started]
theorem flashStart_waits (h : flashTry clk host t x (waiting t n) = (m, false)) : flashStart clk host t x n = m := by
  unfold waiting at h
  simp only [flashStart, h, Bool.false_eq_true, if_false]

/-- Room in the stage and no earlier command that waits: a write stages its sectors. -/
theorem flashTry_write (hopc : x.opc = 0xA2) (hwhole : objWhole n x.arg0 = true) (hfirst : n.flash.waits = []) (hroom : stageFill n + (blksOf x).length ≤ stageSize) :
    flashTry clk host t x (waiting t n) = (stageWrite clk host t x (waiting t n), true) := by
  have hw : objWhole (waiting t n) x.arg0 = true := hwhole
  have hnone : waitsBefore (waiting t n) t = [] := by simp [waitsBefore, waiting, hfirst]
  have hfit : ¬ stageSize < stageFill (waiting t n) + (blksOf x).length := Nat.not_lt.mpr hroom
  simp [flashTry, hopc, hw, hnone, hfit]
/-- Every command but a write waits for its absent map pages. -/
theorem flashTry_misses (hopc : x.opc ≠ 0xA2) (hmiss : missing n x ≠ []) : flashTry clk host t x (waiting t n) = (startReads (missing n x) (waiting t n), false) := by
  have hm : missing (waiting t n) x = missing n x := rfl
  simp [flashTry, hopc, hm, hmiss]
theorem flashTry_read {bs : List Byte} {lost : Bool} (hopc : x.opc = 0xA3) (hin : missing n x = []) (hheld : rangeHeld n x = false)
    (hread : readRange x (foldNode ((blksOf x).filterMap (pageOfBlk n x.arg0)).eraseDups usePage (waiting t n)) = (m, bs, lost)) :
    flashTry clk host t x (waiting t n) = (post clk t (if lost then stDataLost else stSuccess) 0 (emit (.data x.addr0 bs) (prefetch x m)), true) := by
  have hm : missing (waiting t n) x = [] := hin
  have hh : rangeHeld (waiting t n) x = false := hheld
  have hpg : pageOfBlk (waiting t n) x.arg0 = pageOfBlk n x.arg0 := rfl
  simp [flashTry, hopc, hm, hh, hpg, hread]
/-- A discard that no one asked to be durable is done once its map pages show it. -/
theorem flashTry_discard (hopc : x.opc = 0xA4) (hin : missing n x = []) (hdur : x.durable = false) : flashTry clk host t x (waiting t n) = (post clk t stSuccess 0 (waiting t n), true) := by
  have hm : missing (waiting t n) x = [] := hin
  simp [flashTry, hopc, hm, hdur]

theorem flashWrite_readOnly (hwhole : objWhole n x.arg0 = true) (hro : objWritable n x.arg0 = false) : flashWrite clk host t x n = post clk t stCartRO 0 n := by
  simp [flashWrite, hwhole, hro]
theorem flashWrite_starts (hwhole : objWhole n x.arg0 = true) (hrw : objWritable n x.arg0 = true) : flashWrite clk host t x n = flashStart clk host t x n := by
  simp [flashWrite, hwhole, hrw]
theorem flashFree_plain (hkeep : x.flag 1 = false) :
    flashFree clk host t x n = post clk t stSuccess 0 (writeDir (modFls (fun f => { f with objs := mdel f.objs x.arg0 }) (unmap clk x.arg0 0 (2 ^ 64) n))) := if_neg (by simp [hkeep])
theorem flashFree_secure (hsecure : x.flag 1 = true) :
    flashFree clk host t x n = startSanit clk { tok := some t, sets := setsHolding n x.arg0 0 (2 ^ 64), free := [x.arg0] } (sealSets (setsHolding n x.arg0 0 (2 ^ 64)) (unmap clk x.arg0 0 (2 ^ 64) n)) := if_pos hsecure
end

/-- Settles O52: each command is the lemma of its job; one that may wait is `flashTry` on the node where it waits. -/
theorem flashCommandsComplete : Obligations.FlashCommandsComplete := by
  refine ⟨?_, ?_, ?_, ?_, ?_, ?_⟩
  · intro e q s t x n slots serials o ht hslots hpos hhost hnew hactive hsome hserials ho hroom hfree
    exact host_to ht (flashAlloc_makes hslots hpos hhost hnew hactive hsome hserials ho hroom hfree)
  · intro e q s t x n ht
    exact ⟨fun hkeep => host_to ht (flashFree_plain hkeep), fun hsecure => host_to ht (flashFree_secure hsecure)⟩
  · intro e q s t x n ht hwhole
    refine ⟨fun hro => host_to ht (flashWrite_readOnly hwhole hro), fun hrw hfirst hroom => host_to ht ?_⟩
    exact (flashWrite_starts hwhole hrw).trans (flashStart_ends (flashTry_write (taken_opc ht) hwhole hfirst hroom))
  · intro e q s t x n m bs lost ht
    have hopc : x.opc = 0xA3 := taken_opc ht
    exact ⟨fun hin hheld hread => host_to ht (flashStart_ends (flashTry_read hopc hin hheld hread)), fun hmiss => host_to ht (flashStart_waits (flashTry_misses (by omega) hmiss))⟩
  · intro e q s t x n m ht hdur hm hin
    subst hm
    exact host_to ht (congrArg (retryAll (clkOf e s) (hostOf e s)) (flashStart_ends (flashTry_discard (taken_opc ht) hin hdur)))
  · intro e q s t x n l ht hl
    subst hl
    exact host_ok ht

/-! ### Map pages and flushes (R213 to R215, R217, R219) -/

theorem mapPageRead_ends {k g : Nat} {clk : Clock} {host : Mem} {n : Node} (h : n.flash.reads.contains (k, g) = true) :
    mapPageRead k g clk host n = retryAll clk host (loadPage (k, g) (modFls (fun f => { f with reads := f.reads.filter (· != (k, g)) }) n)) := if_pos h
theorem mapPageWriteback_programs {k g : Nat} {n : Node} (hdirty : ∃ m ∈ n.flash.cache, m.cart = k ∧ m.page = g ∧ m.dirty.isSome = true) (hserves : (getCart n k).serves = true) :
    mapPageWriteback k g n = writePage k g n := by
  refine if_pos ?_
  simpa [hserves, and_assoc] using hdirty

section
variable {clk : Clock} {o b set k : Nat} {n : Node} {x : Staged} (hx : n.flash.stage.find? (fun x => x.obj == o && x.blk == b) = some x) (hk : slotOfBlk n o b = some k)
  (hin : ∀ g, pageOfBlk n o b = some g → pageIn n g = true)
include hx hk hin
/-- With its map page cached, a staged sector waits for a die short of free sets, for a set that takes it or for room in the one-bit buffer; else it is programmed. -/
theorem writeStageFlush_cached : writeStageFlush o b set n clk =
    if decide (o < 0x80000000) && decide (set < setCount) && decide (freeOnDie (getCart n k) (dieOf set) < 2) then
      modFls (fun f => { f with stage := modAll (fun y => y.ver == x.ver) (fun y => { y with die := some (dieOf set) }) f.stage }) n
    else if !setTakes (getCart n k) set (toOnebit n x) (decide (o < 0x80000000)) || (toOnebit n x && decide (onebitLimit n ≤ onebitFill n k)) then n
    else startProg { cart := k, set_ := set, pos := (takeSector clk k set (toOnebit n x) (modFls (fun f => { f with stage := f.stage.filter (fun y => y.ver != x.ver) }) n)).1, onebit := toOnebit n x, obj := o, blk := b,
                     data := x.data, ver := x.ver, toks := x.toks } (takeSector clk k set (toOnebit n x) (modFls (fun f => { f with stage := f.stage.filter (fun y => y.ver != x.ver) }) n)).2 := by
  have hmiss : (pageOfBlk n o b).toList.filter (fun g => !pageIn n g) = [] := by simpa using hin
  simp only [writeStageFlush, hx, hk, hmiss]
  rfl
theorem writeStageFlush_waits (hhost : o < 0x80000000) (hset : set < setCount) (hshort : freeOnDie (getCart n k) (dieOf set) < 2) :
    writeStageFlush o b set n clk = modFls (fun f => { f with stage := modAll (fun y => y.ver == x.ver) (fun y => { y with die := some (dieOf set) }) f.stage }) n := by
  rw [writeStageFlush_cached hx hk hin, if_pos (by simp [hhost, hset, hshort])]
theorem writeStageFlush_programs {pos : Nat} {m : Node} (htakes : setTakes (getCart n k) set (toOnebit n x) (decide (o < 0x80000000)) = true) (hbuf : toOnebit n x = true → onebitFill n k < onebitLimit n)
    (hpos : takeSector clk k set (toOnebit n x) (modFls (fun f => { f with stage := f.stage.filter (fun y => y.ver != x.ver) }) n) = (pos, m)) :
    writeStageFlush o b set n clk = startProg { cart := k, set_ := set, pos := pos, onebit := toOnebit n x, obj := o, blk := b, data := x.data, ver := x.ver, toks := x.toks } m := by
  have hdie : ¬ (decide (o < 0x80000000) && decide (set < setCount) && decide (freeOnDie (getCart n k) (dieOf set) < 2)) = true := by
    have hsets : o < 0x80000000 → 2 ≤ freeOnDie (getCart n k) (dieOf set) := by
      simp only [setTakes, Bool.and_eq_true, Bool.or_eq_true, Bool.not_eq_true', decide_eq_false_iff_not, decide_eq_true_eq] at htakes
      obtain ⟨⟨_, hfree⟩, _⟩ := htakes
      exact fun hhost => hfree.resolve_left (not_not_intro hhost)
    simp only [Bool.and_eq_true, decide_eq_true_eq]
    rintro ⟨⟨hhost, _⟩, hshort⟩
    exact Nat.not_lt.mpr (hsets hhost) hshort
  rw [writeStageFlush_cached hx hk hin, if_neg hdie, if_neg (by simpa [htakes] using hbuf), hpos]
end

/-! ### The end of a program (R216, R222) -/

theorem programDone_ends {i : Nat} {clk : Clock} {host : Mem} {n : Node} {g : Prog} (hg : mget n.flash.progs i = some g) :
    programDone i clk host n = retryAll clk host (settleKept clk (endProg clk i g n)) := by
  simp only [programDone, hg]
theorem programFailure_moves {clk : Clock} {i set plane : Nat} {n : Node} {g : Prog} {ps : List (Nat × Prog)} {m z : Node} {goes : Bool} (hg : mget n.flash.progs i = some g) (hset : g.set_ ≠ set) (hplane : plane < 4)
    (htakes : setTakes (getCart n g.cart) set g.onebit false = true) (hps : progsOf n g.cart g.set_ = ps) (hroom : ps.length ≤ setRoom (getSet (getCart n g.cart) set) g.onebit)
    (hm : foldNode ps (fun h n => modFls (fun f => { f with progs := mmod f.progs h.1 (fun y => { y with set_ := set, pos := (takeSector clk g.cart set g.onebit n).1 }) }) (takeSector clk g.cart set g.onebit n).2)
      (dropDead clk g.cart g.set_ n) = m)
    (hz : retireBlock clk g.cart g.set_ plane (relocate clk g.cart g.set_ (modSet g.cart g.set_ (fun b => { b with phase := 5 }) m)) = (z, goes)) :
    programFailure i set plane clk n = modSet g.cart g.set_ (fun b => { b with phase := if goes then 4 else 3 })
      (modFls (fun f => { f with copies := modAll (fun c => c.cart == g.cart && c.set_ == g.set_ && planeOf c.pos == plane) (fun c => { c with set_ := retiredSet (getCart (relocate clk g.cart g.set_ (modSet g.cart g.set_ (fun b => { b with phase := 5 }) m)) g.cart) }) f.copies }) z) := by
  have hgo : ¬ (g.set_ = set || decide (4 ≤ plane) || !setTakes (getCart n g.cart) set g.onebit false || decide (setRoom (getSet (getCart n g.cart) set) g.onebit < ps.length)) = true := by
    simp [hset, hplane, htakes, hroom]
  simp only [programFailure, hg, hps, if_neg hgo, hm, hz]

/-- Settles O53: each event is the lemma of its body; a flush splits on what holds its program back. -/
theorem programsRun : Obligations.ProgramsRun := by
  refine ⟨?_, ?_, ?_, ?_, ?_⟩
  · intro e k g s ha hread
    exact run_to ha (mapPageRead_ends hread)
  · intro e k g s ha hdirty hserves
    exact run_to ha (mapPageWriteback_programs hdirty hserves)
  · intro e o b set s x k ob ha hx hk hin hob
    subst hob
    exact ⟨fun hhost hset hshort => run_to ha (writeStageFlush_waits hx hk hin hhost hset hshort), fun pos m htakes hbuf hpos => run_to ha (writeStageFlush_programs hx hk hin htakes hbuf hpos)⟩
  · intro e i s g ha hg
    exact run_to ha (programDone_ends hg)
  · intro e i set plane s g ps m z goes ha hg hset hplane htakes hps hroom hm hz
    exact run_to ha (congrArg (retryAll (clkOf e s) (hostOf e s)) (programFailure_moves hg hset hplane htakes hps hroom hm hz))

/-! ### Fold (R217, R218) -/

theorem fold_starts {clk : Clock} {k set : Nat} {n : Node} (hst : (getCart n k).st = .active) (htakes : setTakes (getCart n k) set false false = true) :
    fold k set clk n = startCopies clk k set .fold ((foldNext n k).take (setRoom (getSet (getCart n k) set) false)) n := if_neg (by simp [hst, htakes])
theorem startCopies_cons {clk : Clock} {k set pos : Nat} {why : ProgWhy} {c : Copy} {cs : List Copy} {n n1 n2 : Node} {d : List Byte} {lost : Bool} (hread : readCopy c n = (n1, d, lost)) (hpos : takeSector clk k set false n1 = (pos, n2)) :
    startCopies clk k set why (c :: cs) n = startCopies clk k set why cs (startProg { cart := k, set_ := set, pos := pos, onebit := false, obj := c.obj, blk := c.blk, data := c.data, ver := c.ver, ecc := if lost then 9 else 0, why := why } n2) := by
  simp only [startCopies, foldNode, List.foldl_cons, hread, hpos]

/-- A copy that is mapped and lies in the one-bit buffer is the source of this Fold copy. -/
def sourceOf (c x : Copy) : Bool := x.obj == c.obj && x.blk == c.blk && x.ver == c.ver && x.mapped && x.onebit
/-- Fold copies of a set whose sources are still mapped. -/
def foldReady (m : Node) (k set : Nat) : List Copy := m.flash.copies.filter (fun c => c.cart == k && c.set_ == set && !c.mapped && m.flash.copies.any (sourceOf c))
/-- A Fold copy is mapped in the place of its source. -/
def takeOver (c : Copy) (m : Node) : Node :=
  modFls (fun f => { f with copies := f.copies.map (fun y => if sourceOf c y then { y with mapped := false } else if y == c then { y with mapped := true } else y) }) m
/-- A Fold copy takes over from its sources, whose sets may then be empty. -/
def remapCopy (clk : Clock) (k : Nat) (c : Copy) (m : Node) : Node :=
  countC k 2 1 (foldNode (m.flash.copies.filter (sourceOf c)) (fun x n => emptied x.cart x.set_ n) (dirtyPage clk c.obj c.blk (noteMap k c.obj c.blk (mapEntry (getCart (takeOver c m) k) c) (takeOver c m))))
section
variable {clk : Clock} {k set : Nat} {n m : Node} {b : BSet} (hb : getSet (getCart n k) set = b) (hphase : b.phase = 1 ∨ b.phase = 2) (hqlc : b.qlc = true) (hdone : progsInto n k set = false)
  (hm : modSet k set (fun b => { b with phase := 2, at_ := if b.phase = 1 then clk.node else b.at_ }) n = m)
include hb hphase hqlc hdone hm
/-- A dense set whose programs are done closes, and each of its copies that is ready takes over. -/
theorem foldRemap_closes : foldRemap k set clk n = foldNode (foldReady m k set) (remapCopy clk k) m := by
  have hgo : ¬ (!(b.phase == 1 || b.phase == 2) || !b.qlc || progsInto n k set) = true := by simpa [hqlc, hdone, ← not_or] using hphase
  simp only [foldRemap, hb, if_neg hgo, hm]
  rfl
theorem foldRemap_none (hready : foldReady m k set = []) : foldRemap k set clk n = m := by
  rw [foldRemap_closes hb hphase hqlc hdone hm, hready]
  rfl
theorem foldRemap_one {m2 : Node} {c x : Copy} (hready : foldReady m k set = [c]) (hsrc : m.flash.copies.filter (sourceOf c) = [x]) (hm2 : takeOver c m = m2) :
    foldRemap k set clk n = countC k 2 1 (emptied x.cart x.set_ (dirtyPage clk c.obj c.blk (noteMap k c.obj c.blk (mapEntry (getCart m2 k) c) m2))) := by
  rw [foldRemap_closes hb hphase hqlc hdone hm, hready]
  simp only [foldNode, List.foldl_cons, List.foldl_nil, remapCopy, hsrc, hm2]
end

/-! ### The Wringer (R219, R220) -/

section
variable {clk : Clock} {k d set v : Nat} {n : Node} {vs : List Copy} (hst : (getCart n k).st = .active) (hidle : draining n k d = none) (hshort : freeOnDie (getCart n k) d < freeLow n) (hv : victim clk.node n k d = some v)
  (hvs : (validIn n k v).filter (fun c => !n.flash.progs.any (fun g => g.2.obj == c.obj && g.2.blk == c.blk && g.2.ver == c.ver && g.2.why == .wring)) = vs)
include hst hidle hshort hv hvs
/-- A victim with nothing left to copy may be erased. -/
theorem wringer_empty (hnil : vs = []) : wringer k d set clk n = emptied k v (modSet k v (fun b => { b with phase := 5 }) n) := by
  subst hnil
  simp [wringer, hst, hidle, hshort, hv, hvs]
theorem wringer_copies (hsome : vs ≠ []) (hne : set ≠ v) (htakes : setTakes (getCart n k) set false false = true) (hfree : (getSet (getCart n k) set).phase = 0) :
    wringer k d set clk n = startCopies clk k set .wring vs (modSet k v (fun b => { b with phase := 5 }) n) := by
  simp [wringer, hst, hidle, hshort, hv, hvs, hsome, hne, htakes, hfree]
end

/-! ### Erases (R219, R220, R223, R226) -/

section
variable {clk : Clock} {host : Mem} {k set : Nat} {n : Node} (hopen : eraseOpen n k set = true)
include hopen
theorem eraseDone_outOfService (hout : outOfService n k set = true) : eraseDone k set clk host n = retryAll clk host (sanitSet clk k set false (dropSectors k set none n)) := by
  simp [eraseDone, hopen, hout]
section
variable {m : Node} (hin : outOfService n k set = false) (hm : sanitSet clk k set false (wipeSet clk k set false none (relocate clk k set n)) = m)
include hin hm
/-- The die has free sets enough, or the Wringer was not at work there. -/
theorem eraseDone_ends (h : (getSet (getCart n k) set).qlc = false ∨ (getSet (getCart n k) set).phase ≠ 4 ∨ 2 * freeLow m ≤ freeOnDie (getCart m k) (dieOf set)) : eraseDone k set clk host n = retryAll clk host m := by
  have hstop : ¬ ((getSet (getCart n k) set).qlc && (getSet (getCart n k) set).phase == 4 && (getCart m k).st == .active && decide (freeOnDie (getCart m k) (dieOf set) < 2 * freeLow m) && (draining m k (dieOf set)).isNone) = true := by
    simp only [Bool.and_eq_true, beq_iff_eq, decide_eq_true_eq]
    rintro ⟨⟨⟨⟨hqlc, hphase⟩, _⟩, hshort⟩, _⟩
    rcases h with h | h | h
    · simp [hqlc] at h
    · exact h hphase
    · omega
  simp only [eraseDone, hopen, hin, hm, if_neg hstop]
  rfl
theorem eraseDone_goesOn {v : Nat} (hqlc : (getSet (getCart n k) set).qlc = true) (hphase : (getSet (getCart n k) set).phase = 4) (hst : (getCart m k).st = .active)
    (hshort : freeOnDie (getCart m k) (dieOf set) < 2 * freeLow m) (hidle : draining m k (dieOf set) = none) (hv : victim clk.node m k (dieOf set) = some v) :
    eraseDone k set clk host n = retryAll clk host (emptied k v (modSet k v (fun b => { b with phase := 5 }) m)) := by
  simp [eraseDone, hopen, hin, hm, hqlc, hphase, hst, hshort, hidle, hv]
end
variable {pl : Nat} {ok : Bool} (hpl : pl < 4)
include hpl
theorem eraseFailure_inService {goes : Bool} {m : Node} (hin : outOfService n k set = false) (hm : retireBlock clk k set pl (relocate clk k set n) = (m, goes)) :
    eraseFailure k set pl ok clk host n = retryAll clk host (sanitSet clk k set (!ok) (wipeSet clk k set (!goes) (if inSanit n k set && ok then none else some (pl, retiredSet (getCart (relocate clk k set n) k))) m)) := by
  have hgo : ¬ (!eraseOpen n k set || decide (4 ≤ pl)) = true := by simp [hopen, hpl]
  simp only [eraseFailure, if_neg hgo, hin, hm, Bool.false_eq_true, if_false]
theorem eraseFailure_outOfService (hout : outOfService n k set = true) :
    eraseFailure k set pl ok clk host n = retryAll clk host (sanitSet clk k set (!ok) (if inSanit n k set && ok then dropSectors k set none n else n)) := by
  have hgo : ¬ (!eraseOpen n k set || decide (4 ≤ pl)) = true := by simp [hopen, hpl]
  simp only [eraseFailure, if_neg hgo, hout, if_true]
end

/-- Settles O54: each event is the lemma of its body; a remapping by the copies that are ready, the Wringer by what its victim still holds, an erase by the set's service. -/
theorem foldAndWringerRun : Obligations.FoldAndWringerRun := by
  refine ⟨?_, ?_, ?_, ?_, ?_, ?_, ?_, ?_, ?_⟩
  · intro e k set s ha hst htakes
    exact run_to ha (fold_starts hst htakes)
  · intro clk k set pos why c cs n n1 n2 d lost
    exact ⟨rfl, startCopies_cons⟩
  · intro e k set s b m ha hb hphase hqlc hdone hm hready
    exact run_to ha (foldRemap_none hb hphase hqlc hdone hm hready)
  · intro e k set s b m m2 c x ha hb hphase hqlc hdone hm hready hsrc hm2
    exact run_to ha (foldRemap_one hb hphase hqlc hdone hm hready hsrc hm2)
  · intro e k d set v s vs ha hst hidle hshort hv hvs
    exact ⟨fun hnil => run_to ha (wringer_empty hst hidle hshort hv hvs hnil), fun hsome hne htakes hfree => run_to ha (wringer_copies hst hidle hshort hv hvs hsome hne htakes hfree)⟩
  · intro e k set s ha hopen hout
    exact run_to ha (eraseDone_outOfService hopen hout)
  · intro e k set s m ha hopen hin hm
    exact ⟨fun h => run_to ha (eraseDone_ends hopen hin hm h), fun v hqlc hphase hst hshort hidle hv => run_to ha (eraseDone_goesOn hopen hin hm hqlc hphase hst hshort hidle hv)⟩
  · intro e k set pl ok goes s m ha hopen hpl hin hm
    exact run_to ha (eraseFailure_inService hopen hpl hin hm)
  · intro e k set pl ok s ha hopen hpl hout
    exact run_to ha (eraseFailure_outOfService hopen hpl hout)

end Sys2Proof.Machine
end

section
/-! Proofs for chapter 11: queue pairs and sessions, the admin pair and doorbells, function resets and virtual functions, notifications of the host (R234 to R252, R284, R333); and the step at the front of the queue (R371). -/

namespace Sys2Proof.Machine

/-! ### The front of the queue (R371) -/

theorem step_cons {s : State} {c : Instr} {rest : List Instr} (h : s.pending = c :: rest) : step s = exec c { s with pending := rest } := by
  rw [step, h]

/-- Settles O1: the queue's rest is the queue that the command found. -/
theorem stepRunsTheFrontCommand : Obligations.StepRunsTheFrontCommand := by
  intro c s
  exact step_cons (s := { s with pending := c :: s.pending }) rfl

/-! ### Queue pairs (R237, R240, R244) -/

section
variable {clk : Clock} {host : Mem} {t : Tok} {x : Sqe} {q : QRef} {n m : Node} {y : Queue}
theorem queueCreate_makes (hmap : (getFn n t.fn).map.isSome = true) (hroom : ioCount n < 4096) :
    queueCreate clk host t x n = post clk t stSuccess 0 (modFn t.fn (fun f => { f with queues := mset f.queues x.target (pairOf x) }) n) := by
  have hmapped : ¬ (getFn n t.fn).map.isNone = true := by simpa [Option.isSome_iff_ne_none] using hmap
  rw [queueCreate, if_neg hmapped, if_neg (Nat.not_le.mpr hroom)]
  rfl
theorem queueDelete_removes (hy : getQ n t.fn x.target = some y) (hidle : y.cmds = []) (hst : y.st ≠ .resetting) :
    queueDelete clk host t x n = post clk t stSuccess 0 (modFn t.fn (fun f => { f with queues := mdel f.queues x.target }) n) := by
  simp [queueDelete, hy, hidle, hst]
/-- The pair resets up to its tail, and each command that it has fetched is aborted. -/
theorem queueReset_starts (hy : getQ n t.fn x.target = some y) (hst : y.st ≠ .resetting) (hm : modQ t.fn x.target (fun y => { y with st := .resetting, resetTo := y.sqTail, resetTok := some t }) n = m) :
    queueReset clk host t x n =
      settleFn clk t.fn (foldNode (pairToks m t.fn x.target) (fun c n => post clk c.1 stAborted (abortResult ((cmdOf n c.1).getD c.2)) (abortTok clk c.1 n)) m) := by
  subst hm
  simp only [queueReset, hy, if_neg hst]
/-- Every entry up to the reset point has completed. -/
theorem queueResetDone_ends (hm : abortEntries clk host q.fn q.qid n = m) (hy : getQ m q.fn q.qid = some y) (hst : y.st = .resetting) (hhead : y.sqHead = y.resetTo) (hidle : y.cmds = []) :
    queueResetDone q clk host n = postO clk y.resetTok stSuccess 0 (modQ q.fn q.qid (fun y => { y with st := .active, resetTok := none }) m) := by
  simp [queueResetDone, hm, hy, hst, hhead, hidle]
end

/-- Settles O8: each command is the lemma of its job. -/
theorem queueCommandsComplete : Obligations.QueueCommandsComplete := by
  refine ⟨?_, ?_, ?_, ?_⟩
  · intro e q s t x n ht hmap hroom
    exact host_to ht (queueCreate_makes hmap hroom)
  · intro e q s t x n y ht hy hidle hst
    exact host_to ht (queueDelete_removes hy hidle hst)
  · intro e q s t x n y ht hy hst
    exact host_to ht (queueReset_starts hy hst rfl)
  · intro e q s m y ha hm hy hst hhead hidle
    exact run_to ha (queueResetDone_ends hm hy hst hhead hidle)

/-! ### Sessions (R251, R252) -/

section
variable {clk : Clock} {host : Mem} {t : Tok} {x : Sqe} {n : Node}
theorem sessionPhase0_gives (hopen : lockedAt clk (getKey n (x.arg0 % 8)) = false) (hkey : (getKey n (x.arg0 % 8)).key.isSome = true) :
    sessionPhase0 clk host t x n = post clk t stSuccess 0 (emit (.data x.addr0 (toLe 32 (Config.nonce n.free).toNat))
      (modFn t.fn (fun f => { f with nonce := some { value := Config.nonce n.free, slot := x.arg0 % 8, at_ := clk.node } }) { n with free := n.free + 1 })) := by
  have hset : ¬ (getKey n (x.arg0 % 8)).key.isNone = true := by simpa [Option.isSome_iff_ne_none] using hkey
  simp only [sessionPhase0, hopen, if_neg hset, Bool.false_eq_true, if_false, nextFree]
/-- The nonce is spent before the slot is looked at. -/
theorem sessionPhase1_opens {mac : List Byte} (hopen : lockedAt clk (getKey n (x.arg0 % 8)) = false) (hproof : proofOk clk n t.fn (x.arg0 % 8) (Mem.readN host x.addr0 80) = some mac) :
    sessionPhase1 clk host t x n = post clk t stSuccess 0 (emit (.data x.addr1 mac) (modKey (x.arg0 % 8) (fun k => { k with fails := 0 })
      (modFn t.fn (fun f => { f with session := some (x.arg0 % 8) }) (modFn t.fn (fun f => { f with nonce := none }) n)))) := by
  have hspent : lockedAt clk (getKey (modFn t.fn (fun f => { f with nonce := none }) n) (x.arg0 % 8)) = false := hopen
  simp only [sessionPhase1, hspent, hproof, Bool.false_eq_true, if_false]
theorem lockedAt_over {k : KeySlot} {c : Nat} (hk : k.locked = some c) (hc : c ≤ clk.node) : lockedAt clk k = false := by
  simpa [lockedAt, hk] using hc
theorem lockoutEnd_over {slot c : Nat} (hk : (getKey n slot).locked = some c) (hc : c ≤ clk.node) : lockoutEnd slot clk n = modKey slot (fun k => { k with locked := none, fails := 0 }) n := by
  simp [lockoutEnd, hk, lockedAt_over hk hc]
end

/-- Settles O9: each command is the lemma of its job; the closing of a session and the changes of a key are their definitions. -/
theorem sessionCommandsComplete : Obligations.SessionCommandsComplete := by
  refine ⟨?_, ?_, ?_, ?_, ?_, ?_⟩
  · intro e q s t x n ht hopen hkey
    exact host_to ht (sessionPhase0_gives hopen hkey)
  · intro e q s t x n mac ht hopen hproof
    exact host_to ht (sessionPhase1_opens hopen hproof)
  · intro e q s t x n ht
    exact host_to ht rfl
  · intro e slot s c ha hk hc
    exact run_to ha (lockoutEnd_over hk hc)
  · intro e q s t x n ht
    -- the row depends on the node that the command finds, where `host_to` takes a fixed one
    have ha := taken_alive ht
    obtain ⟨hacc, hfetch⟩ := ht
    exact run_to ha (hostCmd_accepted hacc hfetch)
  · intro e q s t x n ht
    exact host_to ht rfl

/-! ### The admin pair (R236, R245) -/

section
variable {fn : Nat} {clk : Clock} {n : Node} (hr : reach n = true) (ha : aonOnly n = false)
include hr ha
/-- R236: a depth of 0, a completion queue shorter than the submission queue, or a base of 0 is no admin pair. -/
theorem aqEnable_off (he : (getFn n fn).enabled = true) (hoff : aqEnabled (getFn n fn) = false) :
    aqEnable fn clk n =
      if fld (getFn n fn).aqCtl 16 12 = 0 ∨ fld (getFn n fn).aqCtl 32 12 < fld (getFn n fn).aqCtl 16 12 ∨ fld (getFn n fn).aqSq 12 52 = 0 ∨ fld (getFn n fn).aqCq 12 52 = 0 then
        noteSet (aqKey fn) 2 (modFn fn (fun x => { x with aqCtl := put x.aqCtl 0 3 5 }) n)
      else modFn fn (fun x => { x with aqCtl := put x.aqCtl 0 2 3, queues := mset x.queues 0 (adminPairOf (getFn n fn)) }) n := by
  simp only [aqEnable, hr, ha, he, hoff, Bool.not_true, Bool.or_self, Bool.false_eq_true, if_false]
  refine if_congr ?_ rfl rfl
  simp only [Bool.or_eq_true, decide_eq_true_eq, beq_iff_eq]
  omega
theorem aqDisable_stops (hon : aqEnabled (getFn n fn) = true) :
    aqDisable fn clk n = settleD fn (foldNode (pairToks n fn 0) (fun t n => abortTok clk t.1 n) (modFn fn (fun x => { x with aqCtl := put x.aqCtl 0 2 0, queues := mdel x.queues 0, session := none }) n)) := by
  simp only [aqDisable, hr, ha, hon, Bool.not_true, Bool.or_self, Bool.false_eq_true, if_false]
end

/-- Settles O10: setting `ENABLE` splits on whether the registers describe a pair. -/
theorem adminPairStartsAndStops : Obligations.AdminPairStartsAndStops := by
  refine ⟨?_, ?_, ?_⟩
  · intro e fn s f hf hr ha he hoff hsq hcq hsb hcb
    subst hf
    exact aon_to ((aqEnable_off hr ha he hoff).trans (if_neg (by omega)))
  · intro e fn s f hf hr ha he hoff hbad
    subst hf
    exact aon_to ((aqEnable_off hr ha he hoff).trans (if_pos hbad))
  · intro e fn s hr ha hon
    exact aon_to (aqDisable_stops hr ha hon)

/-! ### Doorbells (R240) -/

section
variable {q : QRef} {n : Node} {y : Queue} {v : Nat} (hy : getQ n q.fn q.qid = some y)
include hy
theorem ringSq_moves (hv : v ≤ y.sqSize) : ringSq q false v n = modQ q.fn q.qid (fun x => { x with sqTail := v }) n := by
  simp [ringSq, hy, Nat.not_lt.mpr hv]
theorem ringSq_refuses (late : Bool) (hv : y.sqSize < v) : ringSq q late v n = dbErr q.fn q.qid 2 n := by
  simp [ringSq, hy, hv]
theorem ringCq_moves (hv : v ≤ y.cqSize) (hposted : (v + (y.cqSize + 1) - y.cqHead) % (y.cqSize + 1) ≤ y.unreleased) : ringCq q v n = modQ q.fn q.qid (fun x => { x with cqHead := v }) n := by
  simp [ringCq, hy, Nat.not_lt.mpr hv, Nat.not_lt.mpr hposted]
theorem ringCq_refuses (hv : y.cqSize < v ∨ y.unreleased < (v + (y.cqSize + 1) - y.cqHead) % (y.cqSize + 1)) : ringCq q v n = dbErr q.fn q.qid 3 n := by
  simp [ringCq, hy, hv]
end

section
variable {q : QRef} {p v : Nat} {clk : Clock} {n : Node} {y : Queue} (hrun : n.pwr.st = .run)
include hrun
theorem wakeNode_run (clk : Clock) (byDoorbell : Bool) : wakeNode clk byDoorbell n = n := by
  simp [wakeNode, hrun]
variable (hpow : (getP n p).pow = .on)
include hpow
theorem inTransit_on {f : Nat} (hmap : (getFn n f).map = some p) : inTransit n f = false := by
  simp only [inTransit, hmap, hrun, hpow]
  rfl
theorem rouse_on (clk : Clock) : rouse clk p n = n := by
  simp [rouse, hrun, hpow]
variable (hy : getQ n q.fn q.qid = some y) (hr : reach n = true) (he : (getFn n q.fn).enabled = true) (hmap : (getFn n q.fn).map = some p)
include hy hr he hmap
/-- A doorbell that wakes nothing rings the half written, and its entries are not late. -/
theorem doorbell_sq : doorbell q (some v) none clk n = ringSq q false v n := by
  simp [doorbell, hr, he, hy, hmap, hrun, inTransit_on hrun hpow hmap, wakeNode_run hrun, rouse_on hrun hpow]
theorem doorbell_cq : doorbell q none (some v) clk n = ringCq q v n := by
  simp [doorbell, hr, he, hy, hmap, hrun, wakeNode_run hrun, rouse_on hrun hpow]
end

/-- Settles O11: a doorbell that wakes nothing is the ring of the half written, which splits on its value's range. -/
theorem doorbellsRing : Obligations.DoorbellsRing := by
  intro e q s y p hr he hy hmap hpow hrun
  have hsq (v : Nat) : doorbell q (some v) none (clkOf e s) (nodeOf e s) = ringSq q false v (nodeOf e s) := doorbell_sq hrun hpow hy hr he hmap
  have hcq (v : Nat) : doorbell q none (some v) (clkOf e s) (nodeOf e s) = ringCq q v (nodeOf e s) := doorbell_cq hrun hpow hy hr he hmap
  refine ⟨?_, ?_, ?_, ?_⟩
  · intro v hv
    exact aon_to ((hsq v).trans (ringSq_moves hy hv))
  · intro v hv
    exact aon_to ((hsq v).trans (ringSq_refuses hy false hv))
  · intro v hv hposted
    exact aon_to ((hcq v).trans (ringCq_moves hy hv hposted))
  · intro v hv
    exact aon_to ((hcq v).trans (ringCq_refuses hy hv))

/-! ### Functions (R245, R277, R284, R333) -/

section
variable {f k : Nat} {clk : Clock} {n : Node} (hr : reach n = true)
include hr
theorem vfEnable_raises {i : Image} (hmode : n.boot.mode ≠ 1) (hk : k ≤ n.totalVfs) (hup : n.numVfs < k) (hi : n.boot.image = some i) :
    vfEnable k n = { foldNode ((List.range (k - n.numVfs)).map (fun j => n.numVfs + 1 + j)) (fun f n => qosImage i.node.qos f (modFn f (fun x => { x with enabled := true }) n)) n with numVfs := k } := by
  have hgo : ¬ (!reach n || n.boot.mode == 1 || decide (n.totalVfs < k) || decide (k ≤ n.numVfs)) = true := by
    simp [hr, hmode]
    omega
  simp only [vfEnable, if_neg hgo, hi]
theorem vfDisable_lowers (hdown : k < n.numVfs) :
    vfDisable k clk n = { foldNode ((List.range (n.numVfs - k)).map (fun j => k + 1 + j)) (fun f n => modFn f (fun x => { ({} : Fn) with map := x.map, attnSeq := x.attnSeq }) (resetFn clk f n)) n with numVfs := k } := by
  have hgo : ¬ (!reach n || decide (n.numVfs ≤ k)) = true := by simpa [hr] using hdown
  rw [vfDisable, if_neg hgo]
variable (he : (getFn n f).enabled = true)
include he
theorem flr_resets : flr f clk n = if f = 0 then vfDisable 0 clk (resetFn clk f n) else resetFn clk f n := by
  simp only [flr, hr, he, Bool.not_true, Bool.or_self, Bool.false_eq_true, if_false]
theorem d3hotEntry_starts (hd : (getFn n f).dst ≠ .d3hot) : d3hotEntry f n = settleD f (modFn f (fun x => { x with dst := .draining false }) n) := by
  simp [d3hotEntry, hr, he, hd]
theorem d0Entry_returns (hd : (getFn n f).dst = .d3hot) : d0Entry f n = sendPend f (modFn f (fun x => { x with dst := .d0 }) n) := by
  simp [d0Entry, hr, he, hd]
end

/-- Settles O12: each event is the lemma of its body; a function-level reset splits on whether it is the physical function's. -/
theorem functionEventsComplete : Obligations.FunctionEventsComplete := by
  refine ⟨?_, ?_, ?_, ?_, ?_, ?_⟩
  · intro e fn s hr he hf
    exact aon_to ((flr_resets hr he).trans (if_neg hf))
  · intro e s hr he
    exact aon_to (flr_resets hr he)
  · intro e k s i hr hmode hk hup hi
    exact aon_to (vfEnable_raises hr hmode hk hup hi)
  · intro e k s hr hdown
    exact aon_to (vfDisable_lowers hr hdown)
  · intro e fn s hr he hd
    exact aon_to (d3hotEntry_starts hr he hd)
  · intro e fn s hr he hd
    exact aon_to (d0Entry_returns hr he hd)

/-! ### Failed fetches, vectors, heartbeats and attention (R234, R239, R249, R250) -/

section
variable {q : QRef} {clk : Clock} {host : Mem} {t : Tok} {x : Sqe} {n m : Node} {y : Queue}
theorem hostReadFailure_fetch (hy : getQ n q.fn q.qid = some y) (hst : y.st ≠ .resetting) (hm : grant clk q n = some m) :
    hostReadFailure q .fetch clk host n = emit (.aer q.fn) (raiseAt attnHost q.fn (modQ q.fn q.qid (fun x => { x with st := .error }) m)) := by
  simp only [hostReadFailure, hy, if_neg hst, hm]
theorem signal_raises {f qid : Nat} (hy : getQ n f qid = some y) : signal f qid n = raiseVec f y.vector (msixHeld n f qid) (modQ f qid (fun x => { x with unsig := 0, unsigAt := none }) n) := by
  rw [signal, hy]
theorem cqVectorTimer_due {t0 : Nat} (hy : getQ n q.fn q.qid = some y) (hio : q.qid ≠ 0) (hien : y.ien = true) (hun : y.unsig ≠ 0) (hat : y.unsigAt = some t0) (hdue : t0 + 300 * y.aggUs ≤ clk.node) :
    cqVectorTimer q clk n = signal q.fn q.qid n := by
  simp [cqVectorTimer, hy, hio, hien, hun, hat, hdue]
theorem heartbeat_beats (hready : n.boot.ready = true) (hmode : n.boot.mode ≠ 1) (hr : reach n = true) (hawake : awake n = true) (hdue : clk.node % 3000000 = 0) (hnew : n.hbAt ≠ some clk.node) :
    heartbeat clk n = foldNode (List.range 64) (beat clk) { n with hbAt := some clk.node } := by
  simp [heartbeat, recovery, hready, hmode, hr, hawake, hdue, hnew]
theorem attnAck_current (hseq : x.arg0 / 65536 % 2 ^ 32 = (getFn n t.fn).attnSeq.toNat) :
    attnAck clk host t x n = post clk t stSuccess 0 (modFn t.fn (fun f => { f with attn := f.attn &&& ~~~(BitVec.ofNat 16 x.arg0) }) n) := if_pos hseq
theorem attnAck_stale (hseq : x.arg0 / 65536 % 2 ^ 32 ≠ (getFn n t.fn).attnSeq.toNat) : attnAck clk host t x n = post clk t stSuccess (getFn n t.fn).attnSeq.toNat n := if_neg hseq
end

/-- Settles O13: each notification is the lemma of its body; `ATTN_ACK` splits on whether it holds the current sequence. -/
theorem hostNotificationsComplete : Obligations.HostNotificationsComplete := by
  refine ⟨?_, ?_, ?_, ?_, ?_⟩
  · intro e q s y n ha hy hst hm
    exact run_to ha (hostReadFailure_fetch hy hst hm)
  · intro e q s y t0 ha hy hio hien hun hat hdue
    exact run_to ha ((cqVectorTimer_due hy hio hien hun hat hdue).trans (signal_raises hy))
  · intro e s ha hready hmode hr hawake hdue hnew
    exact run_to ha (heartbeat_beats hready hmode hr hawake hdue hnew)
  · intro e q s t x n ht hseq
    exact host_to ht (attnAck_current hseq)
  · intro e q s t x n ht hseq
    exact host_to ht (attnAck_stale hseq)

end Sys2Proof.Machine
end

section
/-! Proofs of what every step holds (95_what_each_step_holds), and of the encoding of messages (R268, Table 12-5). -/

namespace Sys2Proof.Machine

theorem leNat_toLe : ∀ {k v : Nat}, v < 256 ^ k → leNat (toLe k v) = v
  | 0, v, h => by simpa [toLe, leNat, eq_comm] using h
  | k + 1, v, h => by
    have hrest : v / 256 < 256 ^ k := Nat.div_lt_of_lt_mul (by rwa [← Nat.pow_succ'])
    simp only [toLe, leNat, leNat_toLe hrest, BitVec.toNat_ofNat]
    omega
/-- A field of little-endian bytes reads back where it begins. -/
theorem leAt_toLe {k v : Nat} (rest : List Byte) (h : v < 256 ^ k) : leAt (toLe k v ++ rest) 0 k = v := by
  rw [leAt, List.drop_zero, List.take_left' (length_toLe k v), leNat_toLe h]
/-- What stands behind a field is read from the bytes behind it. -/
theorem drop_toLe {k off : Nat} (v : Nat) (rest : List Byte) (h : k ≤ off) : (toLe k v ++ rest).drop off = rest.drop (off - k) := by
  rw [List.drop_append, length_toLe, List.drop_eq_nil_of_le (by rwa [length_toLe]), List.nil_append]
theorem leAt_behind {k off : Nat} (v len : Nat) (rest : List Byte) (h : k ≤ off) : leAt (toLe k v ++ rest) off len = leAt rest (off - k) len := by
  rw [leAt, drop_toLe v rest h, leAt]

/-- Settles O59: each field is read where the header puts it, and the body is the `LEN` bytes behind the header. -/
theorem messagesReadBack : Obligations.MessagesReadBack := by
  intro m pad hkind hlevel hhops hsrcP hdstP hseg hseq hlen
  have hdst := m.dst.isLt
  have hsrc := m.src.isLt
  have hflags : b2n m.resend + 2 * b2n m.lastSeg < 4 := by cases m.resend <;> cases m.lastSeg <;> decide
  have hresend : ((b2n m.resend + 2 * b2n m.lastSeg) % 2 == 1) = m.resend := by cases m.resend <;> cases m.lastSeg <;> rfl
  have hlast : ((b2n m.resend + 2 * b2n m.lastSeg) / 2 == 1) = m.lastSeg := by cases m.resend <;> cases m.lastSeg <;> rfl
  have hsrcPtn : (m.srcPtn + 16 * m.dstPtn) % 8 = m.srcPtn := by omega
  have hdstPtn : (m.srcPtn + 16 * m.dstPtn) / 16 = m.dstPtn := by omega
  simp only [msgOf, slice, hdrBytes, List.append_assoc]
  simp (disch := omega) only [leAt_behind, drop_toLe, leAt_toLe, Nat.sub_self, Nat.reduceSub, Nat.mod_eq_of_lt, List.drop_zero, List.take_left', BitVec.ofNat_toNat, BitVec.setWidth_eq, hresend, hlast, hsrcPtn, hdstPtn]

/-! ### What every step holds -/

/-- A command's next state waits with the queue that it found. -/
theorem exec_next (c : Instr) (s : State) : ∃ t, exec c s = .next t ∧ t.pending = s.pending := by
  obtain ⟨e, body, h | h⟩ := exec_shape c s
  · exact ⟨_, h, rfl⟩
  · exact ⟨_, h, rfl⟩

/-- Settles O4: the next state is the one that `exec_next` gives. -/
theorem commandsLeaveTheQueue : Obligations.CommandsLeaveTheQueue := by
  intro c s t h
  obtain ⟨u, hu, hpend⟩ := exec_next c s
  rw [h] at hu
  cases hu
  exact hpend

/-- Settles O2: an empty queue has no command at its front. -/
theorem emptyQueueIdles : Obligations.EmptyQueueIdles := by
  intro s h
  rw [step, h]

/-- Settles O3: an empty queue idles, and a command at the front ends in a next state. -/
theorem noCommandStops : Obligations.NoCommandStops := by
  intro s
  cases h : s.pending with
  | nil => exact ⟨s, emptyQueueIdles s h⟩
  | cons c rest =>
    obtain ⟨t, ht, _⟩ := exec_next c { s with pending := rest }
    exact ⟨t, (step_cons h).trans ht⟩

end Sys2Proof.Machine
end

section
/-! Proofs for chapters 14 and 15: power entries, wakes and limits (R327 to R344), register writes in sleep (R336), and the regulators (R345, R353 to R357). -/

namespace Sys2Proof.Machine

/-! ### Entries (R327, R330 to R333) -/

section
variable {clk : Clock} {host : Mem} {t : Tok} {x : Sqe} {n : Node} {p : Nat}
/-- A node that runs is in none of the states that an entry, or a wake, names. -/
theorem inState_running {st : NPow} {target : Nat} (hst : st = .run ∨ st = .idle) (ht : target ≠ 0) : inState st target = false := by
  unfold inState
  split
  · exact absurd rfl ht
  all_goals rcases hst with rfl | rfl <;> rfl
theorem powerSet_enters (hst : n.pwr.st = .run ∨ n.pwr.st = .idle) (ht : x.arg0 ≠ 0) : powerSet clk host t x n = beginEntry clk t x.arg0 n := by
  have hnot := inState_running hst ht
  rcases hst with hst | hst <;> rw [hst] at hnot <;> simp [powerSet, hst, hnot, ht]
/-- An entry from Run or Idle: every partition that is powered drains for it. -/
theorem beginEntry_running (target : Nat) (hst : n.pwr.st = .run ∨ n.pwr.st = .idle) : beginEntry clk t target n = { n with
      ptns := n.ptns.map (fun y => if y.st ≠ .absent ∧ (y.pow = .on ∨ y.pow = .gated) then { y with pow := .entering } else y)
      pwr := { n.pwr with st := .entering, target := target, entryTok := some t, entryAt := clk.node, saved := n.ptns.toList.map (·.pow), fromRest := false } } := by
  have hrest : (n.pwr.st == NPow.rest) = false := by rcases hst with hst | hst <;> rw [hst] <;> rfl
  simp [beginEntry, hrest, modPwr, present]
theorem partitionPower_off (harg : x.arg0 = 2) (hnode : n.pwr.st ≠ .entering) (hst : (getP n x.target).st = .inService ∨ (getP n x.target).st = .restoring) (hpow : (getP n x.target).pow = .on ∨ (getP n x.target).pow = .gated) :
    partitionPower clk host t x n = settleIdle (modP x.target (fun y => { y with pow := .entering, shutTok := some t, shutAt := pctr clk x.target }) n) := by
  rcases hst with hst | hst <;> rcases hpow with hpow | hpow <;> simp [partitionPower, harg, hnode, hst, hpow]
theorem entryDrainLimit_abandons (hst : n.pwr.st = .entering) (hleft : allDrained n = false) (hdue : n.pwr.entryAt + (300 + 300000 * fld n.pwr.ctl 24 8) ≤ clk.node) : entryDrainLimit .node clk n = abandonNode clk n :=
  if_pos (by simp [hst, hleft, hdue])
theorem entryCommit_partition (hpow : (getP n p).pow = .entering) (hnode : n.pwr.st ≠ .entering) (hdrained : drained n p = true) (hdue : (getP n p).shutAt + 61800 ≤ pctr clk p) : entryCommit (.ptn p) clk n = commitPtn clk p n :=
  if_pos (by simp [hpow, hnode, hdrained, hdue])
theorem commitPtn_stays (hen : (getP n p).enPend = false) :
    commitPtn clk p n = settleIdle (postO clk (getP n p).shutTok stSuccess 0 (retain clk (dropCanopy p (modP p (fun y => { y with pow := .off, shutTok := none }) n)))) := by
  simp [commitPtn, hen]
theorem partitionGate_idle (hst : (getP n p).st = .inService) (hpow : (getP n p).pow = .on) (hcmds : cmdsLeft n p = false) (hwork : workLeft n p = false) (hctxs : (getP n p).ctxs = [])
    (hnode : n.pwr.st = .run ∨ n.pwr.st = .idle) (hdue : 300 * fld n.pwr.ctl 0 16 ≤ (getP n p).idleFor) : partitionGate p n = settleIdle (modP p (fun x => { x with pow := .gated }) n) :=
  if_pos (by simp [present, hst, hpow, hcmds, hwork, hctxs, hnode, hdue])
end

/-- Settles O14: each row is the lemma of its job or event. -/
theorem powerEntriesComplete : Obligations.PowerEntriesComplete := by
  refine ⟨?_, ?_, ?_, ?_, ?_⟩
  · intro e q s t x n ht hst harg
    exact host_to ht ((powerSet_enters hst harg).trans (beginEntry_running x.arg0 hst))
  · intro e q s t x n ht harg hnode hst hpow
    exact host_to ht (partitionPower_off harg hnode hst hpow)
  · intro e s ha hst hleft hdue
    exact run_to ha (entryDrainLimit_abandons hst hleft hdue)
  · intro e p s ha hpow hnode hdrained hdue hen
    exact run_to ha ((entryCommit_partition hpow hnode hdrained hdue).trans (commitPtn_stays hen))
  · intro e p s x ha hx hst hpow hcmds hwork hctxs hnode hdue
    subst hx
    exact run_to ha (partitionGate_idle hst hpow hcmds hwork hctxs hnode hdue)

/-! ### Wakes (R334 to R337) -/

section
variable {clk : Clock} {n : Node} {p : Nat}
theorem wake_rest (hr : reach n = true) (hst : n.pwr.st = .rest) (hfail : n.pwr.wakeFail = false) : wake 0 clk n =
    raiseRails clk [0, 1, 2, 4, 5] (modPwr (fun w => { w with st := .waking, target := 2, entryAt := clk.node, wakeTry := 0, wakeDb := false, wakes := w.wakes + 1 }) n) := by
  simp [wake, wakeNode, powerUp, modPwr, hr, hst, hfail]
theorem bmcWake_sleep (hperst : n.pins.perst = true) (hrun : n.boot.stopped = false) (hst : n.pwr.st = .sleep) (hfail : n.pwr.wakeFail = false) : bmcWake clk n = { n with
      pins := { n.pins with vrEn := 8, vrPg := 0, vrAt := max clk.node (n.pwr.commitAt + 300000), vrRetry := false }
      pwr := { n.pwr with st := .waking, target := 3, entryAt := clk.node, wakeTry := 0, wakeDb := false, wakes := n.pwr.wakes + 1 } } := by
  simp [bmcWake, wakeNode, powerUp, modPwr, hperst, hrun, hst, hfail]
section
variable (hst : n.pwr.st = .waking) (hheld : n.pwr.padHeld = true) (hrun : n.boot.stopped = false)
include hst hheld hrun
theorem wakeHold_confirmed (hback : railsBack n = true) {m : Node} (hm : modPwr (fun w => { w with st := .wakeHold, holdAt := clk.node, rootLock := true }) n = m) :
    wakeHold clk n = if n.pwr.target = 3 then missedRefills clk (max m.lnk.refillAt m.pwr.commitAt) m else m := by
  subst hm
  simp [wakeHold, hst, hheld, hrun, hback]
theorem wakeFailure_again (htarget : n.pwr.target = 2) (htry : n.pwr.wakeTry ≠ 0) : wakeFailure clk n = modPwr (fun w => { w with st := .rest, target := 0, wakeFail := true }) n := by
  simp [wakeFailure, failWake, modPwr, hst, hheld, hrun, htarget, htry]
end
section
variable (hst : n.pwr.st = .wakeHold) (hheld : n.pwr.padHeld = true)
include hst hheld
theorem releasePads_drives : releasePads clk n = modPwr (fun w => { w with padHeld := false, st := .waking, holdAt := clk.node }) n :=
  if_pos (by simp [hst, hheld])
theorem padRelease_drives (hr : reach n = true) : padRelease 0 clk n = modPwr (fun w => { w with padHeld := false, st := .waking, holdAt := clk.node }) n :=
  (if_neg (by simp [hr])).trans (releasePads_drives hst hheld)
theorem autoRelease_drives (hauto : bit n.pwr.ctl 16 = true) (hdue : n.pwr.holdAt + 3000000 ≤ clk.node) : autoRelease clk n = modPwr (fun w => { w with padHeld := false, st := .waking, holdAt := clk.node }) n :=
  (if_pos (by simp [hauto, hdue])).trans (releasePads_drives hst hheld)
end
theorem wakeComplete_rest (hst : n.pwr.st = .waking) (hdriven : n.pwr.padHeld = false) (htarget : n.pwr.target = 2) : wakeComplete clk n =
    settleIdle (postO clk n.pwr.wakeTok stSuccess 0 (foldNode (List.range 8) (wakeBack clk n.pwr.saved) (modPwr (fun w => { w with st := .run, target := 0, saved := [], wakeTok := none, wakeDb := false }) n))) := by
  simp [wakeComplete, hst, hdriven, htarget]
theorem partitionWakeDone_on (hpow : (getP n p).pow = .waking) (hdue : (getP n p).shutAt + 195000 ≤ pctr clk p) (hrails : (railsOf (getP n p)).all (railUp n) = true) (hnode : n.pwr.st ≠ .entering) :
    partitionWakeDone p clk n = foldNode (getP n p).wakeTok (fun t n => post clk t stSuccess 0 n) (modP p (fun x => { x with wakeTok := [] }) (settleIdle (ptnBack clk p n))) := by
  have hready : ¬ ((getP n p).pow != .waking || decide (pctr clk p < (getP n p).shutAt + 195000) || !(railsOf (getP n p)).all (railUp n)) = true := by
    simp [hpow, Nat.not_lt.mpr hdue, hrails]
  simp only [partitionWakeDone, if_neg hready, if_neg hnode]
end

/-- Settles O15: each row is the lemma of its event; the confirmed rails split on what the node wakes from. -/
theorem wakesComplete : Obligations.WakesComplete := by
  refine ⟨?_, ?_, ?_, ?_, ?_, ?_, ?_, ?_⟩
  · intro e s hr hst hfail
    exact aon_to (wake_rest hr hst hfail)
  · intro e s hperst hrun hst hfail
    exact aon_to (bmcWake_sleep hperst hrun hst hfail)
  · intro e s n hst hheld hrun hback hn
    have hhold := wakeHold_confirmed hst hheld hrun hback hn
    exact ⟨fun htarget => aon_to (hhold.trans (if_neg (by simp [htarget]))), fun htarget => aon_to (hhold.trans (if_pos htarget))⟩
  · intro e s hst hheld hrun htarget htry
    exact aon_to (wakeFailure_again hst hheld hrun htarget htry)
  · intro e s hr hst hheld
    exact aon_to (padRelease_drives hst hheld hr)
  · intro e s ha hauto hst hheld hdue
    exact run_to ha (autoRelease_drives hst hheld hauto hdue)
  · intro e s ha hst hdriven htarget
    exact run_to ha (wakeComplete_rest hst hdriven htarget)
  · intro e p s ha hpow hdue hrails hnode
    exact run_to ha (partitionWakeDone_on hpow hdue hrails hnode)

/-! ### Rails, power samples and temperatures (R339 to R344) -/

section
variable {clk : Clock} {n : Node} {r temp : Nat}
theorem avsAdjust_due (hr : r < 6) (hrange : railLow r ≤ (getRail n r).target) (hkept : retained n r = false) (hst : n.pwr.st = .run ∨ n.pwr.st = .idle) (hdue : (getRail n r).adjAt + 30000000 ≤ clk.node) :
    avsAdjust r temp clk n = requestMv clk r
      (if (getRail n r).target + 5 ≤ runMv r temp then (getRail n r).target + 5 else if runMv r temp + 5 ≤ (getRail n r).target then (getRail n r).target - 5 else (getRail n r).target)
      (modRail r (fun x => { x with need := runMv r temp, adjAt := clk.node }) n) :=
  if_neg (by simpa [Nat.not_le.mpr hr, Nat.not_lt.mpr hrange, hkept, Nat.not_lt.mpr hdue, or_iff_not_imp_left] using hst)
theorem avsResponse_done {mv : Nat} (hr : r < 6) (hbusy : (getRail n r).busy.isSome = true) (hacked : (getRail n r).acked = true) (hwant : (getRail n r).want = 0) (hrun : n.boot.stopped = false) :
    avsResponse r (.done mv) clk n = avsCap clk (modRail r (fun x => { x with mv := mv, busy := none, acked := false, tries := 0, want := 0, lowCap := false }) n) := by
  have hasked : ¬ (decide (6 ≤ r) || (getRail n r).busy.isNone || n.boot.stopped) = true := by
    simp [Nat.not_le.mpr hr, hrun, Option.isSome_iff_ne_none.mp hbusy]
  simp only [avsResponse, if_neg hasked, hacked, hwant, Bool.not_true, Bool.false_eq_true, if_false, if_true]
theorem avsSettleTimeout_due {t0 : Nat} (hr : r < 6) (hbusy : (getRail n r).busy = some t0) (hacked : (getRail n r).acked = true) (hrun : n.boot.stopped = false) (hdue : t0 + 300 * fld n.pwr.avsCfg 0 16 ≤ clk.node) :
    avsSettleTimeout r clk n = avsFault clk r 3 n := by
  simp [avsSettleTimeout, hbusy, hacked, hrun, Nat.not_le.mpr hr, Nat.not_lt.mpr hdue]
/-- A sample above 980 W asks for the cap that brings the estimate to 760 W. -/
theorem powerSample_peak {w : Nat} (hw : 980 < w) : (powerSample w clk n).pwr.capPeak = capTo760 w (capOf n.pwr) := by
  obtain ⟨fns, capEnd, capOne, hcaps⟩ := withCaps_spec clk _ n
  rw [powerSample, hcaps]
  exact if_pos hw
theorem trip_stops (h : 110 ≤ temp) (hperst : n.pins.perst = true) (hrun : n.boot.stopped = false) : trip temp n = { n with
      pins := { n.pins with thermtrip := false }, boot := { n.boot with stopped := true }, pwr := { n.pwr with tripped := true, tripLast := sat 8 temp, rootLock := false } } :=
  if_neg (by simp [hperst, hrun, Nat.not_lt.mpr h])
theorem junctionSample_cool {c0 c1 io : Nat} (h : max c0 (max c1 io) < 110) : (junctionSample c0 c1 io clk n).pwr.cmp0 = sat 8 c0 ∧ (junctionSample c0 c1 io clk n).pwr.cmp1 = sat 8 c1 ∧
    (junctionSample c0 c1 io clk n).pwr.iod = sat 8 io ∧ (junctionSample c0 c1 io clk n).boot = n.boot := by
  obtain ⟨fns, capEnd, capOne, hcaps⟩ := withCaps_spec clk _ n
  rw [junctionSample, trip_cool h, hcaps]
  exact ⟨rfl, rfl, rfl, rfl⟩
end

/-- Settles O16: each row is the lemma of its event; caps change beside the power block the functions' attentions only. -/
theorem limitEventsComplete : Obligations.LimitEventsComplete := by
  refine ⟨?_, ?_, ?_, ?_, ?_, ?_⟩
  · intro e r temp s x ha hx hr hrange hkept hst hdue
    subst hx
    exact run_to ha (avsAdjust_due hr hrange hkept hst hdue)
  · intro e r mv s x hx hr hbusy hacked hwant hrun
    subst hx
    exact aon_to (avsResponse_done hr hbusy hacked hwant hrun)
  · intro e r t0 s x hx hr hbusy hacked hrun hdue
    subst hx
    exact aon_to (avsSettleTimeout_due hr hbusy hacked hrun hdue)
  · intro e w s ha
    exact ⟨run_ok ha, powerSample_peak⟩
  · intro e c0 c1 io s ha hcool
    exact ⟨_, run_ok ha, junctionSample_cool hcool⟩
  · intro e temp s hhot hperst hrun
    exact aon_to (trip_stops hhot hperst hrun)

/-! ### Register writes in sleep (R336) -/

/-- Settles O22: neither of the two registers that still answer is named, so the write is lost. -/
theorem writesAreLostWhileTheNodeSleeps : Obligations.WritesAreLostWhileTheNodeSleeps := by
  intro e fn off w v s hr haon he hoff hctl hpad
  have hlost : registerWrite fn .bar2 off w v (clkOf e s) (nodeOf e s) = lostWrite (nodeOf e s) := by
    simp [registerWrite, hr, haon, he, hoff, hctl, hpad]
  rw [exec_registerWrite, hlost, lostWrite]

/-! ### Regulators (R345, R353 to R357) -/

theorem askRun_boot (clk : Clock) (r : Nat) (n : Node) : (askRun clk r n).boot = n.boot := by
  rw [askRun, requestMv_boot]
  rfl
section
variable {clk : Clock} {n : Node} {r : Nat} (hr : r < 5) (hperst : n.pins.perst = true) (hrun : n.boot.stopped = false)
include hr hperst hrun
/-- Only a node that stands still, or a rail that has no enable of its own, waits for no power-good. -/
theorem railAwaited : ¬ (decide (5 ≤ r) || !n.pins.perst || n.boot.stopped) = true := by simp [Nat.not_le.mpr hr, hperst, hrun]
variable (hen : n.pins.vrEn.getLsbD r = true) (hpg : n.pins.vrPg.getLsbD r = false)
omit hr hperst hrun in
include hen in
/-- An enabled rail leaves no retry to start. -/
theorem reEnable_enabled : reEnable clk n = n := by
  have hsome : (n.pins.vrEn == 0) = false := by
    refine beq_false_of_ne fun h => ?_
    rw [h] at hen
    simp at hen
  simp only [reEnable, hsome, Bool.false_and, Bool.false_eq_true, if_false]
include hen hpg
section
variable {m : Node} (hdue : n.pins.vrAt ≤ clk.node) (hm : { n with pins := { n.pins with vrPg := n.pins.vrPg ||| railBit r, vrEn := n.pins.vrEn ||| nextEn r, vrAt := clk.node } } = m)
include hdue hm
theorem vrPgRise_more (hmore : n.pins.vrPg ||| railBit r ≠ 31) : vrPgRise r clk n = m := by
  have hleft : (n.pins.vrPg ||| railBit r != 31) = true := bne_iff_ne.mpr hmore
  have hearly : decide (clk.node < n.pins.vrAt) = false := by simpa using hdue
  simp only [vrPgRise, if_neg (railAwaited hr hperst hrun), reEnable_enabled hen, hen, hpg, hearly, hm, hleft, Bool.not_true, Bool.or_self, Bool.false_eq_true, if_false, if_true]
theorem vrPgRise_last (hlast : n.pins.vrPg ||| railBit r = 31) (hdown : n.boot.hostUp = false) : vrPgRise r clk n = foldNode (List.range 6) (askRun clk) m := by
  have hboot : (foldNode (List.range 6) (askRun clk) m).boot.hostUp = false := by
    rw [foldNode_inv Node.boot _ _ (askRun_boot clk), ← hm, hdown]
  have hall : (n.pins.vrPg ||| railBit r != 31) = false := bne_eq_false_iff_eq.mpr hlast
  have hearly : decide (clk.node < n.pins.vrAt) = false := by simpa using hdue
  simp only [vrPgRise, if_neg (railAwaited hr hperst hrun), reEnable_enabled hen, hen, hpg, hearly, hm, hall, hboot, Bool.not_true, Bool.or_self, Bool.false_eq_true, if_false]
end
theorem vrPgTimeout_due (hdue : n.pins.vrAt + 1500000 ≤ clk.node) (hst : n.pwr.st ≠ .waking) :
    vrPgTimeout r clk n = { n with pins := { n.pins with vrEn := 0, vrPg := 0, vrRetry := !n.pins.vrRetry, vrAt := clk.node + 3000000 } } := by
  simp only [vrPgTimeout, if_neg (railAwaited hr hperst hrun), reEnable_enabled hen, hen, hpg]
  simp [Nat.not_lt.mpr hdue, hst]
end
theorem vrPgFall_stops {r : Nat} {n : Node} (hr : r < 5) (hperst : n.pins.perst = true) (hrun : n.boot.stopped = false) (hen : n.pins.vrEn.getLsbD r = true) (hpg : n.pins.vrPg.getLsbD r = true) :
    vrPgFall r n = { n with pins := { n.pins with vrEn := 0, vrPg := 0 }, boot := { n.boot with stopped := true } } :=
  if_neg (by simp [Nat.not_le.mpr hr, hperst, hrun, hen, hpg])
theorem lockLost_stops {n : Node} (hperst : n.pins.perst = true) (hrun : n.boot.stopped = false) (hlock : n.pwr.rootLock = true) :
    lockLost n = { n with pwr := { n.pwr with lockLost := true, rootLock := false }, boot := { n.boot with stopped := true } } :=
  if_neg (by simp [hperst, hrun, hlock])

/-- Settles O29: a power-good splits on whether it is the last, a timeout on whether a retry is over. -/
theorem railsSequence : Obligations.RailsSequence := by
  refine ⟨?_, ?_, ?_, ?_, ?_⟩
  · intro e r s k hk hr hperst hrun hen hpg hdue hmore
    subst hk
    exact aon_to (vrPgRise_more hr hperst hrun hen hpg hdue rfl hmore)
  · intro e r s k hk hr hperst hrun hen hpg hdue hlast hdown
    subst hk
    exact aon_to (vrPgRise_last hr hperst hrun hen hpg hdue (by rw [hlast]) hlast hdown)
  · intro e r s k hk hr hperst hrun hen hpg hdue hst
    subst hk
    have hdrop := vrPgTimeout_due hr hperst hrun hen hpg hdue hst
    exact ⟨fun hfirst => aon_to (by rw [hdrop, hfirst, Bool.not_false]), fun hagain => aon_to (by rw [hdrop, hagain, Bool.not_true])⟩
  · intro e r s hr hperst hrun hen hpg
    exact aon_to (vrPgFall_stops hr hperst hrun hen hpg)
  · intro e s hperst hrun hlock
    exact aon_to (lockLost_stops hperst hrun hlock)

end Sys2Proof.Machine
end

section
/-! Proofs for chapter 12: registers of the links, training, flits, acknowledged messages and shaping (R258 to R277, R320). -/

namespace Sys2Proof.Machine

/-! ### Registers with rows of their own (R259, R261, R262, R320) -/

theorem merged_full (v cur : W64) : merged .full v cur = v := by simp [merged, wmask, wval]
theorem fld_and_low (v : W64) : fld (v &&& fmask 0 32) 0 32 = fld v 0 32 :=
  fld_congr fun i _ hi => by
    have hlow : i < 32 := by omega
    have hword : i < 64 := by omega
    simp [getLsbD_fmask, hlow, hword]
theorem setWidth_and_low (v : W64) : (v &&& fmask 0 32).setWidth 32 = v.setWidth 32 :=
  BitVec.eq_of_getLsbD_eq fun i hi => by
    have hword : i < 64 := by omega
    simp [getLsbD_fmask, hi, hword]
/-- `PTN_BUDDY` is the low half of the register alone. -/
theorem put_zero_low (v : W64) : put 0 0 32 (v &&& fmask 0 32).toNat = v &&& 0xFFFFFFFF :=
  BitVec.eq_of_getLsbD_eq fun i hi => by
    have hmask : (0xFFFFFFFF : W64) = fmask 0 32 := rfl
    rw [getLsbD_put, hmask]
    by_cases hlow : i < 32
    · rw [if_pos (by omega), Nat.sub_zero, BitVec.testBit_toNat]
    · simp [getLsbD_fmask, hlow]

section
variable {v : W64} {clk : Clock} {n : Node} (hses : inSession 0 n = true)
include hses
theorem writeBar2_lnkNodeId : writeBar2 0 0x30000 .full v clk n = lnkNodeId 0 (v &&& fmask 0 32) clk n := by
  have hblock : writeBar2 0 0x30000 .full v clk n = if inSession 0 n && Width.full != .hi then lnkNodeId 0 (merged .full v (n.lnk.nodeId.setWidth 64) &&& fmask 0 32) clk n else n := rfl
  rw [hblock, hses, if_pos (by decide), merged_full]
theorem writeBar2_linkEnable {l : Nat} (hl : l < 36) (on : Bool) : writeBar2 0 (0x30100 + 8 * l) .full (put 0 12 1 (b2n on)) clk n = linkEnable 0 l on clk n := by
  have hlink : (0x30100 + 8 * l - 0x30100) / 8 = l := by omega
  have hbit : bit (put 0 12 1 (b2n on)) 12 = on := by cases on <;> decide
  have hopen : (getFn n 0).session.isSome = true := hses
  simp (disch := omega) only [writeBar2, writeLnk, Bool.and_eq_true, decide_eq_true_eq, if_neg, if_pos, hlink, merged_full, hbit, hopen, beq_self_eq_true, Bool.not_true, Bool.false_eq_true, if_false, if_true]
theorem writeBar2_ptnBuddy {p : Nat} (hp : p < 8) (hst : (getP n p).st ≠ .absent) : writeBar2 0 (0x50520 + 0x1000 * p) .full v clk n = ptnBuddy p (v &&& fmask 0 32) clk n := by
  have hoff : 0x50520 + 0x1000 * p = 0x50000 + 0x1000 * p + 0x520 := by omega
  have hreg : writePtn true p true 0x520 .full v clk n = ptnBuddy p (merged .full v (getP n p).buddy &&& fmask 0 32) clk n := rfl
  rw [hoff, writeBar2_ptn .full v clk hp (by omega) hst (.inl rfl), hses, beq_self_eq_true, hreg, merged_full]
end
theorem writeBar2_lnkPing (dst : W32) (clk : Clock) (n : Node) : writeBar2 0 0x30018 .full (dst.setWidth 64) clk n =
    send clk 0 dst mkPing 3 0 0 (toLe 8 clk.node) (modLnk (fun b => { b with ping := some (dst, clk.node), pingRes := 0 }) n) := by
  have hblock : writeBar2 0 0x30018 .full (dst.setWidth 64) clk n = lnkPing 0 ((dst.setWidth 64).setWidth 32) clk n := rfl
  rw [hblock, BitVec.setWidth_setWidth_of_le dst (by omega), BitVec.setWidth_eq, lnkPing, if_neg (by decide)]

theorem lnkNodeId_refuses {v : W64} {clk : Clock} {n : Node} (hv : fld v 0 32 = 0xFFFFFFFF) :
    lnkNodeId 0 (v &&& fmask 0 32) clk n = noteSet 0x30008 32 (modLnk (fun b => { b with cfg := put b.cfg 32 1 1 }) n) := by
  rw [lnkNodeId, if_neg (by decide), fld_and_low, if_pos hv]
theorem lnkNodeId_takes {v : W64} {clk : Clock} {n : Node} (hv : fld v 0 32 ≠ 0xFFFFFFFF) : lnkNodeId 0 (v &&& fmask 0 32) clk n = foldNode (List.range 36) (fun l n =>
      if (getL n l).carries ∨ (getL n l).st = .mismatch ∨ (getL n l).st = .negotiate then negotiate clk l n else n) (modLnk (fun b => { b with nodeId := v.setWidth 32 }) n) := by
  rw [lnkNodeId, if_neg (by decide), fld_and_low, if_neg hv, setWidth_and_low]
  simp only [Bool.or_eq_true, beq_iff_eq, or_assoc]

section
variable {clk : Clock} {n : Node} {l : Nat} (hl : l < 36)
include hl
theorem linkEnable_off (hon : (getL n l).enable = true) : linkEnable 0 l false clk n = emptyLink clk l (setLink clk l .off 0 (modL l (fun x => { x with peer := none }) (modL l (fun x => { x with enable := false }) n))) := by
  simp [linkEnable, forgetPeer, hl, hon]
theorem linkEnable_on (hoff : (getL n l).enable = false) : linkEnable 0 l true clk n = setLink clk l .train 0 (modL l (fun x => { x with peer := none }) (modL l (fun x => { x with enable := true }) n)) := by
  simp [linkEnable, startTrain, forgetPeer, hl, hoff]
end
/-- A partition whose buddy is the one that a write names. -/
def buddyNamed (clk : Clock) (p : Nat) (v : W64) (x : Ptn) : Ptn := { x with buddy := put 0 0 32 v.toNat, buddyAt := pctr clk p }
/-- Without mirroring nothing is sent to the new buddy. -/
theorem ptnBuddy_names {p : Nat} {v : W64} {clk : Clock} {n : Node} (hp : p < 8) (hoff : mirrorOn (getP n p) = false) :
    ∃ m, ptnBuddy p v clk n = endHolds clk p m ∧ getP m p = buddyNamed clk p v (getP n p) := by
  have hnamed : getP (modP p (buddyNamed clk p v) n) p = buddyNamed clk p v (getP n p) := getP_modP_self n _ hp
  have hstill : ¬ mirrorOn (getP (modP p (buddyNamed clk p v) n) p) = true := by
    rw [hnamed]
    exact Bool.eq_false_iff.mp hoff
  exact ⟨_, congrArg (endHolds clk p) (if_neg hstill), hnamed⟩

/-- `LNK_LINK_STATE.ENABLE` of a link is written like any register. -/
theorem exec_linkEnable {e : Env} {f l : Nat} {on : Bool} {s : State} (hl : l < 36) : exec (.linkEnable e f l on) s = exec (.registerWrite e f .bar2 (0x30100 + 8 * l) .full (put 0 12 1 (b2n on))) s :=
  (aon_to (if_pos hl)).trans (exec_registerWrite ..).symm
theorem exec_ptnBuddy {e : Env} {f p : Nat} {v : W64} {s : State} (hp : p < 8) : exec (.ptnBuddy e f p v) s = exec (.registerWrite e f .bar2 (0x50520 + 0x1000 * p) .full v) s :=
  (aon_to (if_pos hp)).trans (exec_registerWrite ..).symm

/-- Settles O23: each row is the write of its register, and the block's rule for it. -/
theorem registersWithRowsOfTheirOwnComplete : Obligations.RegistersWithRowsOfTheirOwnComplete := by
  refine ⟨?_, ?_, ?_, ?_, ?_, ?_⟩
  · intro e v s hb hses hv
    exact (exec_registerWrite_onBus .full v hb rfl).trans (by rw [writeBar2_lnkNodeId hses, lnkNodeId_takes hv])
  · intro e v s hb hses hv
    exact (exec_registerWrite_onBus .full v hb rfl).trans (by rw [writeBar2_lnkNodeId hses, lnkNodeId_refuses hv])
  · intro e dst s hb
    exact (exec_registerWrite_onBus .full (dst.setWidth 64) hb rfl).trans (by rw [writeBar2_lnkPing])
  · intro e l s hb hses hl hon
    rw [exec_linkEnable hl, exec_registerWrite_onBus .full _ hb (by omega), writeBar2_linkEnable hses hl, linkEnable_off hl hon]
  · intro e l s hb hses hl hoff
    rw [exec_linkEnable hl, exec_registerWrite_onBus .full _ hb (by omega), writeBar2_linkEnable hses hl, linkEnable_on hl hoff]
  · intro e p v s hb hses hp hst hmirror _
    obtain ⟨m, hm, hptn⟩ := ptnBuddy_names (v := v &&& fmask 0 32) (clk := clkOf e s) hp hmirror
    refine ⟨m, ?_, hptn ▸ put_zero_low v, hptn ▸ rfl⟩
    rw [exec_ptnBuddy hp, exec_registerWrite_onBus .full v hb (by omega), writeBar2_ptnBuddy hses hp hst, hm]

/-! ### Links (R258 to R260) -/

theorem modL_congr {l : Nat} {n : Node} {f g : Link → Link} (h : f (getL n l) = g (getL n l)) : modL l f n = modL l g n := by
  simp only [modL, modLnk, vmod_congr h]
@[simp] theorem levelRoute_ptns (l : Nat) (n : Node) : (levelRoute l n).ptns = n.ptns := by
  unfold levelRoute
  dsimp only
  split
  · rfl
  · split <;> rfl
@[simp] theorem getL_levelRoute (l k : Nat) (n : Node) : getL (levelRoute l n) k = getL n k := by
  unfold levelRoute
  dsimp only
  split
  · rfl
  · split <;> rfl
section
variable {clk : Clock} {n : Node} {l : Nat} {r : CapRec} (hl : l < 36)
include hl
/-- What a link is, and what the partitions are, once a link has reached a state. -/
theorem setLink_getL (st : LinkSt) (why : Nat) : (getL (setLink clk l st why n) l).st = st ∧ (getL (setLink clk l st why n) l).why = why ∧ (getL (setLink clk l st why n) l).peer = (getL n l).peer ∧
    (getL (setLink clk l st why n) l).level = (if st = .active ∨ st = .degraded ∨ st = .retrain then (getL n l).level else 0) ∧ (setLink clk l st why n).ptns = n.ptns := by
  have hsettled := settleLink_getL (modL l (fun x => { x with st := st, why := why, since := clk.node, level := if st = .active || st = .degraded || st = .retrain then x.level else 0 }) n) hl
  rw [getL_modL_self n _ hl] at hsettled
  obtain ⟨hst, hlevel, hwhy, hpeer, hptns⟩ := hsettled
  exact ⟨hst, hwhy, hpeer, hlevel.trans (by simp [or_assoc]), hptns⟩
/-- A pump leaves what a link is. -/
theorem pump_getL : (getL (pump clk l n) l).st = (getL n l).st ∧ (getL (pump clk l n) l).level = (getL n l).level ∧ (getL (pump clk l n) l).why = (getL n l).why ∧ (getL (pump clk l n) l).peer = (getL n l).peer := by
  rw [getL_pump_self clk n hl]
  obtain ⟨hst, hlevel, hwhy, hpeer, _, _⟩ := pumpFlits_keeps clk.node n.lnk.tcCfg l 2048 (getL n l) []
  exact ⟨hst, hlevel, hwhy, hpeer⟩
theorem linkTrained_negotiates (hst : (getL n l).st = .train) (hlanes : (getL n l).bad.length < 2) : linkTrained l clk n = negotiate clk l n := by
  rw [linkTrained, if_neg (by omega), if_neg (by omega), hst]
theorem linkTrainingLost_restarts (hup : (getL n l).carries = true) : linkTrainingLost l clk n = emptyLink clk l (startTrain clk l n) := by
  have hup : (getL n l).st = .active ∨ (getL n l).st = .degraded := by simpa [Link.carries] using hup
  refine if_neg ?_
  rcases hup with h | h <;> simp [h, hl]
/-- A record that this end negotiates is decided by the two identifiers, then by the levels. -/
theorem capabilityRecord_negotiates {m : Node} (hst : (getL n l).st = .negotiate) (hm : modL l (fun x => { x with peer := some r }) n = m) : capabilityRecord l r clk n =
    if n.lnk.nodeId = 0 ∨ r.nodeId = 0 then setLink clk l .mismatch 1 m
    else if n.lnk.nodeId = r.nodeId then setLink clk l .mismatch 2 m
    else if min (imgProto n) r.proto < max 3 r.protoMin then setLink clk l .mismatch 3 m
    else pump clk l (levelRoute l (setLink clk l (carrySt (getL n l)) 0 (modL l (fun x => { x with level := min (imgProto n) r.proto, st := carrySt x }) m))) := by
  subst hm
  have hgo : ¬ (decide (36 ≤ l) || !((getL n l).st == .negotiate || (getL n l).st == .mismatch || (getL n l).carries)) = true := by simp [hl, hst]
  simp only [capabilityRecord, if_neg hgo, if_pos hst]
  exact if_congr ((Bool.or_eq_true _ _).to_iff.trans (or_congr decide_eq_true_iff beq_iff_eq)) rfl rfl
/-- The last case of a negotiation: the link carries messages at the lower level, with the peer that the record names. -/
theorem capabilityRecord_carries {m : Node} {lvl : Nat} (hpeer : (getL m l).peer = some r) :
    let z := pump clk l (levelRoute l (setLink clk l (carrySt (getL n l)) 0 (modL l (fun x => { x with level := lvl, st := carrySt x }) m)))
    (getL z l).st = carrySt (getL n l) ∧ (getL z l).level = lvl ∧ (getL z l).why = 0 ∧ (getL z l).peer = some r ∧ z.ptns = m.ptns := by
  intro z
  have hcarry : carrySt (getL n l) = .active ∨ carrySt (getL n l) = .degraded ∨ carrySt (getL n l) = .retrain := by
    unfold carrySt
    split <;> simp
  obtain ⟨hst, hlevel, hwhy, hpeerz⟩ := pump_getL (clk := clk) (n := levelRoute l (setLink clk l (carrySt (getL n l)) 0 (modL l (fun x => { x with level := lvl, st := carrySt x }) m))) hl
  obtain ⟨hst', hwhy', hpeer', hlevel', hptns⟩ := setLink_getL (clk := clk) (n := modL l (fun x => { x with level := lvl, st := carrySt x }) m) hl (carrySt (getL n l)) 0
  rw [if_pos hcarry] at hlevel'
  rw [getL_modL_self m _ hl] at hpeer' hlevel'
  rw [getL_levelRoute] at hst hlevel hwhy hpeerz
  exact ⟨hst.trans hst', hlevel.trans hlevel', hwhy.trans hwhy', hpeerz.trans (hpeer'.trans hpeer), (pump_ptns clk l _).trans ((levelRoute_ptns l _).trans hptns)⟩
theorem trainTimeout_due (hst : (getL n l).st = .train) (hdue : (getL n l).since + 45000000 ≤ clk.node) : trainTimeout l clk n = linkDown clk l (if 2 ≤ (getL n l).bad.length then whyLanes else whyTrain) n :=
  if_neg (by simp [hl, hst, Nat.not_lt.mpr hdue])
theorem retrainTimeout_due (hst : (getL n l).st = .retrain) (hdue : (getL n l).since + 6000000 ≤ clk.node) : retrainTimeout l clk n = linkDown clk l whyRetrain n :=
  if_neg (by simp [hl, hst, Nat.not_lt.mpr hdue])
theorem linkDownRetry_trains (hst : (getL n l).st = .down) (hdue : (getL n l).since + 300000000 ≤ clk.node) (hlanes : (getL n l).bad.length < 2) : linkDownRetry l clk n = startTrain clk l n :=
  (if_neg (by simp [hl, hst, Nat.not_lt.mpr hdue])).trans (if_neg (Nat.not_le.mpr hlanes))
section
variable {lane : Nat} (hlane : lane < 2) (hgood : (getL n l).bad = [])
include hlane hgood
theorem laneFailed_spares (hfree : ∀ i, i < 6 → (getL n (6 * (l / 6) + i)).spare = false) :
    laneFailed l lane clk n = retrain clk l (raiseAt attnWear 0 (spareRecord clk 0 spLink (13 * (l / 6) + 2 * (l % 6) + lane)
      (recordRepair (fun m => { m with links := m.links ++ [(l / 6, 13 * (l / 6) + 2 * (l % 6) + lane)] }) (modL l (fun x => { x with spare := true }) n)))) := by
  have hnone : (List.range 6).any (fun i => (getL n (6 * (l / 6) + i)).spare) = false := by simpa using hfree
  simp [laneFailed, hgood, hnone, Nat.not_le.mpr hl, Nat.not_le.mpr hlane]
/-- The bundle's spare is taken: the link goes on with its other lane. -/
theorem laneFailed_degrades {i : Nat} (hi : i < 6) (hused : (getL n (6 * (l / 6) + i)).spare = true) : laneFailed l lane clk n = retrain clk l (modL l (fun x => { x with bad := [lane] }) n) := by
  have hany : (List.range 6).any (fun i => (getL n (6 * (l / 6) + i)).spare) = true := List.any_eq_true.mpr ⟨i, List.mem_range.mpr hi, hused⟩
  have hbad : modL l (fun x => { x with bad := x.bad ++ [lane] }) n = modL l (fun x => { x with bad := [lane] }) n := modL_congr (by rw [hgood]; rfl)
  have hone : (getL (modL l (fun x => { x with bad := [lane] }) n) l).bad.length = 1 := by rw [getL_modL_self n _ hl]; rfl
  simp [laneFailed, hgood, hany, hbad, hone, Nat.not_le.mpr hl, Nat.not_le.mpr hlane]
end
end

/-- Settles O24: each row is the lemma of its event; a capability record splits on identifiers and levels. -/
theorem linksTrain : Obligations.LinksTrain := by
  refine ⟨?_, ?_, ?_, ?_, ?_, ?_, ?_, ?_⟩
  · intro e l s ha hl hst hlanes
    exact run_to ha (linkTrained_negotiates hl hst hlanes)
  · intro e l s ha hl hup
    exact run_to ha (linkTrainingLost_restarts hl hup)
  · intro e l r s n ha hl hst hn
    have hrec := capabilityRecord_negotiates (clk := clkOf e s) (r := r) hl hst hn
    refine ⟨fun hid => ?_, fun hme hclash => ?_, fun hme hr hdiff hlow => ?_, fun hme hr hdiff hlevel => ?_⟩
    · exact run_to ha (hrec.trans (if_pos hid))
    · rw [if_neg (not_or.mpr ⟨hme, hclash ▸ hme⟩), if_pos hclash] at hrec
      exact run_to ha hrec
    · rw [if_neg (not_or.mpr ⟨hme, hr⟩), if_neg hdiff, if_pos hlow] at hrec
      exact run_to ha hrec
    · rw [if_neg (not_or.mpr ⟨hme, hr⟩), if_neg hdiff, if_neg (Nat.not_lt.mpr hlevel)] at hrec
      have hpeer : (getL n l).peer = some r := by rw [← hn, getL_modL_self _ _ hl]
      obtain ⟨hst', hlvl, hwhy, hpeer', hptns⟩ := capabilityRecord_carries (clk := clkOf e s) (n := nodeOf e s) (lvl := min (imgProto (nodeOf e s)) r.proto) hl hpeer
      exact ⟨_, run_to ha hrec, hst', hlvl, hwhy, hpeer', rfl, hptns.trans (hn ▸ rfl)⟩
  · intro e l s ha hl hst hdue
    exact run_to ha (trainTimeout_due hl hst hdue)
  · intro e l s ha hl hst hdue
    exact run_to ha (retrainTimeout_due hl hst hdue)
  · intro e l s ha hl hst hdue hlanes
    exact run_to ha (linkDownRetry_trains hl hst hdue hlanes)
  · intro e l lane s ha hl hlane hgood _ hfree
    exact run_to ha (laneFailed_spares hl hlane hgood hfree)
  · intro e l lane i s ha hl hlane hgood _ hi hused
    exact run_to ha (laneFailed_degrades hl hlane hgood hi hused)

/-! ### Flits (R262 to R266) -/

/-- Beyond its first element a numbered list has no number 0. -/
theorem map_zipIdx_behind {α : Type} (g : α → α) : ∀ (l : List α) {k : Nat}, 0 < k → (l.zipIdx k).map (fun x => if x.2 = 0 then g x.1 else x.1) = l
  | [], _, _ => rfl
  | x :: xs, k, hk => by
    have hne : k ≠ 0 := by omega
    rw [List.zipIdx_cons, List.map_cons, if_neg hne, map_zipIdx_behind g xs (Nat.succ_pos k)]
/-- The head of a replay buffer counts its tries; every flit of it is as old as this resend. -/
theorem replay_resent (now t : Nat) (f : TxFlit) (r : List TxFlit) :
    (((f :: r).map (fun g => { g with at_ := now })).zipIdx.map (fun g => if g.2 = 0 then { g.1 with tries := t } else g.1)) = { f with at_ := now, tries := t } :: r.map (fun g => { g with at_ := now }) :=
  congrArg (_ :: ·) (map_zipIdx_behind (fun g => { g with tries := t }) (r.map (fun g => { g with at_ := now })) (Nat.succ_pos 0))
theorem getL_emits {α : Type} (l : Nat) (xs : List α) (o : α → Out) (n : Node) : getL (foldNode xs (fun x => emit (o x)) n) l = getL n l :=
  foldNode_inv (fun n => getL n l) xs (fun x => emit (o x)) (fun _ _ => rfl) n
/-- An idle flit changes of its link no more than the credits to return. -/
theorem idleFlit_keeps {l : Nat} (n : Node) (hl : l < 36) : (getL (idleFlit l n) l).rxSeq = (getL n l).rxSeq ∧ (getL (idleFlit l n) l).asm_ = (getL n l).asm_ ∧ (idleFlit l n).lnk.inbox = n.lnk.inbox ∧ (idleFlit l n).ptns = n.ptns := by
  unfold idleFlit
  dsimp only
  split
  · exact ⟨rfl, rfl, rfl, rfl⟩
  · have hself := getL_modL_self n (fun x => { x with owed := (nextOwed x.owed).2 }) hl
    exact ⟨(congrArg Link.rxSeq hself).trans rfl, (congrArg Link.asm_ hself).trans rfl, rfl, rfl⟩
theorem pump_keeps (clk : Clock) {l : Nat} (n : Node) (hl : l < 36) : (getL (pump clk l n) l).rxSeq = (getL n l).rxSeq ∧ (getL (pump clk l n) l).asm_ = (getL n l).asm_ ∧ (pump clk l n).lnk.inbox = n.lnk.inbox ∧ (pump clk l n).ptns = n.ptns := by
  obtain ⟨_, _, _, _, hseq, hasm⟩ := pumpFlits_keeps clk.node n.lnk.tcCfg l 2048 (getL n l) []
  exact ⟨(getL_pump_self clk n hl).symm ▸ hseq, (getL_pump_self clk n hl).symm ▸ hasm, pump_eq clk l n ▸ rfl, pump_ptns clk l n⟩

/-- What a good flit says of this end's own flits: those it acknowledges, and the credits it returns (Table 12-3). -/
def heardFlit (now : Nat) (bs : List Byte) (x : Link) : Link := { x with
  replay := if leAt bs 2 2 / 32768 = 1 then ackFlits (leAt bs 2 2 % 4096) x.replay else x.replay
  credits := lmod x.credits (2 * (leAt bs 4 1 % 8) + leAt bs 4 1 / 8 % 2) (fun k => min 64 (k + leAt bs 4 1 / 16))
  stallAt := if leAt bs 4 1 / 16 = 0 then x.stallAt else lmod x.stallAt (2 * (leAt bs 4 1 % 8) + leAt bs 4 1 / 8 % 2) (fun _ => now) }
/-- The class and pool of a flit, as the number of their assembly. -/
def flitPool (bs : List Byte) : Nat := 2 * (leAt bs 5 1 / 8 % 8) + leAt bs 5 1 / 64 % 2
/-- A message's payload so far: a first flit starts it, a later one adds to it. -/
def assembled (bs : List Byte) (x : Link) : List Byte := (if leAt bs 5 1 % 4 = 1 then [] else (mget x.asm_ (flitPool bs)).getD []) ++ slice bs 8 232
/-- A message flit in sequence, not the last of its message. -/
def tookFlit (bs got : List Byte) (x : Link) : Link := { x with
  rxSeq := (x.rxSeq + 1) % 4096, rxAny := true, owed := lmod x.owed (flitPool bs) (· + 1), asm_ := mset x.asm_ (flitPool bs) got }

section
variable {clk : Clock} {n : Node} {l : Nat} (hl : l < 36)
section
variable (hup : (getL n l).carries = true)
include hl hup
theorem flit_lost (k : Nat) : flit l { bytes := none, corrected := k } clk n = emit (.nak l (getL n l).rxSeq) (countL l 4 1 n) := by
  simp [flit, hl, hup]
theorem flit_takes {bs : List Byte} (hlen : bs.length = 244) (hcrc : crc32c (bs.take 240) = BitVec.ofNat 32 (leAt bs 240 4)) (hmsg : leAt bs 5 1 % 4 = 1 ∨ leAt bs 5 1 % 4 = 2)
    (hmore : leAt bs 5 1 / 4 % 2 = 0) (hseq : leAt bs 0 2 % 4096 = (getL n l).rxSeq) :
    flit l { bytes := some bs } clk n = idleFlit l (pump clk l (countL l 1 1 (modL l (tookFlit bs (assembled bs (getL n l))) (modL l (heardFlit clk.node bs) n)))) := by
  have hasMsg : (leAt bs 5 1 % 4 == 1 || leAt bs 5 1 % 4 == 2) = true := by simpa using hmsg
  have hnotNak : ¬ leAt bs 5 1 % 4 = 3 := by omega
  have hgood : (decide (bs.length < 244) || crc32c (bs.take 240) != BitVec.ofNat 32 (leAt bs 240 4)) = false := by simp [hlen, hcrc]
  have hinside : ¬ 36 ≤ l := Nat.not_le.mpr hl
  simp only [flit, hup, hasMsg, hgood, if_neg hnotNak, if_neg hinside, hmore, hseq, Bool.true_or, Bool.not_true, Bool.false_eq_true, ne_eq, not_true_eq_false, Nat.zero_ne_one, if_false, if_true]
  rfl
theorem replayTimeout_resends {f : TxFlit} {r : List TxFlit} (hbuf : (getL n l).replay = f :: r) (hdue : f.at_ + 2400 ≤ clk.node) : replayTimeout l clk n = replayBuf clk l n := by
  simp [replayTimeout, hl, hup, hbuf, Nat.not_lt.mpr hdue]
theorem creditStall_counts {c pool : Nat} (hc : c < 8) (hpool : pool < 2) (hheld : (getL n l).waiting.any (fun g => msgClass g.m.kind == c && g.pool == pool) = true)
    (hnone : (getL n l).credits.getD (2 * c + pool) 0 = 0) (hdue : (getL n l).stallAt.getD (2 * c + pool) 0 + 30000000 ≤ clk.node) :
    creditStall l c pool clk n = raiseAt attnLink 0 (countL l 7 1 (modL l (fun x => { x with stallAt := lmod x.stallAt (2 * c + pool) (fun _ => clk.node) }) n)) := by
  refine if_neg ?_
  rw [hheld, hnone, decide_eq_false (Nat.not_lt.mpr hdue)]
  simp [hl, hc, hpool, hup]
end
theorem replayBuf_resends {f : TxFlit} {r : List TxFlit} (hbuf : (getL n l).replay = f :: r) (htries : f.tries < 15) : replayBuf clk l n =
    countL l 2 (r.length + 1) (modL l (fun x => { x with replay := { f with at_ := clk.node, tries := f.tries + 1 } :: r.map (fun g => { g with at_ := clk.node }) })
      (foldNode (f :: r) (fun g => emit (.flit l (flitBytes g.fseq (fackOf (getL n l)) 0 g.ftype g.data))) n)) := by
  have hfew : ¬ 16 ≤ f.tries + 1 := by omega
  simp only [replayBuf, hbuf, List.isEmpty_cons, Bool.false_eq_true, if_false, List.headD_cons, if_neg hfew, List.length_cons]
  refine congrArg (countL l 2 (r.length + 1)) (modL_congr ?_)
  rw [getL_emits, hbuf, replay_resent]
section
variable {m : Msg} (hother : m.dst ≠ n.lnk.nodeId) (hup : delivers n l = true)
include hl hother hup
/-- A message that a link delivers for another node leaves by what its route gives. -/
theorem messageForward_goes : messageForward l m clk n = match pickLink n m with
    | none => countLnk 0 1 (modLnk (fun b => { b with inbox := b.inbox.erase (l, m) }) n)
    | some (k, pool) => if m.hops = 63 then countLnk 1 1 (modLnk (fun b => { b with inbox := b.inbox.erase (l, m) }) n)
      else foldNode (segments (m.body.length / 65536) 0 { m with hops := m.hops + 1 }) (enqueue clk 255 pool k) (modLnk (fun b => { b with inbox := b.inbox.erase (l, m) }) n) := by
  refine if_neg ?_
  have hlink : (l == 36) = false := by simp; omega
  simp [hother, arrived, hup, hlink]
theorem messageForward_noRoute (hnone : pickLink n m = none) : messageForward l m clk n = countLnk 0 1 (modLnk (fun b => { b with inbox := b.inbox.erase (l, m) }) n) := by
  rw [messageForward_goes hl hother hup, hnone]
variable {k pool : Nat} (hlink : pickLink n m = some (k, pool))
include hlink
theorem messageForward_hopLimit (hhops : m.hops = 63) : messageForward l m clk n = countLnk 1 1 (modLnk (fun b => { b with inbox := b.inbox.erase (l, m) }) n) := by
  rw [messageForward_goes hl hother hup, hlink]
  exact if_pos hhops
theorem messageForward_leaves (hhops : m.hops < 63) : messageForward l m clk n =
    foldNode (segments (m.body.length / 65536) 0 { m with hops := m.hops + 1 }) (enqueue clk 255 pool k) (modLnk (fun b => { b with inbox := b.inbox.erase (l, m) }) n) := by
  rw [messageForward_goes hl hother hup, hlink]
  exact if_neg (by omega)
end
end

/-- What taking a flit leaves of its link's receive side, of the messages received and of the partitions. -/
theorem tookFlit_keeps {clk : Clock} {n : Node} {l : Nat} (bs got : List Byte) (hl : l < 36) :
    let z := idleFlit l (pump clk l (countL l 1 1 (modL l (tookFlit bs got) (modL l (heardFlit clk.node bs) n))))
    (getL z l).rxSeq = ((getL n l).rxSeq + 1) % 4096 ∧ (getL z l).asm_ = mset (getL n l).asm_ (flitPool bs) got ∧ z.lnk.inbox = n.lnk.inbox ∧ z.ptns = n.ptns := by
  intro z
  have hcount (m : Node) : getL (countL l 1 1 m) l = { getL m l with counts := lmod (getL m l).counts 1 (· + 1) } := getL_modL_self m _ hl
  have htook : getL (modL l (tookFlit bs got) (modL l (heardFlit clk.node bs) n)) l = tookFlit bs got (heardFlit clk.node bs (getL n l)) := by rw [getL_modL_self _ _ hl, getL_modL_self _ _ hl]
  obtain ⟨hseq, hasm, hinbox, hptns⟩ := pump_keeps clk (countL l 1 1 (modL l (tookFlit bs got) (modL l (heardFlit clk.node bs) n))) hl
  obtain ⟨hseq', hasm', hinbox', hptns'⟩ := idleFlit_keeps (pump clk l (countL l 1 1 (modL l (tookFlit bs got) (modL l (heardFlit clk.node bs) n)))) hl
  rw [hcount, htook] at hseq hasm
  exact ⟨hseq'.trans hseq, hasm'.trans hasm, hinbox'.trans hinbox, hptns'.trans hptns⟩

/-- Settles O25: each row is the lemma of its event; a message that passes through splits on its route and its hops. -/
theorem flitsMove : Obligations.FlitsMove := by
  refine ⟨?_, ?_, ?_, ?_, ?_, ?_⟩
  · intro e l k s ha hl hup
    exact run_to ha (flit_lost hl hup k)
  · intro e l bs s x ha hl hx hup hlen hcrc hmsg hmore hseq
    subst hx
    obtain ⟨hrx, hasm, hinbox, hptns⟩ := tookFlit_keeps (clk := clkOf e s) (n := nodeOf e s) bs (assembled bs (getL (nodeOf e s) l)) hl
    exact ⟨_, run_to ha (flit_takes hl hup hlen hcrc hmsg hmore hseq), hrx, hasm, rfl, hinbox, hptns⟩
  · intro e l s f r ha hl hup hbuf hdue htries
    exact run_to ha ((replayTimeout_resends hl hup hbuf hdue).trans (replayBuf_resends hbuf htries))
  · intro e l c pool s x ha hl hc hpool hx hup hheld hnone hdue
    subst hx
    exact run_to ha (creditStall_counts hl hup hc hpool hheld hnone hdue)
  · intro e l m s k pool ha hl hother hup hhops hlink
    exact run_to ha (messageForward_leaves hl hother hup hlink hhops)
  · intro e l m s ha hl hother hup
    refine ⟨fun hhops hroute => ?_, fun hnone => run_to ha (messageForward_noRoute hl hother hup hnone)⟩
    obtain ⟨⟨k, pool⟩, hlink⟩ := Option.isSome_iff_exists.mp hroute
    exact run_to ha (messageForward_hopLimit hl hother hup hlink hhops)

/-! ### Probes, acknowledgements, resends and level rejects (R262, R269, R270) -/

section
variable {clk : Clock} {n : Node} {m : Msg}
theorem pingReply_measures {t : Nat} (hping : n.lnk.ping = some (m.src, t)) (hbody : leAt m.body 0 8 = t) :
    pingReply m clk n = modLnk (fun b => { b with ping := none, pingRes := word [(63, 1, 1), (0, 62, clk.node - t)] }) n := by
  simp [pingReply, hping, hbody]
theorem pingTimeout_due {d : W32} {t : Nat} (hping : n.lnk.ping = some (d, t)) (hdue : t + 3000000 ≤ clk.node) :
    pingTimeout clk n = modLnk (fun b => { b with ping := none, pingRes := word [(63, 1, 1), (62, 1, 1)] }) n := by
  simp only [pingTimeout, hping, if_neg (Nat.not_lt.mpr hdue)]
variable {a : AckWait}
theorem ackMsg_ends (ha : findAck n (leAt m.body 0 8) (some m.src) = some a) : ackMsg m clk n = ackedFor clk a (dropAck a.m.seq n) := by
  simp only [ackMsg, ha]
theorem findAck_seq {q : Nat} {src : Option W32} (ha : findAck n q src = some a) : a.m.seq = q := by
  have hmatch := List.find?_some ha
  simp only [Bool.and_eq_true, beq_iff_eq] at hmatch
  exact hmatch.1
section
variable {q : Nat} (ha : findAck n q none = some a) (hdue : a.at_ + 300 * fld n.lnk.cfg 0 16 ≤ clk.node) (hst : (getP n a.m.srcPtn).st ≠ .resetting)
include ha hdue hst
theorem resendTimeout_due : resendTimeout q clk n = if fld n.lnk.cfg 16 4 ≤ a.sends then lostFor clk a (countLnk 3 1 (dropAck a.m.seq n)) else resend clk a n := by
  have hgo : ¬ (decide (clk.node < a.at_ + 300 * fld n.lnk.cfg 0 16) || (getP n a.m.srcPtn).st == .resetting) = true := by simp [hst, Nat.not_lt.mpr hdue]
  simp only [resendTimeout, ha, if_neg hgo, findAck_seq ha]
theorem resendTimeout_resends (hleft : a.sends < fld n.lnk.cfg 16 4) : resendTimeout q clk n = resend clk a n :=
  (resendTimeout_due ha hdue hst).trans (if_neg (Nat.not_le.mpr hleft))
theorem resendTimeout_givesUp (hnone : fld n.lnk.cfg 16 4 ≤ a.sends) : resendTimeout q clk n = lostFor clk a (countLnk 3 1 (dropAck a.m.seq n)) :=
  (resendTimeout_due ha hdue hst).trans (if_pos hnone)
end
/-- Only a mirror message is laid out anew for a lower level. -/
theorem relevel_plain (hplain : ∀ p k c, a.for_ ≠ .mirror p k c) (lvl : Nat) : relevel n a lvl = { a.m with level := lvl } := by
  unfold relevel
  split
  case h_1 p k c h => exact absurd h (hplain p k c)
  case h_2 => rfl
theorem levelReject_resends (ha : findAck n (leAt m.body 0 8) (some m.src) = some a) (hplain : ∀ p k c, a.for_ ≠ .mirror p k c) (hleft : a.sends < fld n.lnk.cfg 16 4) :
    levelReject m clk n = resend clk { a with m := { a.m with level := min (leAt m.body 9 1) a.m.level } }
      (modLnk (fun b => { b with routes := mmod b.routes (m.src.toNat % 4096) (fun w => if fld w 32 32 == m.src.toNat then put w 20 4 (min (leAt m.body 9 1) (fld w 20 4)) else w) }) (countLnk 2 1 n)) := by
  have hkept : findAck (countLnk 2 1 n) (leAt m.body 0 8) (some m.src) = some a := ha
  simp only [levelReject, hkept, relevel_plain hplain]
  exact if_neg (Nat.not_le.mpr hleft)
end

/-- Settles O26: each row is the lemma of its rule; a timeout splits on whether a send is left. -/
theorem messagesAreAcknowledged : Obligations.MessagesAreAcknowledged := by
  refine ⟨?_, ?_, ?_, ?_, ?_, ?_, ?_⟩
  · intro e l m s n hd
    exact msg_to hd rfl
  · intro e l m s n t hd hping hbody
    exact msg_to hd (pingReply_measures hping hbody)
  · intro e s d t ha hping hdue
    exact run_to ha (pingTimeout_due hping hdue)
  · intro e l m s n a hd hack
    exact msg_to hd (ackMsg_ends hack)
  · intro e q s a ha hack hdue hst hleft
    exact run_to ha (resendTimeout_resends hack hdue hst hleft)
  · intro e q s a ha hack hdue hst hnone
    exact run_to ha (resendTimeout_givesUp hack hdue hst hnone)
  · intro e l m s n a hd hack hplain hleft
    exact msg_to hd (levelReject_resends hack hplain hleft)

/-! ### Refill instants and wheel slots (R273 to R277) -/

/-- What running a flow leaves as it is: the link block but for its links and flows, and the partitions. -/
def besideFlows (n : Node) : LinkBlk × Vector Ptn 8 := ({ n.lnk with links := Vector.replicate 36 {}, flows := [] }, n.ptns)
theorem besideFlows_pump (clk : Clock) (l : Nat) (n : Node) : besideFlows (pump clk l n) = besideFlows n := by
  rw [pump_eq]
  rfl
theorem besideFlows_runFlow (clk : Clock) (f : Flow) (n : Node) : besideFlows (runFlow clk f n) = besideFlows n := by
  rw [runFlow, besideFlows_pump]
  rfl
section
variable {clk : Clock} {n : Node}
theorem refillInstantStep_due (hinst : refillInstant clk.node = true) (hnew : n.lnk.refillAt < clk.node) : besideFlows (refillInstantStep clk n) = besideFlows (refillAll clk 1 (slotOf clk.node) n) := by
  have hgo : ¬ (!refillInstant clk.node || decide (clk.node ≤ n.lnk.refillAt)) = true := by simp [hinst, hnew]
  rw [refillInstantStep, if_neg hgo]
  refine foldNode_inv besideFlows _ _ (fun f m => ?_) _
  split
  · exact besideFlows_runFlow clk _ m
  · rfl
theorem wheelSlotDue_runs {l c own k : Nat} {f : Flow} (hf : n.lnk.flows.find? (sameFlow own c l) = some f) (hslot : f.slot = some k) (hdue : k ≤ slotOf clk.node) : wheelSlotDue l c own clk n = runFlow clk f n := by
  simp only [wheelSlotDue, hf, hslot, if_neg (Nat.not_lt.mpr hdue)]
end

/-- Settles O27: what the flows that run leave as it is stands as the refill has left it. -/
theorem trafficIsShaped : Obligations.TrafficIsShaped := by
  refine ⟨?_, ?_⟩
  · intro e s ha hinst hnew
    have hkept := refillInstantStep_due (n := nodeOf e s) hinst hnew
    obtain ⟨hlnk, hptns⟩ := Prod.mk.inj hkept
    have hfld {α : Type} (g : LinkBlk → α) := congrArg g hlnk
    exact ⟨_, run_ok ha, hfld LinkBlk.refillAt, hfld LinkBlk.pendShape, hfld LinkBlk.pendSvc, hfld LinkBlk.shape, hfld LinkBlk.svc, hfld LinkBlk.pols, hptns, hfld LinkBlk.routes⟩
  · intro e l c own k s f ha hf hslot hdue
    exact run_to ha (wheelSlotDue_runs hf hslot hdue)

end Sys2Proof.Machine
end

section
/-! Proofs for chapter 13: watchdogs, resets and restorations of partitions (R284 to R299). -/

namespace Sys2Proof.Machine

/-! ### The start of a reset (R292, R295) -/

section
variable {clk : Clock} {p : Nat} {f : FaultRec} {w : Option Tok} {n : Node}
theorem pow_raised {code : Nat} (hp : p < 8) : (getP (raisePtn code p (addFault clk p f n)) p).pow = (getP n p).pow := by
  have hlog : (getP (addFault clk p f n) p).pow = (getP n p).pow := by
    rw [addFault, count, getP_modP_self _ _ hp, getP_modP_self _ _ hp]
  rw [getP, raisePtn_ptns]
  exact hlog
/-- A partition that resets, or is restored, takes the fault into its log and no more. -/
theorem startReset_busy (hbusy : (getP n p).run.isSome = true ∨ (getP n p).st = .restoring) :
    startReset clk p f w n = raisePtn attnFault p (addFault clk p { f with reset := false, counted := false } n) := by
  have hb : ((getP n p).run.isSome || (getP n p).pendReset.isSome || (getP n p).st == .restoring) = true := by
    rcases hbusy with h | h <;> simp [h]
  simp only [startReset, hb, Bool.not_true, Bool.and_false, if_true]
theorem startReset_counted (hp : p < 8) (hrun : (getP n p).run = none) (hpend : (getP n p).pendReset = none) (hst : (getP n p).st ≠ .restoring) (hnode : n.pwr.st ≠ .entering) (hpow : (getP n p).pow = .on)
    (hkind : fkCounted f.kind = true) : startReset clk p f w n =
    beginReset clk p { kind := f.kind, trigger := pctr clk p, at_ := pctr clk p, lcore := f.lcore, counted := true, waiters := w.toList }
      (count p .resetsCounted 1 (raisePtn attnFault p (addFault clk p { f with reset := true, counted := true } n))) := by
  have hfree : ((getP n p).run.isSome || (getP n p).pendReset.isSome || (getP n p).st == .restoring) = false := by simp [hrun, hpend, hst]
  simp only [startReset, hfree, hkind, Bool.not_false, Bool.and_self, Bool.false_eq_true, if_false, if_true]
  generalize hm : raisePtn attnFault p (addFault clk p { f with reset := true, counted := true } n) = m
  have hmpow : (getP m p).pow = .on := by rw [← hm, pow_raised hp, hpow]
  have hmnode : (m.pwr.st == .entering) = false := by simpa [← hm] using hnode
  have hcount : (getP (count p .resetsCounted 1 m) p).pow = .on := by rw [count, getP_modP_self _ _ hp, hmpow]
  have hup : ungate p m = m := if_neg (by simp [hmpow])
  have hon : ((getP n p).pow == .entering) = false := by simp [hpow]
  simp only [hmnode, hon, hup, hcount, Bool.false_eq_true, if_false]
end

/-! ### Watchdogs and core faults (R286 to R288, R290) -/

section
variable {clk : Clock} {p : Nat} {n : Node}
section
variable {ci : Nat} {c : Ctx} (hc : mget (getP n p).ctxs ci = some c) (hruns : runsP (getP n p) = true)
include hc hruns
theorem threadWatchdog_fires (hst : c.st = 2 ∨ c.st = 3 ∨ c.st = 4) (hfree : ctxHeld (getP n p) ci = false) (hdue : 300000 * fld (getP n p).wdCfg 0 16 ≤ pctr clk p - c.since) : threadWatchdog p ci clk n =
    startReset clk p { ctxRec n fkThreadHang ci c (if c.core < 64 then c.core else 0xFF) with d1 := c.progress, d2 := pctr clk p - c.since } none (count p .wdFired 1 n) := by
  have hlive : (c.st == 2 || c.st == 3 || c.st == 4) = true := by rcases hst with h | h | h <;> simp [h]
  simp only [threadWatchdog, hc, hruns, hlive, hfree, decide_eq_false (Nat.not_lt.mpr hdue), Bool.not_true, Bool.or_self, Bool.false_eq_true, if_false]
theorem coreWatchdog_fires {core last : Nat} (hready : c.st = 2) (hcore : c.core = core) (h64 : core < 64) (hmine : (getP n p).ent.cores.getLsbD core = true)
    (hfirst : ∀ y ∈ (getP n p).ctxs, y.2.core = core → y.2.st = 2 → c.since ≤ y.2.since) (hlast : (((getP n p).ctxs.filter (fun y => y.2.core == core)).map (fun y => y.2.since)).foldl max c.since = last)
    (hdue : 30000 * fld (getP n p).wdCfg 16 8 ≤ pctr clk p - last) : coreWatchdog p core ci clk n = startReset clk p
      { ctxRec n fkCoreHang ci c core with d1 := pctr clk p - last, d2 := ((getP n p).ctxs.filter (fun y => y.2.st == 2 && (y.2.core == core || y.1 == ci))).length } none (countHang core (count p .wdFired 1 n)) := by
  rw [List.foldl_map] at hlast
  have holder : ((getP n p).ctxs.filter (fun y => y.2.core == core)).any (fun y => y.2.st == 2 && decide (y.2.since < c.since)) = false := by
    simpa using fun i y hy hon hst => hfirst (i, y) hy hon hst
  simp only [coreWatchdog, hc, hruns, hlast, holder, hready, hcore, hmine, decide_eq_true h64, decide_eq_false (Nat.not_lt.mpr hdue)]
  simp
end
theorem queueWatchdog_fires {q : QRef} {y : Queue} {c : Cmd} {r : List Cmd} (hy : getQ n q.fn q.qid = some y) (hio : q.qid ≠ 0) (hmap : (getFn n q.fn).map = some p) (hruns : runsP (getP n p) = true)
    (hst : (getP n p).st = .inService) (hcmds : y.cmds = c :: r) (hwatched : notWatched n p { fn := q.fn, qid := q.qid, serial := c.serial } c = false)
    (hdue : max y.lastPost c.svcAt + 300000000 * fld (getP n p).wdCfg 24 8 ≤ (getP n p).svc) : queueWatchdog p q clk n = startReset clk p
      { seq := 0, ctr := 0, kind := fkQueueHang, fn := q.fn, queue := q.qid, cid := c.cid, d1 := r.length + 1, d2 := clk.node - c.at_
        thread := (((getP n p).ctxs.find? (fun k => k.2.fn == q.fn && k.2.queue == q.qid && k.2.cid == c.cid)).map (·.1)).getD 0xFFFFFFFF } none (count p .wdFired 1 n) := by
  have hlive : (y.cmds.filter (fun c => !notWatched n p { fn := q.fn, qid := q.qid, serial := c.serial } c)).head? = some c := by
    rw [hcmds, List.filter_cons_of_pos (by simp [hwatched]), List.head?_cons]
  have hlen : y.cmds.length = r.length + 1 := by rw [hcmds, List.length_cons]
  simp only [queueWatchdog, hy, hlive, hlen, hruns, hst, hmap, decide_eq_false (Nat.not_lt.mpr hdue)]
  simp [hio]
section
variable {core k : Nat} (hthere : (getP n p).st ≠ .absent) (hserves : (getP n p).st ≠ .withdrawn) (hk : 1 ≤ k ∧ k ≤ 4)
include hthere hserves hk
theorem coreFault_named (context : Bool) : coreFault p core k context clk n =
    if context then startReset clk p { seq := 0, ctr := 0, kind := fkContextUe, d1 := k } none n
    else if !(decide (core < 64) && (getP n p).ent.cores.getLsbD core) then n
    else startReset clk p { seq := 0, ctr := 0, kind := fkCoreFault, lcore := core, pcore := pcoreOf n core, d1 := k } none (countHang core n) := by
  refine if_neg ?_
  simp [hthere, hserves]
  omega
end
end

/-- Settles O33: each watchdog is the lemma of its event, the start of a reset splits on whether one runs already. -/
theorem watchdogsFire : Obligations.WatchdogsFire := by
  refine ⟨?_, ?_, ?_, ?_, ?_, ?_⟩
  · intro e p ci s x c ha hx hc hruns hst hfree hdue
    subst hx
    exact run_to ha (threadWatchdog_fires hc hruns hst hfree hdue)
  · intro e p core ci last s x c ha hx hc hruns hready hcore h64 hmine hfirst hlast hdue
    subst hx
    exact run_to ha (coreWatchdog_fires hc hruns hready hcore h64 hmine hfirst hlast hdue)
  · intro e p q s x y c r ha hx hy hio hmap hruns hst hcmds hwatched hdue
    subst hx
    exact run_to ha (queueWatchdog_fires hy hio hmap hruns hst hcmds hwatched hdue)
  · intro e p core k s ha hthere hserves hlow hhigh
    have hnamed := coreFault_named (clk := clkOf e s) (core := core) hthere hserves ⟨hlow, hhigh⟩
    exact ⟨run_to ha (hnamed true), fun h64 hmine => run_to ha (((hnamed false).trans (if_neg (by decide))).trans (if_neg (by simp [h64, hmine])))⟩
  · intro clk p f w n hp hrun hpend hst hnode hpow hkind
    exact startReset_counted hp hrun hpend hst hnode hpow hkind
  · intro clk p f w n hbusy
    exact startReset_busy hbusy

/-! ### Resets, withdrawal and restore (R291 to R299) -/

section
variable {clk : Clock} {host : Mem} {t : Tok} {x : Sqe} {n : Node}
theorem partitionReset_starts (hst : (getP n x.target).st = .inService) (hrun : (getP n x.target).run = none) (hpend : (getP n x.target).pendReset = none) :
    partitionReset clk host t x n = startReset clk x.target { seq := 0, ctr := 0, kind := fkCommanded, d1 := t.fn } (some t) n := by
  simp only [partitionReset, hst, hrun, hpend]
theorem partitionReset_withdrawn (hst : (getP n x.target).st = .withdrawn) : partitionReset clk host t x n = post clk t stBusy 0 n := by
  simp only [partitionReset, hst]
theorem partitionRestore_starts (hst : (getP n x.target).st = .withdrawn) : partitionRestore clk host t x n = beginRestore clk x.target (some t) n := by
  simp only [partitionRestore, hst]
theorem faultLogRead_writes {rs : List FaultRec} (hthere : (getP n x.target).st ≠ .absent) (hmine : t.fn = 0 ∨ (getFn n t.fn).map = some x.target)
    (hrs : ((getP n x.target).faults.filter (fun r => decide (x.arg1 ≤ r.seq))).take x.arg0 = rs) (hsome : rs ≠ []) :
    faultLogRead clk host t x n = post clk t stSuccess rs.length (emit (.data x.addr0 ((rs.map faultBytes).flatten)) n) := by
  have hreads : ¬ ((getP n x.target).st == .absent || (t.fn != 0 && (getFn n t.fn).map != some x.target)) = true := by
    rcases hmine with h | h <;> simp [hthere, h]
  have hfull : rs.isEmpty = false := by simpa using hsome
  simp only [faultLogRead, if_neg hreads, hrs, hfull, Bool.false_eq_true, if_false]
theorem functionMap_maps (hidle : (getFn n x.arg0).queues.any (fun y => y.1 != 0) = false) (hmap : (getFn n x.arg0).map = none ∨ ∃ p, (getFn n x.arg0).map = some p ∧ (getP n p).run = none) :
    functionMap clk host t x n = post clk t stSuccess 0 (modFn x.arg0 (fun f => { f with map := if x.arg1 = 0xFF then none else some x.arg1 }) n) := by
  rcases hmap with hmap | ⟨p, hmap, hrun⟩
  · simp only [functionMap, hmap, hidle, Bool.or_self, Bool.false_eq_true, if_false]
  · simp only [functionMap, hmap, hrun, hidle, Option.isSome_none, Bool.or_self, Bool.false_eq_true, if_false]
end

/-- A partition that a counted reset too many has withdrawn: the record of that reset says so, and its own record is written. -/
def withdraw (clk : Clock) (p : Nat) (r : ResetRun) (resets : Nat) (n : Node) : Node :=
  foldNode r.waiters (fun t n => post clk t stSuccess 0 n) (releaseMsix p (raisePtn attnWithdrawn p
    (addFault clk p { seq := 0, ctr := 0, kind := fkWithdrawn, d1 := resets } (modP p (fun y => { y with faults := y.faults.map (fun f => if f.counted && f.ctr == r.trigger then { f with withdrew := true } else f) })
      (modP p (fun y => { y with st := .withdrawn, run := none, downAt := r.at_ }) n)))))
section
variable {clk : Clock} {p : Nat} {n : Node} {r : ResetRun} (hrun : (getP n p).run = some r) (hdue : r.at_ + resetLen (getP n p) ≤ pctr clk p)
include hrun hdue
theorem partitionResetEnd_uncounted (hc : r.counted = false) : partitionResetEnd p clk n = resume clk p (pctr clk p - r.at_) r.waiters (engageAtReset clk p n) := by
  simp only [partitionResetEnd, hrun, if_neg (Nat.not_lt.mpr hdue), hc, Bool.not_false, if_true]
variable {hist inW : List (Nat × Nat)} {m : Node} (hc : r.counted = true) (hhist : ((r.trigger, r.lcore) :: (getP n p).hist).take 16 = hist) (hinW : hist.filter (fun h => decide (r.trigger - h.1 < window (getP n p))) = inW)
  (hm : modP p (fun y => { y with hist := hist, inWindow := inW.length }) (engageAtReset clk p n) = m)
include hc hhist hinW hm
theorem partitionResetEnd_serves (hfew : inW.length ≤ fld (getP n p).escCfg 16 4) : partitionResetEnd p clk n = resume clk p (pctr clk p - r.at_) r.waiters m := by
  simp only [partitionResetEnd, hrun, if_neg (Nat.not_lt.mpr hdue), hc, hhist, hinW, hm, if_pos hfew, Bool.not_true, Bool.false_eq_true, if_false]
theorem partitionResetEnd_withdraws (hmany : fld (getP n p).escCfg 16 4 < inW.length) (hload : (getP n p).load = none) (hauto : bit (getP n p).escCfg 20 = false) :
    partitionResetEnd p clk n = withdraw clk p r inW.length m := by
  simp only [partitionResetEnd, hrun, if_neg (Nat.not_lt.mpr hdue), hc, hhist, hinW, hm, if_neg (Nat.not_le.mpr hmany), hload, hauto, Bool.not_true, Bool.false_and, Bool.false_eq_true, if_false]
  rfl
end
theorem restoreEnd_due {clk : Clock} {p : Nat} {n : Node} {t : Option Tok} (ht : (getP n p).restore = some t) (hst : (getP n p).st = .restoring) (hdue : (getP n p).restAt + restoreLen (getP n p) ≤ pctr clk p) :
    restoreEnd p clk n = postO clk t stSuccess 0 (resume clk p (pctr clk p - (getP n p).downAt) (getP n p).restWait (modP p (fun y => { y with restore := none, restWait := [], hist := [] }) n)) := by
  have hover : ¬ ((getP n p).st != .restoring || decide (pctr clk p < (getP n p).restAt + restoreLen (getP n p))) = true := by simp [hst, Nat.not_lt.mpr hdue]
  simp only [restoreEnd, ht, if_neg hover]

/-- Settles O34: the end of a reset splits on whether it is counted, and on the resets inside the window. -/
theorem partitionsRecover : Obligations.PartitionsRecover := by
  refine ⟨?_, ?_, ?_, ?_, ?_, ?_, ?_, ?_⟩
  · intro e q s t x n ht hst hrun hpend
    exact host_to ht (partitionReset_starts hst hrun hpend)
  · intro e p s r ha hrun hdue hc
    exact run_to ha (partitionResetEnd_uncounted hrun hdue hc)
  · intro e p s r x hist inW m ha hx hrun hdue hc hhist hinW hm
    subst hx
    exact ⟨fun hfew => run_to ha (partitionResetEnd_serves hrun hdue hc hhist hinW hm hfew), fun hmany hload hauto => run_to ha (partitionResetEnd_withdraws hrun hdue hc hhist hinW hm hmany hload hauto)⟩
  · intro e q s t x n ht hst
    exact host_to ht (partitionReset_withdrawn hst)
  · intro e q s t x n ht hst
    exact host_to ht (partitionRestore_starts hst)
  · intro e p s t x ha hx ht hst hdue
    subst hx
    exact run_to ha (restoreEnd_due ht hst hdue)
  · intro e q s t x n rs ht hthere hmine hrs hsome
    exact host_to ht (faultLogRead_writes hthere hmine hrs hsome)
  · intro e q s t x n ht hidle hmap
    exact host_to ht (functionMap_maps hidle hmap)

end Sys2Proof.Machine
end

section
/-! Proofs for chapter 13: ownership, mirroring, snapshots and restorations of objects (R306 to R323). -/

namespace Sys2Proof.Machine

/-! ### Commands of ownership (R306 to R309, R312, R313) -/

/-- A command gives up its transfer: the object's owner answers the command that began it. -/
def bustXfer (clk : Clock) (o : Own) (n : Node) : Node := match o.xfer with
  | some y => post clk y.tok stBusy o.epoch n
  | none => n
theorem bustXfer_of {clk : Clock} {o : Own} {n m : Node} (hnone : o.xfer = none → m = n) (hsome : ∀ y, o.xfer = some y → m = post clk y.tok stBusy o.epoch n) : bustXfer clk o n = m := by
  unfold bustXfer
  split
  case h_1 y h => exact (hsome y h).symm
  case h_2 h => exact (hnone h).symm

section
variable {clk : Clock} {host : Mem} {t : Tok} {x : Sqe} {n : Node}
theorem afterLoad_waits {job : Job} (hwait : xferWaits n t.fn x = true) : afterLoad job clk host t x n = modBoot (fun b => { b with after := b.after ++ [(t, x)] }) n := if_pos hwait
theorem afterLoad_goes {job : Job} (hgo : xferWaits n t.fn x = false) : afterLoad job clk host t x n = job clk host t x n := if_neg (by simp [hgo])
section
variable {mem : Clock → Tok → Sqe → Nat → Node → Option Node} {g : Clock → Tok → Sqe → Nat → ObjKind → Nat → Own → Node → Node} {p : Nat}
theorem onOwn_object {num : Nat} {k : ObjKind} {o : Own} (h : ownIs n t x p k num o) : onOwn mem g clk host t x n = g clk t x p k num o n := by
  obtain ⟨hp, rfl, hid, ho⟩ := h
  simp only [onOwn, hp, hid, ho]
theorem onOwn_memory {m : Node} (hp : ownPtn n t.fn x = some p) (hid : findId n p (kindOf (x.arg0 % 2)) (BitVec.ofNat 64 x.arg1) = none) (hm : mem clk t x p n = some m) :
    onOwn mem g clk host t x n = m := by
  simp only [onOwn, hp, hid, hm]
end
variable {p num : Nat} {k : ObjKind} {o : Own} (hobj : ownIs n t x p k num o)
include hobj
theorem ownershipRelease_starts (hst : o.st = .owned) (hdst : argOwner x.arg2 ≠ 0) (hother : isMe n p (argOwner x.arg2) (argOwnerP x.arg2) = false) :
    ownershipRelease clk host t x n = tryRelease clk p k num ((if k = .table then abandonMigs p num else thaw p num) (modOwn p k num (fun o => { o with
      st := .releasing, xfer := some { tok := t, peer := argOwner x.arg2, peerP := argOwnerP x.arg2, epoch := o.epoch, at_ := pctr clk p, inNode := argOwner x.arg2 == n.lnk.nodeId } }) n)) := by
  refine (onOwn_object hobj).trans ?_
  have howned : ¬ (o.st != .owned) = true := by simp [hst]
  have hnamed : ¬ (decide (argOwner x.arg2 = 0) || isMe n p (argOwner x.arg2) (argOwnerP x.arg2)) = true := by simpa [hother] using hdst
  rw [if_neg howned]
  refine (if_neg hnamed).trans ?_
  cases k <;> rfl
theorem ownershipClaim_starts (hplain : x.flag 1 = false) (hst : o.st = .released) : ownershipClaim clk host t x n = tryClaim clk p k num (modOwn p k num (fun o => { o with
    st := .claiming, xfer := some { tok := t, peer := argOwner x.arg2, peerP := argOwnerP x.arg2, epoch := x.arg3, at_ := pctr clk p, inNode := argOwner x.arg2 == n.lnk.nodeId } }) n) := by
  refine (onOwn_object hobj).trans ?_
  simp [hplain, hst]
section
variable {m0 m : Node} (hforced : x.flag 1 = true) (hst : o.st ≠ .frozen) (hnew : o.seen < x.arg3) (hbust : bustXfer clk o n = m0)
  (hm : letGo clk p k num ((o.xfer.map (·.at_)).getD (pctr clk p)) (modOwn p k num (fun o => { o with owner := m0.lnk.nodeId, ownerP := p, epoch := x.arg3, seen := x.arg3, st := .owned, xfer := none, rel := none }) m0) = m)
include hforced hst hnew hbust hm
theorem ownershipClaim_forced : ownershipClaim clk host t x n = post clk t stSuccess x.arg3
    (if argOwner x.arg2 = m.lnk.nodeId then m else sendOwn clk mkOwnState p k num (argOwner x.arg2) (argOwnerP x.arg2) Holder.owned.code m) := by
  subst hm hbust
  refine (onOwn_object hobj).trans ?_
  have hgo : ¬ (o.st == .frozen && !x.flag 1) = true := by simp [hforced]
  rw [if_neg hgo, if_pos hforced, if_neg (Nat.not_le.mpr hnew), if_neg (by simpa using hst)]
  rfl
end
end
section
variable {clk : Clock} {host : Mem} {t : Tok} {x : Sqe} {n : Node} {p num : Nat} {k : ObjKind} {o : Own}
/-- A resolution unfreezes the object: a collection serves or is created, a table is ready. -/
def unfreeze (p num : Nat) (n : Node) : ObjKind → Node
  | .coll => settleColls (modC p num (fun c => { c with st := if c.st == .frozen then (if c.cur.isSome then .serving else .created) else c.st }) n)
  | .table => modT p num (fun y => { y with st := if y.st == .frozen then .ready else y.st }) n
theorem unfreeze_of {m m2 : Node} (hcoll : k = .coll → m2 = settleColls (modC p num (fun c => { c with st := if c.st == .frozen then (if c.cur.isSome then .serving else .created) else c.st }) m))
    (htable : k = .table → m2 = modT p num (fun y => { y with st := if y.st == .frozen then .ready else y.st }) m) : unfreeze p num m k = m2 := by
  cases k
  · exact (hcoll rfl).symm
  · exact (htable rfl).symm
theorem ownershipResolve_resolves {m0 m m2 m3 : Node} {me : Bool} (hobj : ownIs n t x p k num o) (hnew : o.seen < x.arg3) (hme : isMe n p (argOwner x.arg2) (argOwnerP x.arg2) = me) (hbust : bustXfer clk o n = m0)
    (hm : modDur p k num (fun d => { d with follow := true }) (modOwn p k num (fun o => { o with
      owner := argOwner x.arg2, ownerP := argOwnerP x.arg2, epoch := x.arg3, seen := x.arg3, st := if me then .owned else .released, xfer := none, rel := none }) m0) = m)
    (hm2 : unfreeze p num m k = m2) (hmine : me = true → m3 = letGo clk p k num ((o.xfer.map (·.at_)).getD (pctr clk p)) m2)
    (hother : me = false → m3 = endUpds clk p k num stBusy ((argOwner x.arg2).toNat + 2 ^ 32 * argOwnerP x.arg2) true m2) :
    ownershipResolve clk host t x n = post clk t stSuccess x.arg3
      (if me || argOwner x.arg2 == m3.lnk.nodeId then m3 else sendOwn clk mkOwnState p k num (argOwner x.arg2) (argOwnerP x.arg2) Holder.released.code m3) := by
  have hm3 : (if me then letGo clk p k num ((o.xfer.map (·.at_)).getD (pctr clk p)) m2
      else endUpds clk p k num stBusy ((argOwner x.arg2).toNat + 2 ^ 32 * argOwnerP x.arg2) true m2) = m3 := by
    cases me
    · exact (hother rfl).symm
    · exact (hmine rfl).symm
  subst hm3 hm2 hm hbust hme
  refine (onOwn_object hobj).trans ?_
  rw [if_neg (Nat.not_le.mpr hnew)]
  cases k <;> rfl
section
variable {m : Node} (ho : getOwn n p k num = some o)
include ho
theorem claimTimeout_claim {y : Xfer} (hst : o.st = .claiming) (hy : o.xfer = some y) (hdue : y.at_ + claimCycles (getP n p) ≤ pctr clk p)
    (hm : modOwn p k num (fun o => { o with st := .released, owner := y.peer, ownerP := y.peerP, xfer := none, rel := none }) n = m) :
    claimTimeout p k num clk n = post clk y.tok stBusy o.epoch
      (if y.inNode then m else sendOwn clk mkOwnState p k num y.peer y.peerP (if o.rel.any (relMeets y) then ownDeclined else Holder.released.code) m) := by
  simp only [claimTimeout, ho, hst, hy, if_neg (Nat.not_lt.mpr hdue), hm]
theorem claimTimeout_release {r : RelSeen} (hst : o.st = .released) (hr : o.rel = some r) (hdue : r.at_ + claimCycles (getP n p) ≤ pctr clk p)
    (hm : modOwn p k num (fun o => { o with owner := r.from_, ownerP := r.fromP, rel := none }) n = m) :
    claimTimeout p k num clk n = if r.from_ = m.lnk.nodeId then m else sendOwn clk mkOwnState p k num r.from_ r.fromP Holder.released.code m := by
  simp only [claimTimeout, ho, hst, hr, if_neg (Nat.not_lt.mpr hdue), hm]
end
end

/-- Settles O55: each command is the lemma of its job, once what it waits for and the object it names are known; the last step of each splits on whether the other holder is this node. -/
theorem ownershipCommandsComplete : Obligations.OwnershipCommandsComplete := by
  refine ⟨?_, ?_, ?_, ?_, ?_, ?_, ?_⟩
  · intro e q s t x n
    refine ⟨fun ht hwait => host_to ht (afterLoad_waits hwait), fun ht hwait => host_to ht (afterLoad_waits hwait), ?_⟩
    intro p m hp hid hgo
    exact ⟨fun ht hm => host_to ht ((afterLoad_goes hgo).trans (onOwn_memory hp hid hm)), fun ht hm => host_to ht ((afterLoad_goes hgo).trans (onOwn_memory hp hid hm))⟩
  · intro e q s t x n p num k o ht hobj hgo hst hdst hother
    exact host_to ht ((afterLoad_goes hgo).trans (ownershipRelease_starts hobj hst hdst hother))
  · intro e q s t x n p num k o ht hobj hgo hplain hst
    exact host_to ht ((afterLoad_goes hgo).trans (ownershipClaim_starts hobj hplain hst))
  · intro e q s t x n m0 m p num k o ht hobj hgo hforced hst hnew hnone hsome hm
    have hjob := (afterLoad_goes (host := hostOf e s) hgo).trans (ownershipClaim_forced hobj hforced hst hnew (bustXfer_of hnone hsome) hm)
    exact ⟨fun hhere => host_to ht (hjob.trans (by rw [if_pos hhere])), fun hthere => host_to ht (hjob.trans (by rw [if_neg hthere]))⟩
  · intro e q s t x n m0 m m2 m3 p num k o me ht hobj hnew hme hnone hsome hm hcoll htable hmine hother
    have hjob := ownershipResolve_resolves (host := hostOf e s) hobj hnew hme (bustXfer_of hnone hsome) hm (unfreeze_of hcoll htable) hmine hother
    refine ⟨fun hhere => host_to ht (hjob.trans ?_), fun hme' hthere => host_to ht (hjob.trans ?_)⟩
    · rw [if_pos (by simpa using hhere)]
    · rw [if_neg (by simp [hme', hthere])]
  · intro e p num k s o x m ha ho hst hx hdue hm
    have hout := claimTimeout_claim ho hst hx hdue hm
    refine ⟨fun hin => run_to ha (congrArg _ (hout.trans ?_)), fun hin => run_to ha (congrArg _ (hout.trans ?_))⟩
    · rw [if_pos hin]
    · rw [if_neg (by simp [hin])]
  · intro e p num k s o r m ha ho hst hr hdue hm
    have hout := claimTimeout_release ho hst hr hdue hm
    exact ⟨fun hhere => run_to ha (congrArg _ (hout.trans (if_pos hhere))), fun hthere => run_to ha (congrArg _ (hout.trans (if_neg hthere)))⟩

/-! ### Messages of ownership (R309 to R311, Table 13-16) -/

/-- The copy has seen the epoch that a message carries. -/
def sawEpoch (m : Msg) (k : ObjKind) (num ep : Nat) : Node → Node := modOwn m.dstPtn k num (fun o => { o with seen := max o.seen ep })
/-- The sender is told that the object is frozen. -/
def answerFrozen (clk : Clock) (m : Msg) (k : ObjKind) (num : Nat) : Node → Node := sendOwn clk mkOwnState m.dstPtn k num m.src m.srcPtn Holder.frozen.code
section
variable {clk : Clock} {m : Msg} {n z : Node} {num ep : Nat} {k : ObjKind} {o : Own} (hz : ackBack clk m n = z) (hk : kindOf (leAt m.body 0 1) = k) (hid : findId z m.dstPtn k (BitVec.ofNat 64 (leAt m.body 8 8)) = some num)
  (ho : getOwn z m.dstPtn k num = some o) (hep : leAt m.body 0x10 8 = ep)
include hz hk hid ho hep
theorem ownMessage_frozen {kind : Nat} (hst : o.st = .frozen) : ownMessage kind m clk n = answerFrozen clk m k num (sawEpoch m k num ep z) := by
  simp only [ownMessage, hz, hk, hid, ho, hep, hst, beq_self_eq_true, if_true]
  rfl
theorem ownMessage_contested {kind : Nat} (hst : o.st = .owned) (hrow : kind = mkOwnClaim ∨ leAt m.body 1 1 = Holder.owned.code ∧ kind ≠ mkOwnClaim) :
    ownMessage kind m clk n = answerFrozen clk m k num (freezeObj clk m.dstPtn k num m.src m.srcPtn (sawEpoch m k num ep z)) := by
  have hwarm : (Holder.owned == Holder.frozen) = false := rfl
  simp only [ownMessage, hz, hk, hid, ho, hep, hst, hwarm, beq_self_eq_true, Bool.true_and, Bool.false_eq_true, if_false]
  rcases hrow with hclaim | ⟨howned, hother⟩
  · simp only [hclaim, bne_self_eq_false, Bool.and_false, Bool.false_eq_true, if_false, beq_self_eq_true, if_true]
    rfl
  · simp only [howned, bne_iff_ne.mpr hother, beq_self_eq_true, Bool.and_self, if_true]
    rfl
theorem ownMessage_release (hst : o.st = .released) (hnamed : isMe z m.dstPtn (BitVec.ofNat 32 (leAt m.body 0x18 4)) (leAt m.body 0x1C 1 % 8) = true) (hrel : leAt m.body 1 1 = Holder.released.code) (hnew : o.epoch < ep) :
    ownMessage mkOwnRelease m clk n = tryClaim clk m.dstPtn k num (sawEpoch m k num ep
      (modOwn m.dstPtn k num (fun o => { o with rel := some { from_ := m.src, fromP := m.srcPtn, epoch := ep, lastSeq := leAt m.body 0x20 8, at_ := pctr clk m.dstPtn } })
        (modOwn m.dstPtn k num (fun o => { o with owner := BitVec.ofNat 32 (leAt m.body 0x18 4), ownerP := leAt m.body 0x1C 1 % 8, epoch := ep }) z))) := by
  have hwarm : (Holder.released == Holder.frozen) = false := rfl
  have hnot : (Holder.released == Holder.owned) = false := rfl
  have hkind : (mkOwnRelease == mkOwnState) = false := rfl
  have hcode : (Holder.released.code == Holder.frozen.code) = false := rfl
  simp only [ownMessage, hz, hk, hid, ho, hep, hst, hnamed, hrel, hwarm, hnot, hkind, hcode, hnew, beq_self_eq_true, decide_true, Bool.true_and, Bool.and_true, Bool.false_and, Bool.and_false, Bool.false_eq_true, if_false, if_true]
  rfl
end

/-- Settles O56: the message's row of Table 13-16 follows from the kind of the message and the state of the copy. -/
theorem ownershipMessagesAreAnswered : Obligations.OwnershipMessagesAreAnswered := by
  intro e l m s n z num ep k o hz hk hid ho hep
  refine ⟨?_, ?_, ?_, ?_⟩
  · intro hd hst hnamed hrel hnew
    exact msg_to hd (congrArg _ (ownMessage_release hz hk hid ho hep hst hnamed hrel hnew))
  · intro hd hst
    exact msg_to hd (congrArg _ (ownMessage_contested hz hk hid ho hep hst (.inl rfl)))
  · intro hd hst howned
    exact msg_to hd (congrArg _ (ownMessage_contested hz hk hid ho hep hst (.inr ⟨howned, by decide⟩)))
  · intro hd hst
    exact msg_to hd (congrArg _ (ownMessage_frozen hz hk hid ho hep hst))

/-! ### Epochs, mirrors and holds (R314 to R319) -/

theorem ungate_on {p : Nat} {n : Node} (hon : (getP n p).pow = .on) : ungate p n = n := if_neg (by simp [hon])
/-- At the end of an epoch a snapshot of an object starts where one is due or asked for, and none is in progress. -/
def snapAtEnd (clk : Clock) (p : Nat) (x : Ptn) (o : ObjKind × Nat) (n : Node) : Node := match getDur n p o.1 o.2 with
  | none => n
  | some d => if d.snap.isSome || !((mirrorOn x && decide (0 < fld x.durCfg 48 16) && (x.epoch + 1) % fld x.durCfg 48 16 == 0) || d.wantSnap.isSome) then n else startSnap clk p o.1 o.2 x.epoch (d.wantSnap.getD none) n
section
variable {clk : Clock} {n m : Node} {p : Nat}
section
variable (hdue : (getP n p).epochAt + (getP n p).epochLen ≤ pctr clk p) (hon : (getP n p).pow = .on)
  (hm : foldNode (getP n p).tbls (fun t n => beginHold clk p .table t.1 n) (modP p (fun y => { y with epoch := (getP n p).epoch + 1, epochAt := y.epochAt + y.epochLen, epochLen := 300000 * fld y.durCfg 32 16 })
    (foldNode (objsOf (getP n p)) (fun o n => mirrorSend clk p o.1 o.2 true n) n)) = m)
include hdue hon hm
theorem epochBoundary_serving (hst : (getP n p).st = .inService) : epochBoundary p clk n = foldNode (objsOf (getP n p)) (snapAtEnd clk p (getP n p)) m := by
  have hends : ¬ ((getP n p).st == .absent || decide (pctr clk p < (getP n p).epochAt + (getP n p).epochLen)) = true := by simp [hst, Nat.not_lt.mpr hdue]
  have hserves : ¬ ((getP n p).st == .resetting || (getP n p).st == .withdrawn || (getP n p).st == .restoring || (getP n p).pow == .off || (getP n p).pow == .waking) = true := by simp [hst, hon]
  refine (if_neg hends).trans ?_
  simp only [ungate_on hon, hm]
  refine (if_neg hserves).trans (congrArg (fun g => foldNode (objsOf (getP n p)) g m) ?_)
  funext o z
  unfold snapAtEnd
  cases hd : getDur z p o.1 o.2 with
  | none => rfl
  | some d =>
    dsimp only
    cases d.wantSnap <;> rfl
theorem epochBoundary_resetting (hst : (getP n p).st = .resetting) : epochBoundary p clk n = m := by
  have hends : ¬ ((getP n p).st == .absent || decide (pctr clk p < (getP n p).epochAt + (getP n p).epochLen)) = true := by simp [hst, Nat.not_lt.mpr hdue]
  refine (if_neg hends).trans ?_
  simp only [ungate_on hon, hm]
  exact if_pos (by simp [hst])
end
theorem mirrorSendTimer_due {c : Nat} {d : Dur} {u : Unack} {us : List Unack} (hd : getDur n p .coll c = some d) (hu : d.unsent = u :: us) (hdue : u.at_ + 300000 ≤ pctr clk p) :
    mirrorSendTimer p c clk n = mirrorSend clk p .coll c false n := by
  simp only [mirrorSendTimer, hd, Option.bind_some, hu, List.head?_cons, if_neg (Nat.not_lt.mpr hdue)]
theorem beginHold_holds {k : ObjKind} {c : Nat} {d : Dur} (hd : getDur n p k c = some d) (hfree : d.held = false) (hdue : holdDue clk n p k c = true) :
    beginHold clk p k c n = raisePtn attnDurability p (durRecord clk p 2 (getP n p).epoch (modDur p k c (fun d => { d with held := true, heldAt := pctr clk p }) n)) := by
  simp only [beginHold, hd]
  exact if_neg (by simp [hfree, hdue])
end

/-- The acknowledgement of a mirror message: at once, or where it is durable after its sectors are programmed. -/
def mirrorAck (clk : Clock) (m : Msg) (blk : Nat) (n : Node) : Node :=
  if (leAt m.body 9 1).testBit 1 then modFls (fun f => { f with ackWhen := f.ackWhen ++ [(m, keptObj, blk)] }) n else ackBack clk m n
/-- The object at this node follows what a mirror message carries. -/
def mirrorFollow (clk : Clock) (m : Msg) (k : ObjKind) (id : W64) (n : Node) : Node := match findId n m.dstPtn k id with
  | some num => followRecs clk m.dstPtn k num m n
  | none => n
section
variable {clk : Clock} {n n1 z : Node} {m : Msg} {k : ObjKind} {id : W64} {y : Kept}
/-- A message of a source without a snapshot drops no record kept. -/
theorem mirrorWrite_kept (hroom : stageFill n + cdiv m.body.length 4096 ≤ stageSize) (hfirst : n.flash.ackWhen.any (fun a => a.1.src == m.src && a.1.seq == m.seq) = false) (hk : kindOf (leAt m.body 8 1) = k) (hid : BitVec.ofNat 64 (leAt m.body 0 8) = id)
    (hsnap : leAt m.body 0x20 8 = 0) (hn1 : needObj m.dstPtn keptObj n = n1)
    (hy : { src := m.src, srcP := m.srcPtn, kind := k, objId := id, epoch := leAt m.body 0x10 8, total := 0, bytes := m.body, blk := keptAt n1 keptObj n1.flash.mirrors (cdiv m.body.length 4096) } = y)
    (hz : stageKept clk keptObj y ((leAt m.body 9 1).testBit 1) (modFls (fun f => { f with mirrors := f.mirrors ++ [y] }) n1) = z) :
    mirrorWrite m clk n = settleXfers clk m.dstPtn (mirrorFollow clk m k id (mirrorAck clk m y.blk z)) := by
  subst hz hy hn1 hid hk
  have htakes : ¬ (decide (stageSize < stageFill n + cdiv m.body.length 4096) || n.flash.ackWhen.any (fun a => a.1.src == m.src && a.1.seq == m.seq)) = true := by simp [Nat.not_lt.mpr hroom, hfirst]
  refine (if_neg htakes).trans ?_
  have hgone (l : List Kept) : l.filter (fun x => sameSource m.src m.srcPtn (kindOf (leAt m.body 8 1)) (BitVec.ofNat 64 (leAt m.body 0 8)) x && 0 != 0 && decide (x.epoch ≤ 0)) = [] :=
    List.filter_eq_nil_iff.mpr fun x _ => by simp
  have hstay (l : List Kept) : l.filter (fun x => !([] : List Kept).contains x) = l := List.filter_eq_self.mpr fun x _ => rfl
  simp only [hsnap, hgone, hstay]
  rfl
theorem mirrorAck_now (hd : (leAt m.body 9 1).testBit 1 = false) (b : Nat) : mirrorAck clk m b z = ackBack clk m z := if_neg (by simp [hd])
theorem mirrorAck_later (hd : (leAt m.body 9 1).testBit 1 = true) (b : Nat) : mirrorAck clk m b z = modFls (fun f => { f with ackWhen := f.ackWhen ++ [(m, keptObj, b)] }) z := if_pos hd
theorem mirrorFollow_none (h : findId z m.dstPtn k id = none) : mirrorFollow clk m k id z = z := by simp only [mirrorFollow, h]
theorem mirrorFollow_some {num : Nat} (h : findId z m.dstPtn k id = some num) : mirrorFollow clk m k id z = followRecs clk m.dstPtn k num m z := by simp only [mirrorFollow, h]
theorem findId_modFls (g : FlashSt → FlashSt) (p : Nat) : findId (modFls g z) p k id = findId z p k id := by cases k <;> rfl
end

/-- Settles O57: an epoch's end splits on whether the partition serves; a mirror message is kept, acknowledged and followed one after the other. -/
theorem recordsAreMirrored : Obligations.RecordsAreMirrored := by
  refine ⟨?_, ?_, ?_, ?_⟩
  · intro e p s x m ha hx hdue hon hm
    subst hx
    exact ⟨fun hst => run_to ha (epochBoundary_serving hdue hon hm hst), fun hst => run_to ha (epochBoundary_resetting hdue hon hm hst)⟩
  · intro e p c s d u us ha hd hu hdue
    exact run_to ha (mirrorSendTimer_due hd hu hdue)
  · intro e p c s d ha hd hfree hdue
    exact run_to ha (beginHold_holds hd hfree hdue)
  · intro e l m s n n1 z k id y hd hroom hfirst hk hid hsnap hn1 hy hz
    have hkept := mirrorWrite_kept hroom hfirst hk hid hsnap hn1 hy hz
    refine ⟨fun hnow hnone => msg_to hd (hkept.trans ?_), fun hlater hnone => msg_to hd (hkept.trans ?_), fun num hnow hsome => msg_to hd (hkept.trans ?_)⟩
    · rw [mirrorAck_now hnow, mirrorFollow_none hnone]
    · rw [mirrorAck_later hlater, mirrorFollow_none ((findId_modFls _ _).trans hnone)]
    · rw [mirrorAck_now hnow, mirrorFollow_some hsome]

/-! ### Snapshots and restorations (R321 to R323) -/

section
variable {clk : Clock} {host : Mem} {t : Tok} {x : Sqe} {n : Node} {p num : Nat} {k : ObjKind} {d : Dur} (href : snapRef n t.fn x = some (p, k, num)) (hd : getDur n p k num = some d)
include href hd
theorem snapshotTake_waits (hsnap : d.snap = none) (hwant : d.wantSnap = none) : snapshotTake clk host t x n = modDur p k num (fun d => { d with wantSnap := some (some t) }) n := by
  simp only [snapshotTake, href, hd, hsnap, hwant, Option.isSome_none, Bool.or_self, Bool.false_eq_true, if_false]
theorem snapshotTake_busy (hbusy : d.snap.isSome = true ∨ d.wantSnap.isSome = true) : snapshotTake clk host t x n = post clk t stBusy 0 n := by
  simp only [snapshotTake, href, hd]
  exact if_pos ((Bool.or_eq_true _ _).mpr hbusy)
theorem snapshotRestore_asks {r : Recover} {m : Node} (hrec : d.recover = none) (hsnap : d.snap = none) (hr : r = { tok := t, src := argOwner x.arg1, srcP := argOwnerP x.arg1, bud := argOwner x.arg2, budP := argOwnerP x.arg2 })
    (hm : askStripe clk p k num 0 (if x.arg3 = 0 then none else some x.arg3) (modDur p k num (fun d => { d with recover := some r }) n) = m) :
    snapshotRestore clk host t x n = if (((getDur m p k num).bind (·.recover)).map (fun r => r.heard.length)) == some 10 then endRecover clk p k num stGenStale 0 m else m := by
  subst hr hm
  simp only [snapshotRestore, href, hd, hrec, hsnap, Option.isSome_none, Bool.or_self, Bool.false_eq_true, if_false]
end

/-- The chunks that stay of those kept: of the source object that `same` picks out, those of its three latest epochs. -/
def latestThree (same : Kept → Bool) (all : List Kept) : List Kept :=
  all.filter (fun x => !same x || ((sortBy (fun a b => decide (b ≤ a)) (nubNat ((all.filter same).map (·.epoch)))).take 3).contains x.epoch)
/-- The first chunk of a source object is of its latest epoch: all the chunks stay. -/
theorem latestThree_first {same : Kept → Bool} {kept : List Kept} {y : Kept} (hnew : kept.filter same = []) (hy : same y = true) : latestThree same (kept ++ [y]) = kept ++ [y] := by
  have hepochs : sortBy (fun a b => decide (b ≤ a)) (nubNat (((kept ++ [y]).filter same).map (·.epoch))) = [y.epoch] := by
    rw [List.filter_append, hnew, List.filter_singleton, hy]
    rfl
  unfold latestThree
  rw [hepochs]
  refine List.filter_eq_self.mpr fun x hx => ?_
  rcases List.mem_append.mp hx with hold | hfirst
  · simp [Bool.eq_false_iff.mpr (List.filter_eq_nil_iff.mp hnew x hold)]
  · simp [List.mem_singleton.mp hfirst]
/-- The chunks of the object that a message's chunk belongs to. -/
def sameObj (m : Msg) : Kept → Bool := sameSource m.src m.srcPtn (kindOf (leAt m.body 8 1)) (BitVec.ofNat 64 (leAt m.body 0 8))
/-- The chunk that a message carries, at block `blk` of the node's object for chunks. -/
def chunkFrom (m : Msg) (blk : Nat) : Kept :=
  { src := m.src, srcP := m.srcPtn, kind := kindOf (leAt m.body 8 1), objId := BitVec.ofNat 64 (leAt m.body 0 8), epoch := leAt m.body 0x10 8, stripe := leAt m.body 0x20 4, chunk := leAt m.body 9 1, total := leAt m.body 0x24 4, bytes := m.body, blk := blk }
theorem sameObj_chunkFrom (m : Msg) (blk : Nat) : sameObj m (chunkFrom m blk) = true := by simp [sameObj, sameSource, chunkFrom]
/-- A chunk arrives and the chunks `stay` stay: the others leave flash, and it is staged where it is one of them. -/
def keepChunk (clk : Clock) (m : Msg) (c : Kept) (stay : List Kept) (n : Node) : Node :=
  let dropped := foldNode (n.flash.chunks.filter (fun x => !stay.contains x)) (dropKept clk chunkObj) n
  ackBack clk m (if stay.contains c then stageKept clk chunkObj c false (modFls (fun f => { f with chunks := stay }) dropped) else modFls (fun f => { f with chunks := stay }) dropped)
section
variable {clk : Clock} {m : Msg} {n : Node} {c : Kept}
theorem keepChunk_all : keepChunk clk m c (n.flash.chunks ++ [c]) n = ackBack clk m (stageKept clk chunkObj c false (modFls (fun f => { f with chunks := f.chunks ++ [c] }) n)) := by
  have hgone : n.flash.chunks.filter (fun x => !(n.flash.chunks ++ [c]).contains x) = [] := List.filter_eq_nil_iff.mpr fun x hx => by simp [hx]
  have hstays : (n.flash.chunks ++ [c]).contains c = true := by simp
  unfold keepChunk
  rw [hgone]
  exact congrArg (ackBack clk m) (if_pos hstays)
variable (hflash : 4096 * cdiv m.body.length 4096 ≤ freeFlash n) (hroom : stageFill n + cdiv m.body.length 4096 ≤ stageSize) {n1 : Node} (hn1 : needObj m.dstPtn chunkObj n = n1) (hc : chunkFrom m (keptAt n1 chunkObj n1.flash.chunks (cdiv m.body.length 4096)) = c)
include hflash hroom hn1 hc
theorem snapChunk_keeps : snapChunk m clk n =
    keepChunk clk m c (latestThree (sameObj m) (n1.flash.chunks.filter (fun x => !(sameObj m x && x.epoch == c.epoch && x.stripe == c.stripe && x.chunk == c.chunk)) ++ [c])) n1 := by
  have hstarts : ¬ (decide (freeFlash n < 4096 * cdiv m.body.length 4096) || decide (stageSize < stageFill n + cdiv m.body.length 4096)) = true := by
    simp [Nat.not_lt.mpr hflash, Nat.not_lt.mpr hroom]
  subst hn1 hc
  exact if_neg hstarts
/-- No chunk gives way to the first of its object. -/
theorem snapChunk_first (hnew : n1.flash.chunks.filter (sameObj m) = []) : snapChunk m clk n = ackBack clk m (stageKept clk chunkObj c false (modFls (fun f => { f with chunks := f.chunks ++ [c] }) n1)) := by
  have hothers : n1.flash.chunks.filter (fun x => !(sameObj m x && x.epoch == c.epoch && x.stripe == c.stripe && x.chunk == c.chunk)) = n1.flash.chunks :=
    List.filter_eq_self.mpr fun x hx => by simp [Bool.eq_false_iff.mpr (List.filter_eq_nil_iff.mp hnew x hx)]
  have hmine : sameObj m c = true := hc ▸ sameObj_chunkFrom m _
  rw [snapChunk_keeps hflash hroom hn1 hc, hothers, latestThree_first hnew hmine, keepChunk_all]
end

section
variable {clk : Clock} {m : Msg} {n : Node} {mine : Kept → Bool}
  (hmine : mine = fun x => sameSource (BitVec.ofNat 32 (leAt m.body 0x0C 4)) (leAt m.body 0x10 1 % 8) (kindOf (leAt m.body 8 1)) (BitVec.ofNat 64 (leAt m.body 0 8)) x)
include hmine
theorem recoverRead_chunks (hwhat : leAt m.body 9 1 = 0) : recoverRead m clk n = send clk (64 + m.dstPtn) m.src mkRecData m.level m.dstPtn m.srcPtn (m.body.take 40 ++
    ((n.flash.chunks.filter (fun x => mine x && x.stripe == leAt m.body 0x14 4 && (leAt m.body 0x18 8 == 0 || decide (x.epoch ≤ leAt m.body 0x18 8)))).map (·.bytes)).flatten) n := by
  subst hmine
  simp only [recoverRead, if_pos hwhat]
theorem recoverRead_records (hwhat : leAt m.body 9 1 ≠ 0) : recoverRead m clk n = send clk (64 + m.dstPtn) m.src mkRecData m.level m.dstPtn m.srcPtn (m.body.take 40 ++
    (toLe 8 (((n.flash.mirrors.filter mine).map (·.total)).foldl max 0) ++ (((n.flash.mirrors.filter mine).filter (fun x => decide (leAt m.body 0x18 8 ≤ x.epoch))).map (fun x => toLe 4 x.bytes.length ++ x.bytes)).flatten)) n := by
  subst hmine
  simp only [recoverRead, if_neg hwhat]
end

section
variable {clk : Clock} {m : Msg} {n : Node} {num : Nat} {r : Recover} {k : ObjKind} {id : W64} (hk : kindOf (leAt m.body 8 1) = k) (hid : BitVec.ofNat 64 (leAt m.body 0 8) = id) (hobj : findId n m.dstPtn k id = some num)
  (hr : (getDur n m.dstPtn k num).bind (·.recover) = some r) (hsrc : r.src.toNat = leAt m.body 0x0C 4) (hsrcP : r.srcP = leAt m.body 0x10 1 % 8)
include hk hid hobj hr hsrc hsrcP
theorem recoverData_chunks {r2 : Recover} (hwhat : leAt m.body 9 1 = 0) (hidle : r.reading = none) (hstripe : leAt m.body 0x14 4 = r.stripe)
    (hr2 : r2 = { r with heard := nubNat (r.heard ++ (List.range 10).filter (fun i => memberOf (getP n m.dstPtn) i == (m.src, m.srcPtn))), chunks := r.chunks ++ chunksIn r.src r.srcP k id ((m.body.drop 40).length / chunkSize) (m.body.drop 40) }) :
    recoverData m clk n = stepRecover clk m.dstPtn k num r2 (modRec m.dstPtn k num (fun _ => r2) n) := by
  have hfrom : ¬ (decide (r.src.toNat ≠ leAt m.body 0x0C 4) || r.srcP != leAt m.body 0x10 1 % 8) = true := by simp [hsrc, hsrcP]
  have hasked : ¬ (r.reading.isSome || leAt m.body 0x14 4 != r.stripe) = true := by simp [hidle, hstripe]
  subst hr2
  simp only [recoverData, hk, hid, hobj, hr, if_neg hfrom, if_pos hwhat, if_neg hasked]
theorem recoverData_records {ep : Nat} {bs : List Byte} {z w : Node} (hwhat : leAt m.body 9 1 ≠ 0) (hreads : r.reading = some ep) (hbud : m.src = r.bud) (hbudP : m.srcPtn = r.budP) (hin : leAt (m.body.drop 40) 0 8 ≤ ep)
    (hdec : decodeSnap r ep = some bs) (hload : loadSnap clk m.dstPtn k num bs n = some z)
    (happly : applyRecs clk m.dstPtn k num ((bodiesIn (m.body.drop 40).length ((m.body.drop 40).drop 8)).map (bodyRecs z m.dstPtn k num)).flatten z = (w, true)) :
    recoverData m clk n = endRecover clk m.dstPtn k num stSuccess 0 (modOwn m.dstPtn k num (fun o => { o with st := .released, owner := r.src, ownerP := r.srcP }) w) := by
  have hfrom : ¬ (decide (r.src.toNat ≠ leAt m.body 0x0C 4) || r.srcP != leAt m.body 0x10 1 % 8) = true := by simp [hsrc, hsrcP]
  have hbuddy : ¬ (decide (m.src ≠ r.bud) || m.srcPtn != r.budP) = true := by simp [hbud, hbudP]
  simp only [recoverData, hk, hid, hobj, hr, if_neg hfrom, if_neg hwhat, hreads, if_neg hbuddy, if_neg (Nat.not_lt.mpr hin), hdec, Option.bind_some, hload, happly, if_true]
end

/-- Settles O58: a restoration's first question splits on whether any member is left to answer; an answer of a member brings chunks, the buddy's brings records. -/
theorem snapshotsAndRestorations : Obligations.SnapshotsAndRestorations := by
  refine ⟨?_, ?_, ?_, ?_, ?_⟩
  · intro e q s t x n p num k d ht href hd
    exact ⟨fun hsnap hwant => host_to ht (snapshotTake_waits href hd hsnap hwant), fun hbusy => host_to ht (snapshotTake_busy href hd hbusy)⟩
  · intro e q s t x n m p num k d r ht href hd hrec hsnap hr hm
    have hjob := snapshotRestore_asks (host := hostOf e s) href hd hrec hsnap hr hm
    exact ⟨fun hleft => host_to ht (hjob.trans (if_neg (by simpa using hleft))), fun hall => host_to ht (hjob.trans (if_pos (beq_iff_eq.mpr hall)))⟩
  · intro e l m s n n1 y hd hflash hroom hn1 hnew hy
    exact msg_to hd (snapChunk_first hflash hroom hn1 hy hnew)
  · intro e l m s n mine hd hmine
    exact ⟨fun hwhat => msg_to hd (recoverRead_chunks hmine hwhat), fun hwhat => msg_to hd (recoverRead_records hmine hwhat)⟩
  · intro e l m s n num r r2 k id hd hk hid hobj hr hsrc hsrcP
    refine ⟨fun hwhat hidle hstripe hr2 => msg_to hd (recoverData_chunks hk hid hobj hr hsrc hsrcP hwhat hidle hstripe hr2), ?_⟩
    intro ep bs z w hwhat hreads hbud hbudP hin hdec hload happly
    exact msg_to hd (recoverData_records hk hid hobj hr hsrc hsrcP hwhat hreads hbud hbudP hin hdec hload happly)

end Sys2Proof.Machine
end
